-- ==== Sys2Proof/Word.lean ====
section
/-! DEFINITION. The machine's word types: a 64-bit register or tagged word, a byte, and a 32-bit lane or data word. -/

namespace Sys2Proof

/-- A 64-bit register, tagged store word or command word (R7, R18). -/
abbrev Word := BitVec 64

/-- The smallest addressable unit of local memory and of the stores. -/
abbrev Byte := BitVec 8

/-- A vector lane, a parity-carrying data word, or a binary32 code. -/
abbrev Lane := BitVec 32

end Sys2Proof
end

