-- ==== Sys2Proof/Types.lean ====
section
/-! DEFINITION. The names and records that commands carry: unit indices, who writes a register, the task image,
packets, memory requests and combine records. -/

namespace Sys2Proof

/-- Wing number, 0 to 15 (R12). -/
abbrev Wing := Fin 16
/-- Logical gallery number within a wing, 0 to 299 (R13). -/
abbrev GalIx := Fin 300
/-- Vitrine number within a gallery, 8 × row + column (R14). -/
abbrev VitIx := Fin 64
/-- Task slot, 0 to 15 (R37). -/
abbrev Slot := Fin 16
/-- Docent thread, 0 to 31 (R204). -/
abbrev Thread := Fin 32

/-- Plane A or plane B of a gallery (R82). -/
inductive Plane where
  | A | B
  deriving DecidableEq, Repr

/-- Host port A or B (R390). -/
inductive HostPort where
  | A | B
  deriving DecidableEq, Repr

/-- Who makes a register access: a host through its port, or a privileged Pendun thread (R206, R394). -/
inductive Writer where
  | host (h : HostPort)
  | pendun
  deriving DecidableEq, Repr

/-- A unit that a wing arbiter issues commands to (R175, R210). -/
inductive ArbUnit where
  | mx0 | mx1 | vec | dma
  deriving DecidableEq, Repr

/-- The three sources of urgent watch conversions (R129). -/
inductive UrgentSrc where
  | thermal | consEven | consOdd
  deriving DecidableEq, Repr

/-- Where a mailbox request comes from: a host port's mailbox or the management UART (R403, R429). -/
inductive MboxSrc where
  | host (h : HostPort)
  | uart
  deriving DecidableEq, Repr

/-- How a host port is reset (R404). -/
inductive ResetKind where
  | flr | hot | perst
  deriving DecidableEq, Repr

/-- Kind of a memory-controller request (R291, R293); `merge` is a write of less than a line. -/
inductive ReqKind where
  | read | write | merge | accumulate | drain | scrub
  deriving DecidableEq, Repr

/-- One request that waits for, or holds, a memory-controller slot (R21, R293). `cls` is 0 to 3 in the order of R21;
`due` is the tick with which a scheduled request is tagged. -/
structure MemReq where
  cls  : Nat
  due  : Nat
  line : Nat
  kind : ReqKind
  deriving DecidableEq, Repr

/-- One tensor's part of an AMAX combine record (R73, R356): binary32 magnitude and whether any part counted it. -/
structure AmaxEntry where
  tensor  : Nat
  amax    : Lane
  counted : Bool
  deriving DecidableEq, Repr

/-- A VOTE combine record (R319). -/
structure VoteRec where
  least    : Nat
  greatest : Nat
  poison   : Bool
  refuse   : Bool
  deriving DecidableEq, Repr

/-- A record of the combine tree: the two operations of R356. -/
inductive CombineRec where
  | amax (step : Nat) (es : List AmaxEntry)
  | vote (v : VoteRec)
  deriving DecidableEq, Repr

/-- Where a combine record arrived from (R356): a child, with its port, or the parent. -/
inductive CombineFrom where
  | child (port : Nat)
  | parent
  deriving DecidableEq, Repr

/-- What the cascade-start combine of R353 to R356 found: whether a physical identity occurs twice, whether exactly one root that
is the tick master exists, and the lowest negotiated version. -/
structure CascadeCensus where
  duplicate : Bool
  rooted    : Bool
  version   : Nat
  deriving DecidableEq, Repr

/-- A retained record (R418): the kept fields of one register, the trims and coefficients of one gallery, or the fences.
DEDUCED (log 93). -/
inductive RetRec where
  | reg (addr : Nat)
  | conv (n : Wing) (g : GalIx)
  | fences
  deriving DecidableEq, Repr

/-- What an accession meets that the part does not decide: the records whose CHECK fails in the always-on domain and in each flash copy
(R419), the stacks whose first read pattern after the restore fails (R286), and the slices whose calibration fails twice (R120). -/
structure BringUp where
  badAon   : List RetRec := []
  badPage0 : List RetRec := []
  badPage1 : List RetRec := []
  retrain  : List Wing := []
  slices   : List (Wing × GalIx × VitIx × Fin 3) := []
  deriving DecidableEq, Repr

/-- The issue of a docent thread's instruction (R204, R213): the gallery clock within the tick, and whether the docent meets an error in one
of its caches. -/
structure DocIssue where
  clk : Nat := 0
  err : Bool := false
  deriving DecidableEq, Repr

/-- A Bluyx packet (R343): the header unit's eight words and the data units' bytes. -/
structure Packet where
  header : List Word
  data   : List Byte
  deriving DecidableEq, Repr

/-- A tile of a task image (R256): what it asks for. `kind` and `state` are the LKIND and STATE of R246; `role` ties a plane or
gallery-store tile to its gallery role. `words` are the offsets of the words the image states full (R219). -/
structure ImageTile where
  kind   : Nat
  state  : Nat
  owner  : Wing
  qclass : Nat
  format : Nat
  frozen : Bool
  pinned : Bool
  link   : Option Nat
  addr   : Nat
  bytes  : List Byte
  words  : List Nat
  role   : Option Nat
  deriving DecidableEq, Repr

/-- A gallery role of a task image (R256): plane tiles, the gallery's settings, and the docent's entry point. -/
structure ImageRole where
  wing     : Wing
  resident : Bool
  budgetA  : Nat
  budgetB  : Nat
  gain     : Word
  readout  : Word
  entry    : Nat
  deriving DecidableEq, Repr

/-- An AC8 arena of a task image (R259): its wing, its first tile, its positions and its buffering. -/
structure ImageArena where
  wing   : Wing
  first  : Nat
  count  : Nat
  double : Bool
  deriving DecidableEq, Repr

/-- A wing's schedule table in a task image: the wing, the table's place in the wing store, and its entries (R30, R471). -/
structure ImageTable where
  wing    : Wing
  base    : Nat
  entries : List Word
  deriving DecidableEq, Repr

/-- A task image as the part reads it at load (R1, R3, R31, R256). Its encoding belongs to Dalpex (R395).
DESIGN CHOICE (log 49). -/
structure Image where
  period   : Nat
  parts    : Nat
  arrays   : Nat
  cycle    : Nat
  refFwd   : Bool
  training : Bool
  tables   : List ImageTable
  tiles    : List ImageTile
  roles    : List ImageRole
  arenas   : List ImageArena
  relocs   : List (Word × Word)
  planBase : Nat
  plan     : List (Word × Word)
  xlate    : List (Nat × Nat)
  gtabBase : Nat
  gtabLen  : Nat
  recvExp  : Nat
  sendExp  : Nat
  stepOut  : List (Nat × Nat)
  alistBase : Nat
  alist    : List Nat
  updTicks : Nat
  deriving DecidableEq, Repr

/-- An allocation request (R234, R266): task, class, block count, the kind and owner wing wanted, and the docent thread
that asks. -/
structure AllocReq where
  task      : Slot
  qclass    : Nat
  blocks    : Nat
  kind      : Nat
  owner     : Wing
  askWing   : Wing
  askGal    : GalIx
  askThread : Thread
  deriving DecidableEq, Repr

/-- One error laid over a stored outer-code symbol: the symbol of the record and the difference (R287). DESIGN CHOICE (log 97). -/
structure Upset where
  symbol : Nat
  diff   : BitVec 16
  deriving DecidableEq, Repr

/-- An arithmetic upset inside a matrix array: vector, row and the amount added to that row's chunk sum (R183). -/
structure CellUpset where
  vec  : Nat
  row  : Nat
  diff : Int
  deriving DecidableEq, Repr

/-- The outcome of comparing a guard run's or guard window's results with what they should be (R370, R371). -/
inductive GuardResult where
  | pass
  | fail (at_ : Nat)
  deriving DecidableEq, Repr

end Sys2Proof
end

