-- ==== Sys2Proof/Syntax.lean ====
section
/-! DEFINITION. The commands of the block: one constructor for each row of the table of operations and events, in the
table's order, with the row's operands. A docstring names the rule that governs the row. -/

namespace Sys2Proof

/-- A command: a register write, a host token, a packet, a docent or vector instruction, or an event on the part. -/
inductive Instr where
  /-- R29. A tick edge reaches the wings. Slot counting restarts, the schedule table advances, and task ticks and the elapsed count update. -/
  | tickEdge (sync : BitVec 8) (hub : Option (BitVec 32) := none)
  /-- R46. A wing wake finishes after its wake time, and held commands may issue. -/
  | wakeComplete (n : Wing)
  /-- R35. A command still incomplete more than the slip limit past its deadline stops its task with a schedule-slip error. -/
  | slipStop (t : Slot)
  /-- R28. A write to chip.tick.period sets the tick period from the next edge, or is discarded with BAD_WRITE. -/
  | periodWrite (w : Writer) (v : Word)
  /-- R43. A write to chip.task[t].start is checked and either sets the start tick or is refused with a start report. -/
  | taskStartWrite (w : Writer) (t : Slot) (v : Word)
  /-- R43. The start tick is reached, and the task begins with its wings at schedule entry 0. -/
  | taskStart (t : Slot)
  /-- R44. A write to PAUSE changes the part's drive of SYNC[2] 50 ns after the next edge. -/
  | pauseWrite (w : Writer) (v : Word)
  /-- R44. A change on SYNC[2], sampled before an edge, pauses or releases task ticks and command issue at that edge. -/
  | cascadePause (asserted : Bool)
  /-- R38. A strapped master's listening period ends. It starts driving SYNC[0], or sets DUP_MASTER and refuses starts. -/
  | masterListenEnd
  /-- R40. A non-master receives a tick pulse on SYNC[0] and aligns its local edge to it. -/
  | syncPulse (offset : Int)
  /-- R42. After 16 consecutive missed SYNC[0] pulses, a tier 3 tick-loss fault halts the part. -/
  | tickLoss
  /-- R41. The master's PERIOD arrives down the combine tree, and a part that differs sets PERIOD_MIS and refuses loads. -/
  | periodPropagate (p : BitVec 8)
  /-- R22. The wing arbiter issues held commands to their target units in due-tick order once their due tick begins. -/
  | commandIssue (n : Wing) (u : ArbUnit)
  /-- R73. The cascade-wide amax combine completes, and each participating tensor gets its history entry. -/
  | amaxCombine (step : Nat) (es : List AmaxEntry)
  /-- R77. After all contributions of a step arrive, the Registrar writes each participating tensor's census record, word 0 last. -/
  | censusRecordWrite (step : Nat) (x : Nat)
  /-- R156. An MVM command enters the gallery's 16-entry command queue. -/
  | mvm (n : Wing) (g : GalIx) (t : Slot) (w0 w1 : Word) (clk : Nat)
  /-- R156. An MVM reaches the first boundary meeting its conditions. Its inputs are read and its row phases are chosen. -/
  | mvmStart (n : Wing) (g : GalIx) (slot : Nat)
  /-- R159. After the MVM's last slot, partial sums pass through the tree and correction, and the results are written to the store. -/
  | mvmComplete (n : Wing) (g : GalIx) (bad : Bool := false)
  /-- R157. A WRITE command leaves the queue for the gallery's active or pending write slot. -/
  | write (n : Wing) (g : GalIx)
  /-- R157. A WRITE becomes active once its swap and due-tick conditions hold, and begins streaming a plane. -/
  | writeActivate (n : Wing) (g : GalIx)
  /-- R162. Fetched AC8 codes land in the staging ring, and a starved vitrine resumes writing cells. -/
  | stagedCodesArrive (n : Wing) (g : GalIx)
  /-- R88. A verify conversion of a written cell ends the cell, calls for a correction pulse, or marks it marginal or failed. -/
  | cellVerify (n : Wing) (g : GalIx) (v : VitIx) (slice : Fin 3) (code : BitVec 10)
  /-- R87. Every cell of a plane write is done. The plane is written, CMAX is recorded, group ages restart, and any rehang swap is requested. -/
  | planeWriteComplete (n : Wing) (g : GalIx)
  /-- R103. A SWAP command requests a plane swap at its due tick. -/
  | swap (n : Wing) (g : GalIx)
  /-- R103. Writing 1 to SWAP in gal[g].mode requests a swap, or is discarded with SWAP_DROP. -/
  | swapRequestWrite (w : Writer) (n : Wing) (g : GalIx) (v : Word)
  /-- R103. At the first eligible slot boundary, all 64 vitrines change planes and LIVE flips. -/
  | swapTakeEffect (n : Wing) (g : GalIx)
  /-- R116. Every ROT_SLOTS slots, the wing raises a rotation point for its vitrines' spare slices. -/
  | spareRotationPoint (n : Wing)
  /-- R116. At a slot boundary where the spare is calibrated and the next slice is free, the vitrine moves its spare index. -/
  | vitrineRotate (n : Wing) (g : GalIx) (v : VitIx)
  /-- R117. A write to SPARE_SEL fixes the spare slice or restores rotation, unless a task is loaded. -/
  | spareSelWrite (w : Writer) (n : Wing) (v : Word)
  /-- R118. A spare slice finishes its five-stage calibration and passes, or repeats it. -/
  | calibrationComplete (n : Wing) (g : GalIx) (v : VitIx) (passed : Bool)
  /-- R123. The spare completes 8 conversions of a column, and the vitrine updates its offset and gain coefficients. -/
  | columnMeasureDone (n : Wing) (g : GalIx) (v : VitIx) (p : Plane) (col : Fin 33) (z r : List Int)
  /-- R125. A vitrine's slots since its last full sweep of a plane cross AGE_LIMIT. -/
  | coefAged (n : Wing) (g : GalIx) (v : VitIx) (p : Plane)
  /-- R126. Software writes a coefficient at INDEX, unless a hardware update of that entry takes the same clock. -/
  | corrDataWrite (w : Writer) (n : Wing) (g : GalIx) (v : Word) (sameClock : Bool)
  /-- R133. A read of corr.data returns the coefficient at INDEX and advances INDEX when AUTOINC is set. -/
  | corrDataRead (w : Writer) (n : Wing) (g : GalIx)
  /-- R128. At each 1 µs boundary, the watch converter converts an urgent or sequenced channel and writes the result. -/
  | watchConversion (d : Fin 8) (code : BitVec 12)
  /-- R129. The thermal check or a Conservator requests an urgent conversion of a channel, merging with any request pending. -/
  | urgentRequest (d : Fin 8) (src : UrgentSrc) (ch : Fin 16)
  /-- R165. A write to cmd.w1 with no task loaded enqueues a register-path command and wakes the wing. -/
  | cmdW1Write (w : Writer) (n : Wing) (g : GalIx) (v : Word) (clk : Nat)
  /-- R165. 1 ms after the last register-path command or write ends, the wing returns to rest. -/
  | registerPathIdle (n : Wing)
  /-- R137. A sensor result older than 4 × T_AGE starts a stale episode, with 105 °C used in its place. -/
  | tempStale (n : Wing)
  /-- R140. A row group's age or droop reaches the due threshold. -/
  | groupDue (n : Wing) (g : GalIx) (p : Plane) (m : Fin 8)
  /-- R140. A group of a plane in use reaches the late threshold and sets LATE. -/
  | groupLate (n : Wing) (g : GalIx) (p : Plane) (m : Fin 8)
  /-- R140. A group reaches the expiry threshold. A plane holding a tile raises a tier 1 expiry event. -/
  | groupExpired (n : Wing) (g : GalIx) (p : Plane) (m : Fin 8)
  /-- R142. A live rehang starts writing the free idle plane from the source codes. -/
  | liveRehangStart (n : Wing) (g : GalIx)
  /-- R143. An idle rehang starts rewriting a tile-holding idle plane in place. -/
  | idleRehangStart (n : Wing) (g : GalIx)
  /-- R144. A resident refresh slot begins at an eligible edge and rewrites the plane's due groups. -/
  | refreshSlotStart (n : Wing) (g : GalIx) (p : Plane)
  /-- R144. A refresh slot ends after RT ticks, or once its chosen groups are rewritten, and waiting MVMs may start. -/
  | refreshSlotEnd (n : Wing) (g : GalIx)
  /-- R150. A rehang completes and cons.count rises. -/
  | rehangComplete (n : Wing) (g : GalIx)
  /-- R255. A rehang read whose LGEN no longer matches returns moved, and the Conservator sets SRC_MOVED. -/
  | movedResponse (n : Wing) (g : GalIx)
  /-- R176. A PASS command streams vectors through the array against the foreground set into accumulator entries. -/
  | pass (n : Wing) (a : Fin 2) (upsets : List CellUpset)
  /-- R178. A LOAD moves into the load slot and writes the background set, forming its checksum row. -/
  | load (n : Wing) (a : Fin 2)
  /-- R178. A LOAD finishes, the background set is ready, and a waiting token vector resumes. -/
  | loadComplete (n : Wing) (a : Fin 2)
  /-- R174. A FLUSH command moves into the flush slot to round or output its entries. -/
  | flush (n : Wing) (a : Fin 2)
  /-- R182. Once earlier passes on its entries are done, the FLUSH reads its entries, rounds them and writes the output. -/
  | flushBegin (n : Wing) (a : Fin 2)
  /-- R190. Writing 1 to FENCE fences a matrix array and stops any task bound to it. -/
  | arrayFenceWrite (w : Writer) (n : Wing) (a : Fin 2) (v : Word)
  /-- R202. An issued vector command is checked, resets engine state from its arguments, and runs its program. -/
  | vectorCommand (n : Wing)
  /-- R197. Ends the vector program and folds the lane flags into vec.status. -/
  | vVend (n : Wing)
  /-- R197. Copies a vector register on the active lanes. -/
  | vMov (n : Wing)
  /-- R197. Broadcasts a scalar register, converted to TYPE, to the active lanes. -/
  | vBcast (n : Wing)
  /-- R197. Adds two registers lane by lane. -/
  | vAdd (n : Wing)
  /-- R197. Subtracts two registers lane by lane. -/
  | vSub (n : Wing)
  /-- R197. Multiplies two registers lane by lane. -/
  | vMul (n : Wing)
  /-- R197. Takes the lane-wise minimum of two registers. -/
  | vMin (n : Wing)
  /-- R197. Takes the lane-wise maximum of two registers. -/
  | vMax (n : Wing)
  /-- R197. Takes the lane-wise absolute value. -/
  | vAbs (n : Wing)
  /-- R197. Negates each lane. -/
  | vNeg (n : Wing)
  /-- R197. Divides floats lane by lane, correctly rounded. -/
  | vDiv (n : Wing)
  /-- R197. Takes the square root of floats lane by lane, correctly rounded. -/
  | vSqrt (n : Wing)
  /-- R197. Computes 2^x from Kwedin's defined table. -/
  | vExp2 (n : Wing)
  /-- R197. Computes log2 x from Kwedin's defined table. -/
  | vLog2 (n : Wing)
  /-- R197. Writes a mask of lanes that compare equal. -/
  | vCmpeq (n : Wing)
  /-- R197. Writes a mask of lanes that compare less than. -/
  | vCmplt (n : Wing)
  /-- R197. Writes a mask of lanes that compare less than or equal. -/
  | vCmple (n : Wing)
  /-- R197. Selects each lane from va or vb by the mask. -/
  | vSel (n : Wing)
  /-- R197. Bitwise AND of integer lanes. -/
  | vAnd (n : Wing)
  /-- R197. Bitwise OR of integer lanes. -/
  | vOr (n : Wing)
  /-- R197. Bitwise XOR of integer lanes. -/
  | vXor (n : Wing)
  /-- R197. Shifts integer lanes left, clamping. -/
  | vShl (n : Wing)
  /-- R197. Shifts integer lanes right arithmetically, rounding to nearest even. -/
  | vShr (n : Wing)
  /-- R198. Converts lanes into the named format at a scale, counting clamps and non-finite inputs. -/
  | vCvt (n : Wing)
  /-- R197. Reduces each group of 256 lanes by the Amirriusk tree. -/
  | vRsum (n : Wing)
  /-- R201. Loads a register, register pair or raw accumulator records from memory, with optional tag waits. -/
  | vVld (n : Wing)
  /-- R201. Stores a register to memory, with optional tag fills; to the annex it is an accumulate-store. -/
  | vVst (n : Wing)
  /-- R197. Writes a mask of lanes whose sticky flag is set, optionally clearing that flag. -/
  | vFlag (n : Wing)
  /-- R197. Performs a scalar register operation. -/
  | vSop (n : Wing)
  /-- R197. Decrements a scalar and branches while it is non-zero. -/
  | vSloop (n : Wing)
  /-- R197. Branches unconditionally. -/
  | vSbr (n : Wing)
  /-- R205. A docent plain load of 1 to 8 bytes. -/
  | ld (n : Wing) (g : GalIx) (th : Thread) (rd : Fin 32) (addr : Word) (size : Nat) (i : DocIssue := {})
  /-- R205. A docent plain store of 1 to 8 bytes. -/
  | st (n : Wing) (g : GalIx) (th : Thread) (rs : Fin 32) (addr : Word) (size : Nat) (i : DocIssue := {})
  /-- R220. Loads a 64-bit word, parking at its home while it is empty. -/
  | ldf (n : Wing) (g : GalIx) (th : Thread) (rd : Fin 32) (addr : Word) (i : DocIssue := {})
  /-- R220. Loads a 64-bit word when full and sets it empty. -/
  | ldc (n : Wing) (g : GalIx) (th : Thread) (rd : Fin 32) (addr : Word) (i : DocIssue := {})
  /-- R220. Stores a 64-bit word and sets it full, parking while it is full. -/
  | stf (n : Wing) (g : GalIx) (th : Thread) (rs : Fin 32) (addr : Word) (i : DocIssue := {})
  /-- R205. The thread waits until all its earlier stores are written at their homes. -/
  | fence (n : Wing) (g : GalIx) (th : Thread) (i : DocIssue := {})
  /-- R207. Invalidates the data-cache lines of a range and cancels their prefetches. -/
  | dinv (n : Wing) (g : GalIx) (th : Thread) (addr : Word) (len : Nat) (i : DocIssue := {})
  /-- R205. Hints a 64-byte line into the data cache. -/
  | pref (n : Wing) (g : GalIx) (th : Thread) (addr : Word) (i : DocIssue := {})
  /-- R210. Submits a command to the gallery queue or to the wing arbiter, parking when full. -/
  | cmd (n : Wing) (g : GalIx) (th : Thread) (imm : BitVec 8) (rs : Fin 32) (clk : Nat) (i : DocIssue := {})
  /-- R205. Reads the own wing's current task tick. -/
  | tick (n : Wing) (g : GalIx) (th : Thread) (rd : Fin 32) (i : DocIssue := {})
  /-- R205. Starts a thread at an address, or returns −1 when no thread is free. -/
  | spawn (n : Wing) (g : GalIx) (th : Thread) (rd : Fin 32) (addr : Word) (i : DocIssue := {})
  /-- R205. Ends the calling thread. -/
  | exit (n : Wing) (g : GalIx) (th : Thread) (i : DocIssue := {})
  /-- R212. A DMA COPY command moves LEN bytes between global addresses, possibly over Bluyx or a host port. -/
  | copy (n : Wing) (k : Fin 8)
  /-- R228. After every packet of a transfer is written, its signal is applied to the named counter pair. -/
  | transferSignal (n : Wing) (k : Fin 8)
  /-- R221. A waiting access returned for a full waiting table is sent again at a tick edge. -/
  | tagWaitResend
  /-- R224. A fill still facing a full word a tick later is discarded with FILL_OVR, and the task stops. -/
  | fillOverrun (word : Nat)
  /-- R242. A privileged ledger.op write of KIND 0 raises P by N under R230. -/
  | signal (w : Writer) (n : Wing) (v : Word)
  /-- R242. A privileged ledger.op write of KIND 1 raises C by N under R230. -/
  | consume (w : Writer) (n : Wing) (v : Word)
  /-- R232. A token is put to a hub ledger queue, waiting or being discarded when the queue is full. -/
  | queuePut (q : Fin 64) (tok : Word)
  /-- R232. A token is taken from a hub ledger queue in order, waiting while it is empty. -/
  | queueTake (q : Fin 64)
  /-- R234. The Registrar admits or refuses an allocation of blocks against the class quota. -/
  | allocation (r : AllocReq)
  /-- R266. At each tick edge, the Registrar admits pending allocation requests in arrival order as room allows. -/
  | pendingAdmit
  /-- R277. An op of code 1 sets FROZEN on an entry, from the next census step. -/
  | setFrozen (w : Writer) (i : Nat)
  /-- R277. An op of code 2 clears FROZEN on an entry. -/
  | clearFrozen (w : Writer) (i : Nat)
  /-- R277. An op of code 3 sets PINNED on an entry. -/
  | setPinned (w : Writer) (i : Nat)
  /-- R277. An op of code 4 clears PINNED on an entry. -/
  | clearPinned (w : Writer) (i : Nat)
  /-- R253. An op of code 5 raises an entry's GEN by one. -/
  | bump (w : Writer) (i : Nat)
  /-- R251. An op of code 6 returns a copy of an entry in chip.reg.view. -/
  | catalogueRead (w : Writer) (i : Nat)
  /-- R265. The Registrar takes a Conservator conflict notice and moves the gallery role if its plane turns late. -/
  | conflictNotice (n : Wing) (g : GalIx)
  /-- R262. Under a pause, the Registrar moves a gallery role to a free gallery and installs a redirect. -/
  | galleryRedirect (n : Wing) (g : GalIx)
  /-- R263. Under a pause, the Registrar copies a 64 KiB block and installs a block redirect. -/
  | blockRedirect (i : Nat)
  /-- R261. A move incomplete 1 ms after its pause is abandoned with REPLACE_FAIL. -/
  | moveAbandon
  /-- R273. A LEND plan action starts copying a tile to a host window under a watch. -/
  | lend (t : Slot) (k : Nat)
  /-- R273. A LEND copy completes. The tile becomes loaned, or the copy is retried or abandoned when GEN moved. -/
  | lendCopyDone (t : Slot) (k : Nat)
  /-- R274. A RETURN plan action starts copying a loaned tile back, setting the destination tags empty. -/
  | returnTile (t : Slot) (k : Nat)
  /-- R274. A RETURN copy completes, the tile becomes resident and its words are set full. -/
  | returnCopyDone (t : Slot) (k : Nat)
  /-- R275. A PREFETCH plan action starts copying a resident tile into a wing-store block. -/
  | prefetch (t : Slot) (k : Nat)
  /-- R275. At the TICK edge, the prefetch copy is kept or discarded by comparing GEN. -/
  | prefetchCheck (t : Slot) (k : Nat)
  /-- R275. A prefetch copy completes after TICK, and its words are set full. -/
  | prefetchCopyDone (t : Slot) (k : Nat)
  /-- R21. The wing arbiter grants a freed request slot by class order and the per-bank cap. -/
  | memSlotGrant (n : Wing) (arrivals : List MemReq)
  /-- R288. The controller reads a line record, checks its syndromes and corrects or poisons it. -/
  | memRead (n : Wing) (line : Nat) (asLine : Nat) (us : List Upset)
  /-- R290. The controller writes a line, merging partial writes under the line lock. -/
  | memWrite (n : Wing) (line : Nat) (off : Nat) (data : List Byte)
  /-- R296. The controller adds an annex line's addends, saturating stickily, or drops them for a frozen block. -/
  | accumulateStore (n : Wing) (line : Nat) (addends : List (Option Lane)) (tensor : Nat)
  /-- R298. A DMA read of an annex line delivers the accumulators and zeroes the line. -/
  | drainingRead (n : Wing) (line : Nat)
  /-- R292. The scrubber reads and corrects a line on its SCRUB_H pass. -/
  | scrubRead (n : Wing) (line : Nat) (us : List Upset)
  /-- R299. Writing 1 to CLEAR starts zeroing the annex slice, unless a task is loaded. -/
  | annexClearWrite (w : Writer) (n : Wing) (v : Word)
  /-- R299. A write of ABASE or ASIZE sets the slice and starts a clear. -/
  | annexConfigWrite (w : Writer) (n : Wing) (size : Bool) (v : Word)
  /-- R299. An annex clear ends, CLEARING drops, and held loads may proceed. -/
  | annexClearDone (n : Wing)
  /-- R317. A contribution header written at its destination is checked for version, step and poison, and RECEIVED rises. -/
  | contributionHeader (addr : Nat) (hdr : List Word)
  /-- R319. Once RECEIVED and SENT reach their expected counts, the part submits its vote and empties its outcome words. -/
  | voteSubmit
  /-- R320. At the edge after the combined vote arrives, the part decides commit, skip or refuse and fills its outcome words. -/
  | outcomeDecide
  /-- R324. When SKIPS reaches SKIP_LIMIT, the task stops with SKIP_STOP. -/
  | skipLimit
  /-- R337. A port sends a 1,088-byte frame every 8 ns, with units, header and FEC. -/
  | frameSend (n : Wing) (a : Fin 2)
  /-- R338. A received frame is FEC-decoded and CRC-checked, then accepted or dropped, with ACK, NAK, credits and LP applied. -/
  | frameReceive (n : Wing) (a : Fin 2) (bytes : List Byte)
  /-- R340. 2 µs without ACK progress causes a replay; a ninth resend sets LFAULT instead. -/
  | replayTimeout (n : Wing) (a : Fin 2)
  /-- R342. Eight consecutive uncorrectable frames drop frame lock and start a retrain. -/
  | lockLoss (n : Wing) (a : Fin 2)
  /-- R342. A retrain stage ends, regaining lock or moving on to the next stage or to LFAULT. -/
  | portRetrainDone (n : Wing) (a : Fin 2) (ok : Bool)
  /-- R354. A port equalises, deskews and locks its lanes, possibly at ×4. -/
  | portBringup (n : Wing) (a : Fin 2) (lanes : BitVec 8)
  /-- R354. A capability MGMT exchange fixes the far identity, port and version, or sets NOVER. -/
  | capabilityExchange (n : Wing) (a : Fin 2) (farId : BitVec 12) (farPort : Fin 32) (farVset : BitVec 8)
  /-- R355. A packet queued for a low-power port wakes it on demand and sets LWAKE. -/
  | portWake (n : Wing) (a : Fin 2)
  /-- R355. A port wake completes, and waiting packets proceed. -/
  | portWakeDone (n : Wing) (a : Fin 2)
  /-- R442. With no task loaded, a port idle for 1 ms enters its low-power state. -/
  | portIdleLp (n : Wing) (a : Fin 2)
  /-- R344. An IDLE header unit fills the unit stream and is not forwarded. -/
  | idle (n : Wing) (a : Fin 2)
  /-- R347. A WRITE packet at its destination is checked and written, with its signal applied on LAST. -/
  | writePacket (n : Wing) (a : Fin 2) (p : Packet)
  /-- R344. A READ packet returns the requested units as RDATA to the source. -/
  | readPacket (n : Wing) (a : Fin 2) (p : Packet)
  /-- R344. An RDATA packet writes read data at its address. -/
  | rdata (n : Wing) (a : Fin 2) (p : Packet)
  /-- R344. A CONSUME packet raises C of the named pair by N under R230. -/
  | consumePacket (n : Wing) (a : Fin 2) (p : Packet)
  /-- R344. A MGMT packet delivers link firmware traffic from the far end of the port. -/
  | mgmt (n : Wing) (a : Fin 2) (p : Packet)
  /-- R349. A packet for another part is forwarded cut-through on its route's port group, with its dateline class set. -/
  | packetForward (n : Wing) (a : Fin 2) (p : Packet)
  /-- R357. Every 16 ticks, timestamps are exchanged over each port, and delay and offset update chip.tick.skew. -/
  | timestampExchange (n : Wing) (a : Fin 2) (t1 t2 t3 t4 : Nat) (parentOffset : Int)
  /-- R358. A part without a count adopts the cascade tick count from a far end when a port comes up. -/
  | tickCountAdopt (count : Nat)
  /-- R356. At cascade start, the tree, version and identity census are combined, setting ASSEMBLED or DUP_ID. -/
  | cascadeAssemble (c : CascadeCensus)
  /-- R356. A combine record arrives from a child or parent and is combined, forwarded or applied. -/
  | combineRecord (src : CombineFrom) (r : CombineRec)
  /-- R370. In a reserved guard run, a gallery runs a guard MVM and checks it against the source codes. -/
  | guardRun (n : Wing) (g : GalIx) (results : List Int)
  /-- R371. In a guard window, an array runs its check-only guard pass. -/
  | arrayGuardWindow (n : Wing) (a : Fin 2) (r : GuardResult)
  /-- R374. A vector engine runs its guard program and compares the output exactly, possibly reaching HARD. -/
  | vectorGuard (n : Wing) (r : GuardResult)
  /-- R378. Writing 1 to RELEASE frees the held task, and its entries become vacant. -/
  | release (w : Writer) (v : Word)
  /-- R378. ASSIST_WAIT passes after a stop with no assist started, and the task is released. -/
  | assistWaitExpiry
  /-- R381. Writing START to chip.flt.assist starts streaming the held task's checkpoint to DST. -/
  | assistStart (w : Writer) (v : Word)
  /-- R381. The assist stream writes its trailer, sets DONE and releases the task. -/
  | assistDone
  /-- R389. A write of ACK acknowledges fault records, unless it lies beyond HEAD. -/
  | logAckWrite (w : Writer) (v : Word)
  /-- R395. A LOAD token takes the slot for its port and checks the task image before placement. -/
  | hostLoad (h : HostPort) (img : Image)
  /-- R256. Placement ends, relocations are applied, thread 0 of each docent starts and the LOAD completes. -/
  | taskLoadComplete (t : Slot)
  /-- R395. An UNLOAD token unloads the slot's task and releases its ownership. -/
  | hostUnload (h : HostPort)
  /-- R395. A STOP token stops the slot's task at the next tick edge. -/
  | hostStop (h : HostPort)
  /-- R233. A SAVE token saves the task's context, tags, pairs and waiting accesses to host memory. -/
  | hostSave (h : HostPort)
  /-- R233. A RESTORE token restores a saved context and sends its waiting accesses again. -/
  | hostRestore (h : HostPort)
  /-- R395. A NOP token is simply completed. -/
  | hostNop (h : HostPort)
  /-- R397. The port takes a completion token and writes it to the host ring with PHASE, signalling MSI-X. -/
  | completionWrite (h : HostPort)
  /-- R397. The host advances CQ_HEAD and frees room in the completion ring. -/
  | cqHeadWrite (h : HostPort) (v : Word)
  /-- R402. Writing 1 to an ARM bit re-arms an MSI-X vector and sends a message if its source is set. -/
  | msixArmWrite (w : Writer) (h : HostPort) (v : Word)
  /-- R403. The host signals a mailbox message to Pendun. -/
  | h2pGoWrite (h : HostPort) (v : Word)
  /-- R403. The host clears P2H_FULL after reading a reply, allowing the next reply part. -/
  | p2hFullClear (h : HostPort) (v : Word)
  /-- R393. A write of PRIMARY from the primary port moves the primary role. -/
  | primaryWrite (w : Writer) (v : Word)
  /-- R393. The primary port's link is down for FAILOVER ms, and the role passes to the other port. -/
  | failover
  /-- R404. An FLR, hot reset or PERST_N resets one host port and stops its owned tasks. -/
  | portReset (h : HostPort) (k : ResetKind)
  /-- R404. A host link down for more than 1 ms resets the port and stops its owned tasks. -/
  | linkLoss (h : HostPort)
  /-- R401. A host access through BAR4 reaches local memory or stores at APBASE, ignoring tags. -/
  | apertureAccess (h : HostPort) (off : Nat) (len : Nat) (wdata : Option (List Byte))
  /-- R400. A part-issued PCIe request fails and sets CPL_ERR. A read's data, for the range `dst` to `dst + len - 1`, are delivered poisoned; `t` is
  the task that consumes them. -/
  | pcieCompletionError (h : HostPort) (t : Option Slot) (dst : Nat := 0) (len : Nat := 0)
  /-- R10. A write to a register with no behaviour of its own sets its fields by access code, or is discarded. -/
  | registerWrite (w : Writer) (addr : Nat) (size : Nat) (v : Word)
  /-- R425. Clears PENDING and starts erasing the inactive bank. -/
  | stageOpen (src : MboxSrc)
  /-- R425. The bank erase ends and STAGE_OPEN is answered. -/
  | stageEraseDone
  /-- R425. Writes staged data at the next bank offset. -/
  | stageData (src : MboxSrc) (off : Nat) (data : List Byte)
  /-- R425. Writes the boot record with PENDING set for the staged bank, checking it first in recovery. -/
  | stageCommit (src : MboxSrc)
  /-- R425. Abandons staging and leaves the active bank in force. -/
  | stageAbort (src : MboxSrc)
  /-- R433. Replies with staging status, next offset, PENDING and TRIES. -/
  | stageStatus (src : MboxSrc)
  /-- R433. Writes configuration profile data, erasing its sector on the first part. -/
  | profileWrite (src : MboxSrc) (profile : Fin 16) (off : Nat) (data : List Byte) (partno : Nat)
  /-- R434. Returns a signed attestation report over the given nonce. -/
  | attest (src : MboxSrc) (nonce : List Byte)
  /-- R433. Returns the identity certificate in 3 parts. -/
  | getCert (src : MboxSrc)
  /-- R429. A framed mailbox message received on the management UART is CRC-checked and served. -/
  | uartFrame (bytes : List Byte)
  /-- R414. RESET_N rises, and the part latches its straps, boots a bank, restores state and opens register space. `samples` are the
  strap samples, `puf` the seed that the extractor corrects, `hang` a step, 5 to 10, at which the launched set hangs. -/
  | accession (samples : List (BitVec 8)) (puf : Option (List Byte)) (hang : Option Nat) (b : BringUp := {})
  /-- R426. The accession watchdog expires and the part resets itself, restarting accession at step 2. -/
  | accWdogExpiry
  /-- R420. Every RSAVE minutes, Pendun starts a flash save of retained state. -/
  | rsaveTimer
  /-- R420. Writing 1 to SAVE_NOW starts a flash save of retained state. -/
  | saveNowWrite (w : Writer) (v : Word)
  /-- R420. A flash save of retained state ends, setting DOWN_READY if power-down was announced. -/
  | retainedSaveDone
  /-- R445. Writing DOWN_NOTICE stops all tasks and saves retained state for power-down. -/
  | downNotice (w : Writer) (v : Word)
  /-- R447. At 4 kHz, the Turnstile samples each channel and integrates v_s × v_v, counting clamps. The samples are in steps of the
  18-bit conversions; `opens` tells which channels' inputs are left open. -/
  | turnstileSample (vs vv : List Int) (opens : BitVec 4)
  /-- R448. Every 60 s, the Turnstile closes an interval, then signs, stores and posts a reading. -/
  | turnstileReading
  /-- R450. A 3-byte SMBus write sets the Turnstile read pointer. -/
  | smbusPointerWrite (data : List Byte)
  /-- R450. An SMBus read returns Turnstile bytes from the pointer onwards; `last` tells whether the transaction ends with them. -/
  | smbusRead (len : Nat) (last : Bool)
  /-- R451. A read lasting longer than 100 ms returns 0xFF thereafter, and a held reading is placed. -/
  | smbusReadTimeout
  /-- R452. VDD_TS comes up, and the Turnstile resumes SEQ and TOTAL from sealed flash with COLD set. -/
  | turnstilePowerUp
  /-- R446. The Turnstile crystal fails, and it runs from its internal oscillator with CLOCK_FAULT set. -/
  | crystalFail
  /-- R446. The crystal recovers, and CLOCK_FAULT leaves the readings. -/
  | crystalRecover
  /-- R439. RESET_N falls. The part is held in reset: work and halts end, planes become unwritten, and the stacks are held in self-refresh. -/
  | resetAssert
  /-- R439. The main or standby supplies fail. Loss of VDD_AON loses the always-on domain, and a fence not yet saved to flash may be lost. -/
  | powerLoss (aon : Bool)
  /-- R452. VDD_TS fails, and the Turnstile's integral since its last stored reading is lost. -/
  | turnstilePowerLoss (torn : Bool := false)
  /-- R390. A host port's PCIe link finishes training and comes up, setting UP, SPEED, WIDTH and FLIT, and SLOW if it trained narrower or slower. -/
  | pcieLinkUp (h : HostPort) (speed : Fin 7) (width : Nat) (flit : Bool)
  deriving DecidableEq, Repr

end Sys2Proof
end

