-- ==== Sys2Proof/Machine/Float.lean ====
section
/-! DEFINITION. Exact arithmetic on the floating-point formats: unpacking, one rounding to nearest even, and the operations
of IEEE 754 that the vector engine and the rounding rules use (R62 to R64, R70, R197). -/

namespace Sys2Proof.Machine

/-- A floating-point format by its exponent and fraction widths. -/
structure Fmt where
  ebits : Nat
  fbits : Nat
  deriving DecidableEq, Repr

/-- binary32 (R62). -/
def fmt32 : Fmt := ⟨8, 23⟩
/-- bfloat16 (R62). -/
def fmtBf : Fmt := ⟨8, 7⟩
/-- FP8 E4M3 (R64). -/
def fmtE4 : Fmt := ⟨4, 3⟩
/-- FP8 E5M2 (R64). -/
def fmtE5 : Fmt := ⟨5, 2⟩

/-- Exponent bias of a format. -/
def Fmt.bias (f : Fmt) : Int := 2 ^ (f.ebits - 1) - 1

/-- A value of a format: NaN (signalling or quiet), an infinity, or (−1)^neg × m × 2^e. -/
inductive Fl where
  | nan (signalling : Bool)
  | inf (neg : Bool)
  | fin (neg : Bool) (m : Nat) (e : Int)
  deriving DecidableEq, Repr

/-- The exponent of a format's smallest step: that of its subnormals. -/
def Fmt.qmin (f : Fmt) : Int := 1 - f.bias - f.fbits

/-- A code unpacked as IEEE 754 does. -/
def Fmt.unpack (f : Fmt) (x : Nat) : Fl :=
  let neg := x.testBit (f.ebits + f.fbits)
  let ex := bits x (f.ebits + f.fbits - 1) f.fbits
  let fr := bits x (f.fbits - 1) 0
  if ex = 2 ^ f.ebits - 1 then
    if fr = 0 then .inf neg else .nan (!fr.testBit (f.fbits - 1))
  else if ex = 0 then .fin neg fr f.qmin
  else .fin neg (fr + 2 ^ f.fbits) (f.qmin + ex - 1)

/-- E4M3 has no infinities: its top exponent is finite but for S.1111.111 (R64). -/
def unpackE4 (x : Nat) : Fl :=
  let ex := bits x 6 3
  let fr := bits x 2 0
  if ex = 15 ∧ fr = 7 then .nan false
  else if ex = 0 then .fin (x.testBit 7) fr fmtE4.qmin
  else .fin (x.testBit 7) (fr + 8) (fmtE4.qmin + ex - 1)

/-- The flags that a rounding raises. -/
structure FlFlags where
  invalid   : Bool
  divzero   : Bool
  overflow  : Bool
  underflow : Bool
  inexact   : Bool
  deriving DecidableEq, Repr

/-- No flag. -/
def noFlags : FlFlags := ⟨false, false, false, false, false⟩

/-- The flags of two operations together. -/
def FlFlags.or (a b : FlFlags) : FlFlags :=
  ⟨a.invalid || b.invalid, a.divzero || b.divzero, a.overflow || b.overflow, a.underflow || b.underflow, a.inexact || b.inexact⟩

/-- The canonical quiet NaN of a format (R63). -/
def Fmt.qnan (f : Fmt) : Nat := (2 ^ f.ebits - 1) * 2 ^ f.fbits + 2 ^ (f.fbits - 1)

/-- The code of an infinity. -/
def Fmt.infinity (f : Fmt) (neg : Bool) : Nat := (2 ^ f.ebits - 1) * 2 ^ f.fbits + b2n neg * 2 ^ (f.ebits + f.fbits)

/-- The code of a zero. -/
def Fmt.zero (f : Fmt) (neg : Bool) : Nat := b2n neg * 2 ^ (f.ebits + f.fbits)

/-- A magnitude m × 2^e, with `sticky` for a remainder below, as a whole number of steps of 2^q: rounded to nearest even,
and whether the rounding was inexact. -/
def roundAt (m : Nat) (e : Int) (sticky : Bool) (q : Int) : Nat × Bool :=
  if q ≤ e then (m * 2 ^ (e - q).toNat, sticky)
  else
    let k := (q - e).toNat
    let t := m / 2 ^ k
    let r := m % 2 ^ k
    let half := 2 ^ (k - 1)
    let up := r > half || (r = half && (sticky || t % 2 = 1))
    (t + b2n up, r ≠ 0 || sticky)

/-- Rounding of (−1)^neg × (m × 2^e + remainder) to a format, nearest even, once. Underflow is raised for a result that is
tiny before rounding and inexact. DEDUCED (log 19): R62 names IEEE 754-2019, which leaves the test to the implementer. -/
def Fmt.round (f : Fmt) (neg : Bool) (m : Nat) (e : Int) (sticky : Bool) : Nat × FlFlags :=
  if m = 0 then
    if sticky then (f.zero neg, { noFlags with underflow := true, inexact := true }) else (f.zero neg, noFlags)
  else
    let top : Int := Nat.log2 m + e
    let q := max (top - f.fbits) f.qmin
    let (t, inx) := roundAt m e sticky q
    let mag := (q - f.qmin).toNat * 2 ^ f.fbits + t
    let tiny := top < f.qmin + f.fbits
    if mag ≥ f.infinity false then (f.infinity neg, { noFlags with overflow := true, inexact := true })
    else (mag + f.zero neg, { noFlags with underflow := tiny && inx, inexact := inx })

/-- A signed integer times 2^e rounded to a format (R70). -/
def Fmt.ofInt (f : Fmt) (x e : Int) : Nat × FlFlags := f.round (x < 0) x.natAbs e false

/-- The integer m of a finite value on a common exponent q ≤ e, with its sign. -/
def signedAt (neg : Bool) (m : Nat) (e q : Int) : Int :=
  (if neg then -1 else 1) * ((m * 2 ^ (e - q).toNat : Nat) : Int)

/-- The exact sum of two finite values as an integer and an exponent. -/
def exactSum (n1 : Bool) (m1 : Nat) (e1 : Int) (n2 : Bool) (m2 : Nat) (e2 : Int) : Int × Int :=
  let q := min e1 e2
  (signedAt n1 m1 e1 q + signedAt n2 m2 e2 q, q)

/-- A signalling operand raises invalid (R63). -/
def sigFlags (a b : Fl) : FlFlags :=
  match a, b with
  | .nan true, _ => { noFlags with invalid := true }
  | _, .nan true => { noFlags with invalid := true }
  | _, _ => noFlags

/-- Addition with one rounding. An exact zero sum is +0 unless both operands are −0. -/
def Fmt.add (f : Fmt) (a b : Fl) : Nat × FlFlags :=
  match a, b with
  | .nan _, _ | _, .nan _ => (f.qnan, sigFlags a b)
  | .inf x, .inf y => if x = y then (f.infinity x, noFlags) else (f.qnan, { noFlags with invalid := true })
  | .inf x, .fin _ _ _ => (f.infinity x, noFlags)
  | .fin _ _ _, .inf y => (f.infinity y, noFlags)
  | .fin n1 m1 e1, .fin n2 m2 e2 =>
    let (s, q) := exactSum n1 m1 e1 n2 m2 e2
    if s = 0 then (f.zero (n1 && n2 && m1 == 0 && m2 == 0), noFlags)
    else f.round (s < 0) s.natAbs q false

/-- A value negated: the sign bit of anything but a NaN. -/
def Fl.neg : Fl → Fl
  | .nan s => .nan s
  | .inf n => .inf (!n)
  | .fin n m e => .fin (!n) m e

/-- Multiplication with one rounding. -/
def Fmt.mul (f : Fmt) (a b : Fl) : Nat × FlFlags :=
  match a, b with
  | .nan _, _ | _, .nan _ => (f.qnan, sigFlags a b)
  | .inf x, .inf y => (f.infinity (x != y), noFlags)
  | .inf x, .fin y m _ | .fin y m _, .inf x =>
    if m = 0 then (f.qnan, { noFlags with invalid := true }) else (f.infinity (x != y), noFlags)
  | .fin n1 m1 e1, .fin n2 m2 e2 => f.round (n1 != n2) (m1 * m2) (e1 + e2) false

/-- Division with one rounding: 64 further quotient bits and the remainder as sticky. -/
def Fmt.div (f : Fmt) (a b : Fl) : Nat × FlFlags :=
  match a, b with
  | .nan _, _ | _, .nan _ => (f.qnan, sigFlags a b)
  | .inf _, .inf _ => (f.qnan, { noFlags with invalid := true })
  | .inf x, .fin y _ _ => (f.infinity (x != y), noFlags)
  | .fin x _ _, .inf y => (f.zero (x != y), noFlags)
  | .fin n1 m1 e1, .fin n2 m2 e2 =>
    if m2 = 0 then
      if m1 = 0 then (f.qnan, { noFlags with invalid := true })
      else (f.infinity (n1 != n2), { noFlags with divzero := true })
    else
      let num := m1 * 2 ^ 64
      f.round (n1 != n2) (num / m2) (e1 - e2 - 64) (num % m2 ≠ 0)

/-- Square root with one rounding. −0 gives −0. -/
def Fmt.sqrt (f : Fmt) (a : Fl) : Nat × FlFlags :=
  match a with
  | .nan _ => (f.qnan, sigFlags a a)
  | .inf false => (f.infinity false, noFlags)
  | .inf true => (f.qnan, { noFlags with invalid := true })
  | .fin n m e =>
    if m = 0 then (f.zero n, noFlags)
    else if n then (f.qnan, { noFlags with invalid := true })
    else
      let (m', e') := if e % 2 = 0 then (m, e) else (2 * m, e - 1)
      let big := m' * 2 ^ 64
      let r := Nat.sqrt big
      f.round false r (e' / 2 - 32) (r * r ≠ big)

/-- Comparison of two values: less, equal, greater, or none when one is a NaN. Zeros are equal. -/
def Fl.cmp (a b : Fl) : Option Ordering :=
  match a, b with
  | .nan _, _ | _, .nan _ => none
  | .inf x, .inf y => some (if x = y then .eq else if x then .lt else .gt)
  | .inf x, .fin _ _ _ => some (if x then .lt else .gt)
  | .fin _ _ _, .inf y => some (if y then .gt else .lt)
  | .fin n1 m1 e1, .fin n2 m2 e2 =>
    let q := min e1 e2
    let x := signedAt n1 m1 e1 q
    let y := signedAt n2 m2 e2 q
    some (if x < y then .lt else if y < x then .gt else .eq)

/-- A value in another format with one rounding; a NaN becomes the canonical one (R62, R63). -/
def Fmt.convert (f : Fmt) (a : Fl) : Nat × FlFlags :=
  match a with
  | .nan s => (f.qnan, { noFlags with invalid := s })
  | .inf n => (f.infinity n, noFlags)
  | .fin n m e => f.round n m e false

/-- An FP8 E4M3 code imported into binary32 or bfloat16 (R64). Exact: every finite value has one code. No vector operation names an FP8
source (R197, R198), so that no command reaches this conversion. -/
def Fmt.importE4 (f : Fmt) (x : Nat) : Nat := (f.convert (unpackE4 x)).1

/-- An FP8 E5M2 code imported into binary32 or bfloat16 (R64). -/
def Fmt.importE5 (f : Fmt) (x : Nat) : Nat := (f.convert (fmtE5.unpack x)).1

/-! ### 2^x and log2 x (R197) -/

/-- A magnitude m × 2^e as a format's code, rounded toward zero, and whether that is exact. -/
def Fmt.floorMag (f : Fmt) (m : Nat) (e : Int) : Nat × Bool :=
  if m = 0 then (0, true)
  else
    let q := max ((Nat.log2 m : Int) + e - f.fbits) f.qmin
    let k := (q - e).toNat
    ((q - f.qmin).toNat * 2 ^ f.fbits + (if q ≤ e then m * 2 ^ (e - q).toNat else m / 2 ^ k), decide (q ≤ e) || decide (m % 2 ^ k = 0))

/-- 2^(fr / 2^80) in units of 2^-96, not above the exact value, by the bits of fr from the highest on; `root` is 2^(2^-k) at bit 80 − k. -/
def exp2Bits (fr : Nat) : Nat → Nat → Nat → Nat
  | 0, _, y => y
  | k + 1, root, y =>
    let root := Nat.sqrt (root * 2 ^ 96)
    exp2Bits fr k root (if fr.testBit k then y * root / 2 ^ 96 else y)

/-- The largest code not above 2^x, to 80 bits, and whether it is 2^x exactly; none where 2^x is beyond the finite range. -/
def Fmt.exp2Floor (f : Fmt) (neg : Bool) (m : Nat) (e : Int) : Option (Nat × Bool) :=
  if m ≠ 0 ∧ 10 ≤ (Nat.log2 m : Int) + e then (if neg then some (0, false) else none)
  else
    let mag := if -80 ≤ e then m * 2 ^ (e + 80).toNat else ceilDiv m (2 ^ (-80 - e).toNat)
    let down := if -80 ≤ e then m * 2 ^ (e + 80).toNat else m / 2 ^ (-80 - e).toNat
    let v : Int := if neg then -(mag : Int) else down
    let y := exp2Bits (v % 2 ^ 80).toNat 80 (2 * 2 ^ 96) (2 ^ 96)
    let r := f.floorMag y (v / 2 ^ 80 - 96)
    if f.infinity false ≤ r.1 then none else some (r.1, r.2 && decide (v % 2 ^ 80 = 0 ∧ mag = down))

/-- The fraction bits of log2 y for y in [1, 2), given in units of 2^-128, by repeated squaring. -/
def log2Bits : Nat → Nat → Nat → Nat
  | 0, _, acc => acc
  | k + 1, y, acc =>
    let z := y * y / 2 ^ 128
    if 2 ^ 129 ≤ z then log2Bits k (z / 2) (2 * acc + 1) else log2Bits k z (2 * acc)

/-- The code of log2(m × 2^e) rounded toward zero, to 100 bits, its sign, and whether it is exact; m is not 0. -/
def Fmt.log2Floor (f : Fmt) (m : Nat) (e : Int) : Nat × Bool × Bool :=
  let k := Nat.log2 m
  let ex : Int := k + e
  let p := log2Bits 100 (m * 2 ^ 128 / 2 ^ k) 0
  let whole := decide (m = 2 ^ k)
  let v := if 0 ≤ ex then ex.toNat * 2 ^ 100 + p else (-ex).toNat * 2 ^ 100 - p - (if whole then 0 else 1)
  let r := f.floorMag v (-100)
  (r.1, decide (ex < 0), r.2 && whole)

/-- A code within 1 ulp of a magnitude: of the two around it, or of an exact one and its neighbours, the one that `pick` names. -/
def Fmt.nearUlp (f : Fmt) (lo : Nat) (exact : Bool) (pick : Nat) : Nat :=
  min (f.infinity false - 1) (if exact then (if pick % 3 = 0 then lo else if pick % 3 = 1 then lo + 1 else lo - 1) else lo + pick % 2)

/-- round_even(x × 2^−s) of a finite value, exactly (R70). -/
def finToInt (neg : Bool) (m : Nat) (e s : Int) : Int :=
  let t := (roundAt m e false s).1
  if neg then -(t : Int) else t

/-- An amax is the magnitude of a finite element (R73): one that rounding would carry beyond binary32 is its largest finite value.
DESIGN CHOICE (log 21). -/
def finiteAmax (x : Nat) : Lane := BitVec.ofNat 32 (min (x % 2 ^ 31) 0x7F7FFFFF)

/-- A binary32 code's magnitude is above another's: both finite and non-negative, compared as numbers. -/
def amaxOf (a b : Lane) : Lane := if a.toNat % 2 ^ 31 < b.toNat % 2 ^ 31 then b &&& 0x7FFFFFFF else a &&& 0x7FFFFFFF

/-- The smallest integer s with m × 2^e ≤ q × 2^s (R72), for m and q not zero. -/
def smallestScale (m : Nat) (e : Int) (q : Nat) : Int :=
  let d : Int := Nat.log2 m - Nat.log2 q
  let fits := fun (s : Int) => let b := min s 0; m * 2 ^ (0 - b).toNat ≤ q * 2 ^ (s - b).toNat
  e + (if fits (d - 1) then d - 1 else if fits d then d else d + 1)

end Sys2Proof.Machine
end

