-- ==== Sys2Proof/Config.lean ====
section
/-! DEFINITION. What an implementation fixes and the values that the spec leaves open. Every `opaque` constant here is a
free value: it has no body, so that no proof can rest on what it is. Each is named in the assumption log. -/

namespace Sys2Proof

/-- Free: the parts of a column conversion's deviation (R115), by the draw of its slice's trims or of the conversion, and by place.
Log 2. `sliceGain` is in units of 2^-20 and `sliceOffset` in 2^-16 code, both limited; `sliceInl` is in 2^-16 code, limited; `sliceNoise`, in
2^-16 code, and `chargeNoise`, in 2^-16 product unit, are limited only in rms. -/
opaque Config.sliceGain : Nat → Nat → Int

/-- Free: see `sliceGain`. Log 2. -/
opaque Config.sliceOffset : Nat → Nat → Int

/-- Free: see `sliceGain`. Log 2. -/
opaque Config.sliceInl : Nat → Nat → Int

/-- Free: see `sliceGain`. Log 2. -/
opaque Config.sliceNoise : Nat → Nat → Int

/-- Free: see `sliceGain`. Log 2. -/
opaque Config.chargeNoise : Nat → Nat → Int

/-- Free: the offset, in 2^-16 product unit, of a column's path (R115), by place. Log 2. -/
opaque Config.columnOffset : Nat → Int

/-- Free: the deviation from 1, in units of 2^-20, of a column path's gain (R115), by place. Log 2. -/
opaque Config.columnGain : Nat → Int

/-- Free: the millivolts, within the accept band, by which a cell that was accepted is off its level (R83), by the draw of its write and
place. Log 2. -/
opaque Config.cellError : Nat → Nat → Int

/-- Free: the deviation of a cell's droop from the accumulator's, in units of 2^-12, within the limits of R139, by place. Log 3. -/
opaque Config.leakSpread : Nat → Int

/-- Free: the deviation, within 1 %, of the Conservator's droop step, by draw (R138). Log 3. -/
opaque Config.droopError : Nat → Nat

/-- Free: the tick budget less 1 of a gallery command, whose words carry none (R33, R155). Log 4. -/
opaque Config.galBudget : Word → Word → Fin 16

/-- Free: the address of a docent thread's next instruction; the docent encoding is Dalpex's (R205). Log 5. -/
opaque Config.docentNextPc : BitVec 44 → BitVec 44

/-- Free: the bits above the loaded bytes that a plain load of fewer than 8 bytes writes (R205). Log 6. -/
opaque Config.loadHigh : Nat → Word

/-- Free: which code Kwedin's table for 2^x gives among those within 1 ulp, or the code itself for an operand with no such code, by type
and operand (R197). Log 7. -/
opaque Config.exp2 : Nat → Lane → Lane

/-- Free: as `exp2`, for log2 x. Log 7. -/
opaque Config.log2 : Nat → Lane → Lane

/-- Free: the sticky flags that EXP2 and LOG2 raise on an operand (R197, R200). Log 7. -/
opaque Config.tableFlags : Nat → Lane → BitVec 5

/-- Free: a byte of host memory that the part has not written, by port, bus address and draw (R276, R399). Log 8. -/
opaque Config.hostByte : Nat → Nat → Nat → Byte

/-- Implementation: ML-DSA-65 verification of a key, a message and a signature (FIPS 204, R421, R424). Log 9. -/
opaque Config.mldsaVerify : List Byte → List Byte → List Byte → Bool

/-- Implementation: the ML-DSA-65 public key of a seed (FIPS 204, R431). Log 9. -/
opaque Config.mldsaPublic : List Byte → List Byte

/-- Free: a hedged ML-DSA-65 signature over a message, by context, key seed, message and draw (R434, R449). Log 9. -/
opaque Config.mldsaSign : Nat → List Byte → List Byte → Nat → List Byte

/-- Implementation: the two Kwedin key digests in the boot ROM (R424). Log 9. -/
opaque Config.romKeyDigest : Fin 2 → List Byte

/-- Implementation: the Turnstile's sealed key seed (R453). Log 9. -/
opaque Config.turnstileSeed : List Byte

/-- Implementation: SHAKE256 of the Turnstile's sealed firmware (R449). Log 9. -/
opaque Config.turnstileFwdig : List Byte

/-- Implementation: Kwedin's certificate for the Turnstile's key (R450). Log 9. -/
opaque Config.turnstileCert : List Byte

/-- Free: the elements of an empty foreground set that a PASS multiplies against (R180), by draw and place. Log 10. -/
opaque Config.emptySet : Nat → Nat → Int

/-- Free: the exponent that the checksum row's accumulators take with a loaded tile, by draw (R172, R183). Log 62. -/
opaque Config.checksumExp : Nat → Int

/-- Free: which of the four ways of a full data-cache set is replaced, by draw (R207). Log 11. -/
opaque Config.cacheVictim : Nat → Nat

/-- Free: how many of the lines that a hint or a stream prefetch names are installed in the data cache, by draw (R205,
R209). Log 26. -/
opaque Config.prefetchLines : Nat → Nat

/-- Free: which of the free threads a SPAWN starts, by draw (R205). Log 27. -/
opaque Config.spawnThread : Nat → Nat

/-- Free: what a SPAWN that starts a thread returns, by draw (R205). Log 27. -/
opaque Config.spawnResult : Nat → Word

/-- Free: word w of the guard PASS that the Pendun image holds for a matrix array (R371). Log 33. -/
opaque Config.guardPass : Nat → Nat → Word

/-- Free: the index of a stack's training record in the retained-settings page (R305), by wing. Log 37. -/
opaque Config.trainRecord : Nat → BitVec 56

/-- Free: the bytes of the retained fence records, whose layout is Pendun's, for the Catalogue words of the fences (R418, R434).
Log 38. -/
opaque Config.fenceRecords : List Word → List Byte

/-- Free: whether a sum of samples that is no whole number of a reading's units is rounded up in the reading (R447, R449). Log 40. -/
opaque Config.tsRoundUp : Int → Bool

/-- Free: a column's injected less uninjected sum, less one, as accession's sweep measures it, by draw, gallery and column (R120, R123).
Log 43. -/
opaque Config.sweepRatio (draw gallery column : Nat) : Nat

/-- Free: a column's offset coefficient as accession's sweep measures it, by draw, gallery and index (R120, R123). Log 43. -/
opaque Config.sweepOffset (draw gallery index : Nat) : BitVec 16

/-- Implementation: the token that a Conservator puts for a conflict (0) or a moved source (1) of a gallery's plane, but for the bit that tells
the two apart; its layout is not in the spec (R231). Log 51. -/
opaque Config.consNoticeBits (kind gallery plane : Nat) : Word

/-- Implementation: the token that the tick master puts for a start (0), a pause (1) or its end (2), a slip (3) or a loss (4), with the
task slot or 0; its layout is not in the spec (R231). Log 51. -/
opaque Config.tickEvent (kind slot : Nat) : Word

/-- Free: the value of a vector result for which the spec states no value (R197), by draw and lane. Log 10. -/
opaque Config.vectorOpen : Nat → Nat → Lane

/-- Free: whether MIN and MAX give the number, not the NaN, where one operand is a NaN (R63, R197). Log 10. -/
opaque Config.minMaxNumber : Bool

/-- Free: whether a lane of one result takes the high element of a packed source, by source type and format (R198). Log 10. -/
opaque Config.cvtHigh : Nat → Nat → Bool

/-- Free: byte i of the data that a failed read of the host delivers (R400), by draw. Log 124. -/
opaque Config.failedByte (draw i : Nat) : Byte

/-- Free: the sign that the reserved sign code 0b10 is taken as (R318, R327). Log 120. -/
opaque Config.reservedSign : Int

/-- Implementation: the instructions of the Pendun update program (R327), which the spec does not list. Log 120. -/
opaque Config.updateProgram : List Word

end Sys2Proof
end

