-- ==== Sys2Proof/Machine/Map.lean ====
section
/-! DEFINITION. Sparse data by key: a list of (key, value) pairs in one canonical form, keys strictly rising and no
entry equal to what an unlisted key reads as. Memory, the register file and every table of the state use it. -/

namespace Sys2Proof.Machine

/-- Sparse data by key. -/
abbrev NMap (α : Type) := List (Nat × α)

/-- The entry listed at a key. -/
def NMap.find {α : Type} : NMap α → Nat → Option α
  | [], _ => none
  | (k', v) :: t, k => if k' = k then some v else NMap.find t k

/-- What a key reads as: its entry, or `d key` where none is listed. -/
def NMap.get {α : Type} (d : Nat → α) (m : NMap α) (k : Nat) : α := (NMap.find m k).getD (d k)

/-- The map with an entry put in its place. -/
def NMap.put {α : Type} : NMap α → Nat → α → NMap α
  | [], k, v => [(k, v)]
  | (k', v') :: t, k, v =>
    if k < k' then (k, v) :: (k', v') :: t
    else if k' = k then (k, v) :: t
    else (k', v') :: NMap.put t k v

/-- The map with a key's entry removed. -/
def NMap.del {α : Type} : NMap α → Nat → NMap α
  | [], _ => []
  | (k', v') :: t, k => if k' = k then NMap.del t k else (k', v') :: NMap.del t k

/-- Writing a key: the entry is put, or removed when it equals what an unlisted key reads as. -/
def NMap.set {α : Type} [DecidableEq α] (d : Nat → α) (m : NMap α) (k : Nat) (v : α) : NMap α :=
  if v = d k then NMap.del m k else NMap.put m k v

/-- Every key of a map is at least b, the keys rise strictly, and no entry equals its default. -/
def NMap.wfFrom {α : Type} [DecidableEq α] (d : Nat → α) : Nat → NMap α → Bool
  | _, [] => true
  | b, (k, v) :: t => decide (b ≤ k) && decide (v ≠ d k) && NMap.wfFrom d (k + 1) t

/-- The canonical form of a map. -/
def NMap.wf {α : Type} [DecidableEq α] (d : Nat → α) (m : NMap α) : Bool := NMap.wfFrom d 0 m

/-- The listed keys. -/
def NMap.keys {α : Type} (m : NMap α) : List Nat := m.map Prod.fst

/-- A map with every listed entry changed by a function of its key and value (used where the function cannot give
the default, or where the result is set again entry by entry). -/
def NMap.mapVals {α β : Type} (f : Nat → α → β) (m : NMap α) : NMap β := m.map fun p => (p.1, f p.1 p.2)

/-- A map with every listed entry changed and written back, in canonical form. -/
def NMap.update {α : Type} [DecidableEq α] (d : Nat → α) (f : Nat → α → α) (m : NMap α) : NMap α :=
  m.foldl (fun acc p => NMap.set d acc p.1 (f p.1 p.2)) m

end Sys2Proof.Machine
end

