-- ==== Sys2Proof/Machine/RegMap.lean ====
section
/-! DEFINITION. The register map: for every defined register of the part its block, offset, copies, access masks,
reset value and the fields loaded from configuration flash or kept in retained state (R5 to R10, R465 to R467 and the
register tables of each chapter), and the BAR0 offset of each register by name. -/

namespace Sys2Proof.Machine

/-- Which block a register lies in (R465 to R467). `even` is a wing register populated only for even wings (R127). -/
inductive RegScope where
  | chip | wing | even | gal
  deriving DecidableEq, Repr

/-- One row of the register map: offset in its block, number of copies and their spacing, and the masks of its fields by
access code (R10), its reset value, its kept fields and its flash-loaded fields (R6). Bits in no mask are read-only. -/
structure RegDef where
  scope  : RegScope
  off    : Nat
  count  : Nat
  stride : Nat
  rw     : Nat
  w1c    : Nat
  w1s    : Nat
  wo     : Nat
  reset  : Nat
  kept   : Nat
  cfg    : Nat
  deriving DecidableEq, Repr

/-- BAR0 offset of offset `o` in wing n's register block (R466). -/
def wingReg (n o : Nat) : Nat := 0x1000000 + n * 0x100000 + o

/-- BAR0 offset of offset `o` in the register block of gallery g of wing n (R467). -/
def galReg (n g o : Nat) : Nat := 0x2000000 + n * 0x200000 + g * 0x1000 + o

/-- R48. -/
def Reg.tickPeriod : Nat := 0x1000
/-- R49. -/
def Reg.tickCtrl : Nat := 0x1008
/-- R50. -/
def Reg.tickStatus : Nat := 0x1010
/-- R51. -/
def Reg.tickCount : Nat := 0x1018
/-- R51. -/
def Reg.tickSkew : Nat := 0x1020
/-- R51. -/
def Reg.tickSlip : Nat := 0x1028
/-- R52. -/
def Reg.taskPerf (k : Nat) : Nat := 0x1100 + k * 0x10
/-- R52. -/
def Reg.taskStart (k : Nat) : Nat := 0x1108 + k * 0x10
/-- R53. -/
def Reg.tickNow (n : Nat) : Nat := wingReg n (0x200)
/-- R53. -/
def Reg.schedBase (n : Nat) : Nat := wingReg n (0x208)
/-- R53. -/
def Reg.schedLen (n : Nat) : Nat := wingReg n (0x210)
/-- R53. -/
def Reg.schedPos (n : Nat) : Nat := wingReg n (0x218)
/-- R54. -/
def Reg.pwrState (n : Nat) : Nat := wingReg n (0x220)
/-- R54. -/
def Reg.pwrMinIdle (n : Nat) : Nat := wingReg n (0x228)
/-- R80. -/
def Reg.censusBase : Nat := 0x1200
/-- R80. -/
def Reg.censusShape : Nat := 0x1208
/-- R80. -/
def Reg.censusScale : Nat := 0x1210
/-- R80. -/
def Reg.censusStep : Nat := 0x1218
/-- R81. -/
def Reg.censusStatus : Nat := 0x1220
/-- R106. -/
def Reg.phaseBudget (n g : Nat) : Nat := galReg n g (0x100)
/-- R107. -/
def Reg.phaseStat (n g : Nat) : Nat := galReg n g (0x108)
/-- R108. -/
def Reg.gain (n g : Nat) : Nat := galReg n g (0x120)
/-- R108. -/
def Reg.readout (n g : Nat) : Nat := galReg n g (0x128)
/-- R109. -/
def Reg.galMode (n g : Nat) : Nat := galReg n g (0x130)
/-- R110. -/
def Reg.vitStatus (n g k : Nat) : Nat := galReg n g (0x800 + k * 0x10)
/-- R110. -/
def Reg.vitEvents (n g k : Nat) : Nat := galReg n g (0x808 + k * 0x10)
/-- R131. -/
def Reg.spareSel (n : Nat) : Nat := wingReg n (0x400)
/-- R131. -/
def Reg.convRot (n : Nat) : Nat := wingReg n (0x408)
/-- R132. -/
def Reg.convStatus (n : Nat) : Nat := wingReg n (0x410)
/-- R133. -/
def Reg.corrIndex (n g : Nat) : Nat := galReg n g (0x150)
/-- R133. -/
def Reg.corrData (n g : Nat) : Nat := galReg n g (0x158)
/-- R134. -/
def Reg.vitConv (n g k : Nat) : Nat := galReg n g (0xc00 + k * 8)
/-- R135. -/
def Reg.watchCtrl (n : Nat) : Nat := wingReg n (0x500)
/-- R135. -/
def Reg.watchTherm (n : Nat) : Nat := wingReg n (0x508)
/-- R135. -/
def Reg.watchStatus (n : Nat) : Nat := wingReg n (0x510)
/-- R135. -/
def Reg.watchSeq (n k : Nat) : Nat := wingReg n (0x600 + k * 8)
/-- R135. -/
def Reg.watchResult (n k : Nat) : Nat := wingReg n (0x700 + k * 8)
/-- R149. -/
def Reg.consCtrl (n : Nat) : Nat := wingReg n (0x900)
/-- R149. -/
def Reg.consInterval (n : Nat) : Nat := wingReg n (0x908)
/-- R149. -/
def Reg.consTemp (n : Nat) : Nat := wingReg n (0x910)
/-- R150. -/
def Reg.consStatus (n : Nat) : Nat := wingReg n (0x918)
/-- R151. -/
def Reg.consState (n g : Nat) : Nat := galReg n g (0x210)
/-- R152. -/
def Reg.consSrc (n g k : Nat) : Nat := galReg n g (0x218 + k * 8)
/-- R152. -/
def Reg.consDroop (n g k : Nat) : Nat := galReg n g (0x240 + k * 8)
/-- R165. -/
def Reg.cmdW0 (n g : Nat) : Nat := galReg n g (0)
/-- R165. -/
def Reg.cmdW1 (n g : Nat) : Nat := galReg n g (8)
/-- R165. -/
def Reg.cmdStatus (n g : Nat) : Nat := galReg n g (0x10)
/-- R166. -/
def Reg.streamCfg (n g : Nat) : Nat := galReg n g (0x300)
/-- R166. -/
def Reg.streamStatus (n g : Nat) : Nat := galReg n g (0x308)
/-- R167. -/
def Reg.chkCtrl (n g : Nat) : Nat := galReg n g (0x320)
/-- R167. -/
def Reg.chkStatus (n g : Nat) : Nat := galReg n g (0x328)
/-- R168. -/
def Reg.chkLast (n g : Nat) : Nat := galReg n g (0x340)
/-- R168. -/
def Reg.chkResult (n g k : Nat) : Nat := galReg n g (0x380 + k * 8)
/-- R191. -/
def Reg.mxIdent (n k : Nat) : Nat := wingReg n (0xa00 + k * 0x100)
/-- R192. -/
def Reg.mxStatus (n k : Nat) : Nat := wingReg n (0xa08 + k * 0x100)
/-- R193. -/
def Reg.mxQueue (n k : Nat) : Nat := wingReg n (0xa30 + k * 0x100)
/-- R194. -/
def Reg.mxLast (n k : Nat) : Nat := wingReg n (0xa38 + k * 0x100)
/-- R214. -/
def Reg.docThreads (n g : Nat) : Nat := galReg n g (0x400)
/-- R214. -/
def Reg.docFault (n g : Nat) : Nat := galReg n g (0x408)
/-- R214. -/
def Reg.docFaultAddr (n g : Nat) : Nat := galReg n g (0x418)
/-- R215. -/
def Reg.vecStatus (n : Nat) : Nat := wingReg n (0xc00)
/-- R216. -/
def Reg.vecQueue (n : Nat) : Nat := wingReg n (0xc40)
/-- R216. -/
def Reg.vecFault (n : Nat) : Nat := wingReg n (0xc48)
/-- R217. -/
def Reg.dmaStatus (n : Nat) : Nat := wingReg n (0xd00)
/-- R240. -/
def Reg.ledgerStatus (n : Nat) : Nat := wingReg n (0xe00)
/-- R241. -/
def Reg.ledgerIndex (n : Nat) : Nat := wingReg n (0xe40)
/-- R241. -/
def Reg.ledgerCfg (n : Nat) : Nat := wingReg n (0xe48)
/-- R241. -/
def Reg.ledgerProd (n : Nat) : Nat := wingReg n (0xe50)
/-- R241. -/
def Reg.ledgerCons (n : Nat) : Nat := wingReg n (0xe58)
/-- R242. -/
def Reg.ledgerOp (n : Nat) : Nat := wingReg n (0xe60)
/-- R243. -/
def Reg.ledgerClass : Nat := 0x1300
/-- R243. -/
def Reg.ledgerQStatus : Nat := 0x1308
/-- R243. -/
def Reg.ledgerQueue (k : Nat) : Nat := 0x1400 + k * 0x10
/-- R244. -/
def Reg.quota (k : Nat) : Nat := 0x1800 + k * 8
/-- R277. -/
def Reg.regCtrl : Nat := 0x2000
/-- R277. -/
def Reg.regOp : Nat := 0x2008
/-- R279. -/
def Reg.regStatus : Nat := 0x2030
/-- R280. -/
def Reg.regTaskIndex (k : Nat) : Nat := 0x2100 + k * 0x20
/-- R280. -/
def Reg.regTaskPlan (k : Nat) : Nat := 0x2108 + k * 0x20
/-- R280. -/
def Reg.regTaskPlanLen (k : Nat) : Nat := 0x2110 + k * 0x20
/-- R281. -/
def Reg.gredir (n k : Nat) : Nat := wingReg n (0x1000 + k * 8)
/-- R282. -/
def Reg.bredir (n k : Nat) : Nat := wingReg n (0x1040 + k * 8)
/-- R283. -/
def Reg.arena (n k : Nat) : Nat := wingReg n (0x1200 + k * 0x10)
/-- R283. -/
def Reg.arenaIdx (n k : Nat) : Nat := wingReg n (0x1208 + k * 0x10)
/-- R300. -/
def Reg.memCfg (n : Nat) : Nat := wingReg n (0x1400)
/-- R300. -/
def Reg.memAnnex (n : Nat) : Nat := wingReg n (0x1408)
/-- R300. -/
def Reg.memAnnexSize (n : Nat) : Nat := wingReg n (0x1410)
/-- R301. -/
def Reg.memAnnexCtrl (n : Nat) : Nat := wingReg n (0x1418)
/-- R302. -/
def Reg.memStatus (n : Nat) : Nat := wingReg n (0x1420)
/-- R303. -/
def Reg.memErr (n : Nat) : Nat := wingReg n (0x1460)
/-- R304. -/
def Reg.memSlots (n : Nat) : Nat := wingReg n (0x1468)
/-- R305. -/
def Reg.memTrain (n : Nat) : Nat := wingReg n (0x1470)
/-- R331. -/
def Reg.stepCounter : Nat := 0x3000
/-- R331. -/
def Reg.stepCtrl : Nat := 0x3008
/-- R332. -/
def Reg.stepGtab : Nat := 0x3010
/-- R332. -/
def Reg.stepGtabLen : Nat := 0x3018
/-- R332. -/
def Reg.stepExpect : Nat := 0x3020
/-- R332. -/
def Reg.stepCount : Nat := 0x3028
/-- R333. -/
def Reg.stepStatus : Nat := 0x3030
/-- R334. -/
def Reg.stepVote : Nat := 0x3070
/-- R335. -/
def Reg.stepOut (n : Nat) : Nat := wingReg n (0x1500)
/-- R360. -/
def Reg.linkIdent : Nat := 0x4000
/-- R360. -/
def Reg.linkTree : Nat := 0x4008
/-- R361. -/
def Reg.linkStatus : Nat := 0x4010
/-- R362. -/
def Reg.linkRoute (k : Nat) : Nat := 0x10000 + k * 8
/-- R362. -/
def Reg.linkXlate (k : Nat) : Nat := 0x18000 + k * 8
/-- R363. -/
def Reg.bxCfg (n k : Nat) : Nat := wingReg n (0x1600 + k * 0x100)
/-- R363. -/
def Reg.bxStatus (n k : Nat) : Nat := wingReg n (0x1608 + k * 0x100)
/-- R364. -/
def Reg.bxEvents (n k : Nat) : Nat := wingReg n (0x1610 + k * 0x100)
/-- R365. -/
def Reg.bxSymerr (n k : Nat) : Nat := wingReg n (0x1650 + k * 0x100)
/-- R365. -/
def Reg.bxDelay (n k : Nat) : Nat := wingReg n (0x1658 + k * 0x100)
/-- R384. -/
def Reg.galCause (n g : Nat) : Nat := galReg n g (0x500)
/-- R384. -/
def Reg.galMask (n g : Nat) : Nat := galReg n g (0x508)
/-- R384. -/
def Reg.galFlt (n g : Nat) : Nat := galReg n g (0x510)
/-- R385. -/
def Reg.galFltState (n g : Nat) : Nat := galReg n g (0x540)
/-- R385. -/
def Reg.galFenced (n g : Nat) : Nat := galReg n g (0x548)
/-- R385. -/
def Reg.galCapInfo (n g : Nat) : Nat := galReg n g (0x550)
/-- R385. -/
def Reg.galCap (n g k : Nat) : Nat := galReg n g (0xe00 + k * 8)
/-- R386. -/
def Reg.wingCause (n : Nat) : Nat := wingReg n (0x1800)
/-- R386. -/
def Reg.wingMask (n : Nat) : Nat := wingReg n (0x1808)
/-- R386. -/
def Reg.wingGrp (n k : Nat) : Nat := wingReg n (0x1820 + k * 8)
/-- R387. -/
def Reg.wingFlt (n : Nat) : Nat := wingReg n (0x1900)
/-- R387. -/
def Reg.wingGuard (n : Nat) : Nat := wingReg n (0x1940)
/-- R387. -/
def Reg.mxCap0 (n k : Nat) : Nat := wingReg n (0x1960 + k * 8)
/-- R387. -/
def Reg.mxCap1 (n k : Nat) : Nat := wingReg n (0x19a0 + k * 8)
/-- R388. -/
def Reg.irqSummary : Nat := 0x5000
/-- R388. -/
def Reg.irqMask : Nat := 0x5008
/-- R389. -/
def Reg.fltStatus : Nat := 0x5100
/-- R389. -/
def Reg.fltState : Nat := 0x5118
/-- R389. -/
def Reg.fltCtrl : Nat := 0x5120
/-- R389. -/
def Reg.fltLogPos : Nat := 0x5128
/-- R389. -/
def Reg.fltAssist : Nat := 0x5130
/-- R389. -/
def Reg.fltAlist : Nat := 0x5138
/-- R389. -/
def Reg.fltAstat : Nat := 0x5140
/-- R405. -/
def Reg.hostStatus (k : Nat) : Nat := 0x6000 + k * 0x100
/-- R406. -/
def Reg.hostSqPut (k : Nat) : Nat := 0x6008 + k * 0x100
/-- R406. -/
def Reg.hostCredit (k : Nat) : Nat := 0x6010 + k * 0x100
/-- R406. -/
def Reg.hostCqBase (k : Nat) : Nat := 0x6018 + k * 0x100
/-- R406. -/
def Reg.hostCqLen (k : Nat) : Nat := 0x6020 + k * 0x100
/-- R406. -/
def Reg.hostCqHead (k : Nat) : Nat := 0x6028 + k * 0x100
/-- R406. -/
def Reg.hostCqTail (k : Nat) : Nat := 0x6030 + k * 0x100
/-- R407. -/
def Reg.hostWin (k : Nat) : Nat := 0x6038 + k * 0x100
/-- R407. -/
def Reg.hostWinSize (k : Nat) : Nat := 0x6040 + k * 0x100
/-- R407. -/
def Reg.hostAperture (k : Nat) : Nat := 0x6048 + k * 0x100
/-- R407. -/
def Reg.hostMsixArm (k : Nat) : Nat := 0x6050 + k * 0x100
/-- R407. -/
def Reg.hostMbox (k : Nat) : Nat := 0x6058 + k * 0x100
/-- R408. -/
def Reg.hostCfg : Nat := 0x6200
/-- R435. -/
def Reg.bootStrap : Nat := 0x7000
/-- R435. -/
def Reg.bootStatus : Nat := 0x7008
/-- R436. -/
def Reg.bootImage : Nat := 0x7010
/-- R436. -/
def Reg.bootFloor : Nat := 0x7018
/-- R436. -/
def Reg.bootRet : Nat := 0x7020
/-- R437. -/
def Reg.bootSync : Nat := 0x7028
/-- R437. -/
def Reg.bootIdent (k : Nat) : Nat := 0x7060 + k * 8
/-- R437. -/
def Reg.bootManifest (k : Nat) : Nat := 0x7080 + k * 8
/-- R460. -/
def Reg.pwrStatus : Nat := 0x8000
/-- R461. -/
def Reg.pwrCtrl : Nat := 0x8020
/-- R50. -/
def Reg.tickCtr (k : Nat) : Nat := 0x1030 + k * 8
/-- R81. -/
def Reg.censusCtr (k : Nat) : Nat := 0x1240 + k * 8
/-- R107. -/
def Reg.phaseCtr (n g k : Nat) : Nat := galReg n g (0x110 + k * 8)
/-- R109. -/
def Reg.modeCtr (n g k : Nat) : Nat := galReg n g (0x138 + k * 8)
/-- R132. -/
def Reg.convCtr (n k : Nat) : Nat := wingReg n (0x418 + k * 8)
/-- R135. -/
def Reg.watchCtr (n k : Nat) : Nat := wingReg n (0x518 + k * 8)
/-- R150. -/
def Reg.consCtr (n k : Nat) : Nat := wingReg n (0x920 + k * 8)
/-- R150. -/
def Reg.consCount (n : Nat) : Nat := wingReg n (0x950)
/-- R151. -/
def Reg.consGain (n g k : Nat) : Nat := galReg n g (0x200 + k * 8)
/-- R165. -/
def Reg.cmdCtr (n g k : Nat) : Nat := galReg n g (0x18 + k * 8)
/-- R166. -/
def Reg.streamCtr (n g : Nat) : Nat := galReg n g (0x310)
/-- R167. -/
def Reg.chkCtr (n g k : Nat) : Nat := galReg n g (0x330 + k * 8)
/-- R192. -/
def Reg.mxCtr0 (n k : Nat) : Nat := wingReg n (0xa10 + k * 8)
/-- R192. -/
def Reg.mxCtr1 (n k : Nat) : Nat := wingReg n (0xb10 + k * 8)
/-- R214. -/
def Reg.docCtr (n g : Nat) : Nat := galReg n g (0x410)
/-- R215. -/
def Reg.vecCtr (n k : Nat) : Nat := wingReg n (0xc08 + k * 8)
/-- R217. -/
def Reg.dmaCtr (n : Nat) : Nat := wingReg n (0xd08)
/-- R240. -/
def Reg.ledgerCtr (n k : Nat) : Nat := wingReg n (0xe08 + k * 8)
/-- R243. -/
def Reg.ledgerQCtr : Nat := 0x1310
/-- R278. -/
def Reg.regView (k : Nat) : Nat := 0x2010 + k * 8
/-- R279. -/
def Reg.regCtr (k : Nat) : Nat := 0x2038 + k * 8
/-- R279. -/
def Reg.regCache : Nat := 0x2080
/-- R284. -/
def Reg.regWatch (n : Nat) : Nat := wingReg n (0x1300)
/-- R302. -/
def Reg.memCtr (n k : Nat) : Nat := wingReg n (0x1428 + k * 8)
/-- R333. -/
def Reg.stepCtr (k : Nat) : Nat := 0x3038 + k * 8
/-- R361. -/
def Reg.linkCtr (k : Nat) : Nat := 0x4018 + k * 8
/-- R364. -/
def Reg.bxCtr0 (n k : Nat) : Nat := wingReg n (0x1618 + k * 8)
/-- R364. -/
def Reg.bxCtr1 (n k : Nat) : Nat := wingReg n (0x1718 + k * 8)
/-- R384. -/
def Reg.galFltCtr (n g k : Nat) : Nat := galReg n g (0x518 + k * 8)
/-- R387. -/
def Reg.wingFltCtr (n k : Nat) : Nat := wingReg n (0x1908 + k * 8)
/-- R389. -/
def Reg.fltCtr (k : Nat) : Nat := 0x5108 + k * 8
/-- R389. -/
def Reg.fltLog (k : Nat) : Nat := 0x5200 + k * 8
/-- R405. -/
def Reg.hostCtr0 (k : Nat) : Nat := 0x6078 + k * 8
/-- R405. -/
def Reg.hostCtr1 (k : Nat) : Nat := 0x6178 + k * 8
/-- R408. -/
def Reg.hostCfgCtr : Nat := 0x6208
/-- R435. -/
def Reg.bootCtr (k : Nat) : Nat := 0x7048 + k * 8
/-- R460. -/
def Reg.pwrCtr (k : Nat) : Nat := 0x8008 + k * 8

/-- The register map of the chip blocks, part 0. -/
def chipRegDefs0 : List RegDef := [
  ⟨.chip, 0x1000, 1, 0, 0xff, 0, 0, 0, 0, 0, 0xff⟩,  -- tickPeriod, R48
  ⟨.chip, 0x1008, 1, 0, 2, 0, 0, 0, 0, 0, 0⟩,  -- tickCtrl, R49
  ⟨.chip, 0x1010, 1, 0, 0, 0x1f, 0, 0, 0, 0, 0⟩,  -- tickStatus, R50
  ⟨.chip, 0x1018, 1, 0, 0, 0, 0, 0, 0, 0, 0⟩,  -- tickCount, R51
  ⟨.chip, 0x1020, 1, 0, 0, 0, 0, 0, 0, 0, 0⟩,  -- tickSkew, R51
  ⟨.chip, 0x1028, 1, 0, 0xffff, 0, 0, 0, 0x40, 0xffff, 0⟩,  -- tickSlip, R51
  ⟨.chip, 0x1100, 16, 0x10, 0, 0, 0, 0, 0, 0, 0⟩,  -- taskPerf, R52
  ⟨.chip, 0x1108, 16, 0x10, 0xffffffffffff, 0, 0, 0, 0, 0, 0⟩,  -- taskStart, R52
  ⟨.chip, 0x1200, 1, 0, 0xfffffffffc0, 0, 0, 0, 0, 0, 0xfffffffffc0⟩,  -- censusBase, R80
  ⟨.chip, 0x1208, 1, 0, 0xfffffff, 0, 0, 0, 0, 0, 0xfffffff⟩,  -- censusShape, R80
  ⟨.chip, 0x1210, 1, 0, 0xfffffffff80, 0, 0, 0, 0, 0, 0xfffffffff80⟩,  -- censusScale, R80
  ⟨.chip, 0x1218, 1, 0, 0, 0, 0, 0, 0, 0, 0⟩]  -- censusStep, R80

/-- The register map of the chip blocks, part 1. -/
def chipRegDefs1 : List RegDef := [
  ⟨.chip, 0x1220, 1, 0, 0, 0x1f, 0, 0, 0, 0, 0⟩,  -- censusStatus, R81
  ⟨.chip, 0x1300, 1, 0, 0, 0, 0, 0, 0, 0, 0x1fff0001⟩,  -- ledgerClass, R243
  ⟨.chip, 0x1308, 1, 0, 0, 1, 0, 0, 0, 0, 0⟩,  -- ledgerQStatus, R243
  ⟨.chip, 0x1400, 64, 0x10, 0, 0, 0, 0, 0, 0, 0⟩,  -- ledgerQueue, R243
  ⟨.chip, 0x1800, 128, 8, 0xffffff, 0, 0, 0, 0, 0xffffff, 0xffffff⟩,  -- quota, R244
  ⟨.chip, 0x2000, 1, 0, 0x10fffe0000000, 0, 0, 0, 0x1000000000000, 0x1000000000000, 0xfffe0000000⟩,  -- regCtrl, R277
  ⟨.chip, 0x2008, 1, 0, 0, 0, 0, 0xf03ffffff, 0, 0, 0⟩,  -- regOp, R277
  ⟨.chip, 0x2030, 1, 0, 0, 0x1ff, 0, 0, 0, 0, 0⟩,  -- regStatus, R279
  ⟨.chip, 0x2100, 16, 0x20, 0, 0, 0, 0, 0, 0, 0⟩,  -- regTaskIndex, R280
  ⟨.chip, 0x2108, 16, 0x20, 0, 0, 0, 0, 0, 0, 0⟩,  -- regTaskPlan, R280
  ⟨.chip, 0x2110, 16, 0x20, 0, 0, 0, 0, 0, 0, 0⟩,  -- regTaskPlanLen, R280
  ⟨.chip, 0x3000, 1, 0, 0xffffffffffff, 0, 0, 0, 0, 0, 0⟩]  -- stepCounter, R331

/-- The register map of the chip blocks, part 2. -/
def chipRegDefs2 : List RegDef := [
  ⟨.chip, 0x3008, 1, 0, 0xff, 0, 0, 0, 0x10, 0xff, 0⟩,  -- stepCtrl, R331
  ⟨.chip, 0x3010, 1, 0, 0xffffffffff0, 0, 0, 0, 0, 0, 0⟩,  -- stepGtab, R332
  ⟨.chip, 0x3018, 1, 0, 0xffffff, 0, 0, 0, 0, 0, 0⟩,  -- stepGtabLen, R332
  ⟨.chip, 0x3020, 1, 0, 0xffffffffffffffff, 0, 0, 0, 0, 0, 0⟩,  -- stepExpect, R332
  ⟨.chip, 0x3028, 1, 0, 0, 0, 0, 0, 0, 0, 0⟩,  -- stepCount, R332
  ⟨.chip, 0x3030, 1, 0, 0, 0x3f, 0, 0, 0, 0, 0⟩,  -- stepStatus, R333
  ⟨.chip, 0x3070, 1, 0, 0, 0, 0, 0, 0, 0, 0⟩,  -- stepVote, R334
  ⟨.chip, 0x4000, 1, 0, 0, 0, 0, 0, 0x10000000000, 0, 0xfff⟩,  -- linkIdent, R360
  ⟨.chip, 0x4008, 1, 0, 0xffffffff0000003f, 0, 0, 0, 0, 0, 0⟩,  -- linkTree, R360
  ⟨.chip, 0x4010, 1, 0, 0, 0xf, 0, 0, 0, 0, 0⟩,  -- linkStatus, R361
  ⟨.chip, 0x10000, 4096, 8, 0x11f1f, 0, 0, 0, 0, 0, 0⟩,  -- linkRoute, R362
  ⟨.chip, 0x18000, 4096, 8, 0x10fff, 0, 0, 0, 0, 0, 0⟩]  -- linkXlate, R362

/-- The register map of the chip blocks, part 3. -/
def chipRegDefs3 : List RegDef := [
  ⟨.chip, 0x5000, 1, 0, 0, 0, 0, 0, 0, 0, 0⟩,  -- irqSummary, R388
  ⟨.chip, 0x5008, 1, 0, 0x1fffff, 0, 0, 0, 0x1fffff, 0x1fffff, 0⟩,  -- irqMask, R388
  ⟨.chip, 0x5100, 1, 0, 0, 3, 0, 0, 0, 2, 0⟩,  -- fltStatus, R389
  ⟨.chip, 0x5118, 1, 0, 0, 0, 0, 0, 0, 0, 0⟩,  -- fltState, R389
  ⟨.chip, 0x5120, 1, 0, 0xffff, 0, 0, 0x10000, 0x64, 0xffff, 0⟩,  -- fltCtrl, R389
  ⟨.chip, 0x5128, 1, 0, 0xffffff000000, 0, 0, 0, 0, 0xffffffffffff, 0⟩,  -- fltLogPos, R389
  ⟨.chip, 0x5130, 1, 0, 0xffffffffffffff, 0, 0, 0x8000000000000000, 0, 0, 0⟩,  -- fltAssist, R389
  ⟨.chip, 0x5138, 1, 0, 0, 0, 0, 0, 0, 0, 0⟩,  -- fltAlist, R389
  ⟨.chip, 0x5140, 1, 0, 0, 0, 0, 0, 0, 0, 0⟩,  -- fltAstat, R389
  ⟨.chip, 0x6000, 2, 0x100, 0, 0xf0000, 0, 0, 0, 0, 0x200⟩,  -- hostStatus, R405
  ⟨.chip, 0x6008, 2, 0x100, 0, 0, 0, 0xffffffffffffffff, 0, 0, 0⟩,  -- hostSqPut, R406
  ⟨.chip, 0x6010, 2, 0x100, 0, 0, 0, 0, 0x100, 0, 0⟩]  -- hostCredit, R406

/-- The register map of the chip blocks, part 4. -/
def chipRegDefs4 : List RegDef := [
  ⟨.chip, 0x6018, 2, 0x100, 0xffffffffffffffc0, 0, 0, 0, 0, 0, 0⟩,  -- hostCqBase, R406
  ⟨.chip, 0x6020, 2, 0x100, 0xf, 0, 0, 0, 0, 0, 0⟩,  -- hostCqLen, R406
  ⟨.chip, 0x6028, 2, 0x100, 0xffffffff, 0, 0, 0, 0, 0, 0⟩,  -- hostCqHead, R406
  ⟨.chip, 0x6030, 2, 0x100, 0, 0, 0, 0, 0, 0, 0⟩,  -- hostCqTail, R406
  ⟨.chip, 0x6038, 2, 0x100, 0xfffffffffffff000, 0, 0, 0, 0, 0, 0⟩,  -- hostWin, R407
  ⟨.chip, 0x6040, 2, 0x100, 0x3fffffff, 0, 0, 0, 0, 0, 0⟩,  -- hostWinSize, R407
  ⟨.chip, 0x6048, 2, 0x100, 0xff000000000, 0, 0, 0, 0, 0, 0⟩,  -- hostAperture, R407
  ⟨.chip, 0x6050, 2, 0x100, 0, 0, 0xffffff, 0, 0, 0, 0⟩,  -- hostMsixArm, R407
  ⟨.chip, 0x6058, 2, 0x100, 0, 2, 1, 0, 0, 0, 0⟩,  -- hostMbox, R407
  ⟨.chip, 0x6200, 1, 0, 0xffff0001, 0x100000000, 0, 0, 0, 0xffff0001, 0xffff0001⟩,  -- hostCfg, R408
  ⟨.chip, 0x7000, 1, 0, 0, 0, 0, 0, 0, 0, 0⟩,  -- bootStrap, R435
  ⟨.chip, 0x7008, 1, 0, 0, 0x70000, 0, 0, 0, 0, 0⟩]  -- bootStatus, R435

/-- The register map of the chip blocks, part 5. -/
def chipRegDefs5 : List RegDef := [
  ⟨.chip, 0x7010, 1, 0, 0, 0, 0, 0, 0, 0, 0⟩,  -- bootImage, R436
  ⟨.chip, 0x7018, 1, 0, 0, 0, 0, 0, 0, 0xffffffffffffffff, 0⟩,  -- bootFloor, R436
  ⟨.chip, 0x7020, 1, 0, 0xfff0ffff, 0, 0, 0x10000, 0x3c, 0xfff0ffff, 0xfff00000⟩,  -- bootRet, R436
  ⟨.chip, 0x7028, 1, 0, 0xf8fa00, 0, 0, 0, 0, 0, 0⟩,  -- bootSync, R437
  ⟨.chip, 0x7060, 4, 8, 0, 0, 0, 0, 0, 0, 0⟩,  -- bootIdent, R437
  ⟨.chip, 0x7080, 4, 8, 0, 0, 0, 0, 0, 0, 0⟩,  -- bootManifest, R437
  ⟨.chip, 0x8000, 1, 0, 0, 3, 0, 0, 0, 0, 0⟩,  -- pwrStatus, R460
  ⟨.chip, 0x8020, 1, 0, 0, 0, 0, 1, 0, 0, 0⟩,  -- pwrCtrl, R461
  ⟨.chip, 0x1030, 5, 8, 0, 0, 0, 0, 0, 0, 0⟩,  -- tickCtr, R50
  ⟨.chip, 0x1240, 5, 8, 0, 0, 0, 0, 0, 0, 0⟩,  -- censusCtr, R81
  ⟨.chip, 0x1310, 1, 0, 0, 0, 0, 0, 0, 0, 0⟩,  -- ledgerQCtr, R243
  ⟨.chip, 0x2010, 4, 8, 0, 0, 0, 0, 0, 0, 0⟩]  -- regView, R278

/-- The register map of the chip blocks, part 6. -/
def chipRegDefs6 : List RegDef := [
  ⟨.chip, 0x2038, 9, 8, 0, 0, 0, 0, 0, 0, 0⟩,  -- regCtr, R279
  ⟨.chip, 0x2080, 1, 0, 0, 0, 0, 0, 0, 0, 0⟩,  -- regCache, R279
  ⟨.chip, 0x3038, 6, 8, 0, 0, 0, 0, 0, 0, 0⟩,  -- stepCtr, R333
  ⟨.chip, 0x4018, 4, 8, 0, 0, 0, 0, 0, 0, 0⟩,  -- linkCtr, R361
  ⟨.chip, 0x5108, 2, 8, 0, 0, 0, 0, 0, 0, 0⟩,  -- fltCtr, R389
  ⟨.chip, 0x5200, 128, 8, 0, 0, 0, 0, 0, 0xffffffffffffffff, 0⟩,  -- fltLog, R389
  ⟨.chip, 0x6078, 4, 8, 0, 0, 0, 0, 0, 0, 0⟩,  -- hostCtr0, R405
  ⟨.chip, 0x6178, 4, 8, 0, 0, 0, 0, 0, 0, 0⟩,  -- hostCtr1, R405
  ⟨.chip, 0x6208, 1, 0, 0, 0, 0, 0, 0, 0, 0⟩,  -- hostCfgCtr, R408
  ⟨.chip, 0x7048, 3, 8, 0, 0, 0, 0, 0, 0, 0⟩,  -- bootCtr, R435
  ⟨.chip, 0x8008, 2, 8, 0, 0, 0, 0, 0, 0, 0⟩]  -- pwrCtr, R460

/-- The register map of the chip blocks. -/
def chipRegDefs : List RegDef :=
  chipRegDefs0 ++ chipRegDefs1 ++ chipRegDefs2 ++ chipRegDefs3 ++ chipRegDefs4 ++ chipRegDefs5 ++ chipRegDefs6

/-- The register map of the wing blocks, part 0. -/
def wingRegDefs0 : List RegDef := [
  ⟨.wing, 0x200, 1, 0, 0, 0, 0, 0, 0, 0, 0⟩,  -- tickNow, R53
  ⟨.wing, 0x208, 1, 0, 0xfffffffffff, 0, 0, 0, 0, 0, 0⟩,  -- schedBase, R53
  ⟨.wing, 0x210, 1, 0, 0x1fff, 0, 0, 0, 0, 0, 0⟩,  -- schedLen, R53
  ⟨.wing, 0x218, 1, 0, 0, 0, 0, 0, 0, 0, 0⟩,  -- schedPos, R53
  ⟨.wing, 0x220, 1, 0, 0x30, 0, 0, 0, 0x30, 0x30, 0⟩,  -- pwrState, R54
  ⟨.wing, 0x228, 1, 0, 0xffffffffffff, 0, 0, 0, 0x1000020001, 0xffffffffffff, 0⟩,  -- pwrMinIdle, R54
  ⟨.wing, 0x400, 1, 0, 3, 0, 0, 0, 3, 0, 0⟩,  -- spareSel, R131
  ⟨.wing, 0x408, 1, 0, 0xffffffff, 0, 0, 0, 0x4000400, 0xffffffff, 0⟩,  -- convRot, R131
  ⟨.wing, 0x410, 1, 0, 0, 7, 0, 0, 0, 0, 0⟩,  -- convStatus, R132
  ⟨.even, 0x500, 1, 0, 0x13f, 0, 0, 0, 0, 0, 0x13f⟩,  -- watchCtrl, R135
  ⟨.even, 0x508, 1, 0, 0xfff0fff, 0, 0, 0, 0, 0, 0xfff0fff⟩,  -- watchTherm, R135
  ⟨.even, 0x510, 1, 0, 0, 7, 0, 0, 0, 0, 0⟩]  -- watchStatus, R135

/-- The register map of the wing blocks, part 1. -/
def wingRegDefs1 : List RegDef := [
  ⟨.even, 0x600, 32, 8, 0xf, 0, 0, 0, 0, 0, 0xf⟩,  -- watchSeq, R135
  ⟨.even, 0x700, 16, 8, 0, 0, 0, 0, 0, 0, 0⟩,  -- watchResult, R135
  ⟨.wing, 0x900, 1, 0, 0xf0f01ff, 0, 0, 0, 0x40, 0xf0f01ff, 0xf0f0000⟩,  -- consCtrl, R149
  ⟨.wing, 0x908, 1, 0, 0xffff, 0, 0, 0, 0, 0, 0xffffffff0000ffff⟩,  -- consInterval, R149
  ⟨.wing, 0x910, 1, 0, 0xffff0000, 0, 0, 0, 0x400000, 0xffff0000, 0xff00000000⟩,  -- consTemp, R149
  ⟨.wing, 0x918, 1, 0, 0, 0x3f, 0, 0, 0, 0, 0⟩,  -- consStatus, R150
  ⟨.wing, 0xa00, 2, 0x100, 0, 0, 0x200, 0, 0, 0x200, 0x100⟩,  -- mxIdent, R191
  ⟨.wing, 0xa08, 2, 0x100, 0, 0xf, 0, 0, 0, 0, 0⟩,  -- mxStatus, R192
  ⟨.wing, 0xa30, 2, 0x100, 0, 0, 0, 0, 0x1000000, 0, 0⟩,  -- mxQueue, R193
  ⟨.wing, 0xa38, 2, 0x100, 0, 0, 0, 0, 0, 0, 0⟩,  -- mxLast, R194
  ⟨.wing, 0xc00, 1, 0, 0, 0x7f, 0, 0, 0, 0, 0⟩,  -- vecStatus, R215
  ⟨.wing, 0xc40, 1, 0, 0, 0, 0, 0, 0, 0, 0⟩]  -- vecQueue, R216

/-- The register map of the wing blocks, part 2. -/
def wingRegDefs2 : List RegDef := [
  ⟨.wing, 0xc48, 1, 0, 0, 0, 0, 0, 0, 0, 0⟩,  -- vecFault, R216
  ⟨.wing, 0xd00, 1, 0, 0, 1, 0, 0, 0, 0, 0⟩,  -- dmaStatus, R217
  ⟨.wing, 0xe00, 1, 0, 0, 0x3f, 0, 0, 0, 0, 0⟩,  -- ledgerStatus, R240
  ⟨.wing, 0xe40, 1, 0, 0xfff, 0, 0, 0, 0, 0, 0⟩,  -- ledgerIndex, R241
  ⟨.wing, 0xe48, 1, 0, 0xffffffffff1ffff, 0x20000, 0, 0, 1, 0, 0⟩,  -- ledgerCfg, R241
  ⟨.wing, 0xe50, 1, 0, 0xffffffffffff, 0, 0, 0, 0, 0, 0⟩,  -- ledgerProd, R241
  ⟨.wing, 0xe58, 1, 0, 0xffffffffffff, 0, 0, 0, 0, 0, 0⟩,  -- ledgerCons, R241
  ⟨.wing, 0xe60, 1, 0, 0, 0, 0, 0x1ffff, 0, 0, 0⟩,  -- ledgerOp, R242
  ⟨.wing, 0x1000, 8, 8, 0, 0, 0, 0, 0, 0, 0⟩,  -- gredir, R281
  ⟨.wing, 0x1040, 32, 8, 0, 0, 0, 0, 0, 0, 0⟩,  -- bredir, R282
  ⟨.wing, 0x1200, 16, 0x10, 0, 0, 0, 0, 0, 0, 0⟩,  -- arena, R283
  ⟨.wing, 0x1208, 16, 0x10, 0, 0, 0, 0, 0, 0, 0⟩]  -- arenaIdx, R283

/-- The register map of the wing blocks, part 3. -/
def wingRegDefs3 : List RegDef := [
  ⟨.wing, 0x1400, 1, 0, 0x1ff, 0, 0, 0, 0x100, 0x1ff, 0xff⟩,  -- memCfg, R300
  ⟨.wing, 0x1408, 1, 0, 0xfffffff0000, 0, 0, 0, 0, 0, 0xfffffff0000⟩,  -- memAnnex, R300
  ⟨.wing, 0x1410, 1, 0, 0x7ffff, 0, 0, 0, 0, 0, 0x7ffff⟩,  -- memAnnexSize, R300
  ⟨.wing, 0x1418, 1, 0, 0, 0, 0, 1, 0, 0, 0⟩,  -- memAnnexCtrl, R301
  ⟨.wing, 0x1420, 1, 0, 0, 0x3f, 0, 0, 0, 0, 0⟩,  -- memStatus, R302
  ⟨.wing, 0x1460, 1, 0, 0, 0, 0, 0, 0, 0, 0⟩,  -- memErr, R303
  ⟨.wing, 0x1468, 1, 0, 0, 0, 0, 0, 0, 0, 0⟩,  -- memSlots, R304
  ⟨.wing, 0x1470, 1, 0, 0, 0, 0, 0, 0, 0xffffffffffffff01, 0⟩,  -- memTrain, R305
  ⟨.wing, 0x1500, 1, 0, 0xffffffffff9, 0, 0, 0, 0, 0, 0⟩,  -- stepOut, R335
  ⟨.wing, 0x1600, 2, 0x100, 0x1f, 0, 0, 0, 0x10, 0x11, 1⟩,  -- bxCfg, R363
  ⟨.wing, 0x1608, 2, 0x100, 0, 0, 0, 0, 0, 0, 0⟩,  -- bxStatus, R363
  ⟨.wing, 0x1610, 2, 0x100, 0, 0x7f, 0, 0, 0, 0, 0⟩]  -- bxEvents, R364

/-- The register map of the wing blocks, part 4. -/
def wingRegDefs4 : List RegDef := [
  ⟨.wing, 0x1650, 2, 0x100, 0, 0, 0, 0, 0, 0, 0⟩,  -- bxSymerr, R365
  ⟨.wing, 0x1658, 2, 0x100, 0, 0, 0, 0, 0, 0, 0⟩,  -- bxDelay, R365
  ⟨.wing, 0x1800, 1, 0, 0, 0, 0, 0, 0, 0, 0⟩,  -- wingCause, R386
  ⟨.wing, 0x1808, 1, 0, 0x3ffffff, 0, 0, 0, 0x3ff7fff, 0x3ffffff, 0⟩,  -- wingMask, R386
  ⟨.wing, 0x1820, 15, 8, 0, 0, 0, 0, 0, 0, 0⟩,  -- wingGrp, R386
  ⟨.wing, 0x1900, 1, 0, 0, 0xb, 0, 0, 0, 4, 0⟩,  -- wingFlt, R387
  ⟨.wing, 0x1940, 1, 0, 0xffff, 0, 0, 0, 0, 0xffff, 0xffff⟩,  -- wingGuard, R387
  ⟨.wing, 0x1960, 6, 8, 0, 0, 0, 0, 0, 0, 0⟩,  -- mxCap0, R387
  ⟨.wing, 0x19a0, 6, 8, 0, 0, 0, 0, 0, 0, 0⟩,  -- mxCap1, R387
  ⟨.wing, 0x418, 3, 8, 0, 0, 0, 0, 0, 0, 0⟩,  -- convCtr, R132
  ⟨.even, 0x518, 3, 8, 0, 0, 0, 0, 0, 0, 0⟩,  -- watchCtr, R135
  ⟨.wing, 0x920, 6, 8, 0, 0, 0, 0, 0, 0, 0⟩]  -- consCtr, R150

/-- The register map of the wing blocks, part 5. -/
def wingRegDefs5 : List RegDef := [
  ⟨.wing, 0x950, 1, 0, 0, 0, 0, 0, 0, 0, 0⟩,  -- consCount, R150
  ⟨.wing, 0xa10, 4, 8, 0, 0, 0, 0, 0, 0, 0⟩,  -- mxCtr0, R192
  ⟨.wing, 0xb10, 4, 8, 0, 0, 0, 0, 0, 0, 0⟩,  -- mxCtr1, R192
  ⟨.wing, 0xc08, 7, 8, 0, 0, 0, 0, 0, 0, 0⟩,  -- vecCtr, R215
  ⟨.wing, 0xd08, 1, 0, 0, 0, 0, 0, 0, 0, 0⟩,  -- dmaCtr, R217
  ⟨.wing, 0xe08, 6, 8, 0, 0, 0, 0, 0, 0, 0⟩,  -- ledgerCtr, R240
  ⟨.wing, 0x1300, 1, 0, 0, 0, 0, 0, 0, 0, 0⟩,  -- regWatch, R284
  ⟨.wing, 0x1428, 6, 8, 0, 0, 0, 0, 0, 0, 0⟩,  -- memCtr, R302
  ⟨.wing, 0x1618, 7, 8, 0, 0, 0, 0, 0, 0, 0⟩,  -- bxCtr0, R364
  ⟨.wing, 0x1718, 7, 8, 0, 0, 0, 0, 0, 0, 0⟩,  -- bxCtr1, R364
  ⟨.wing, 0x1908, 4, 8, 0, 0, 0, 0, 0, 0, 0⟩]  -- wingFltCtr, R387

/-- The register map of the wing blocks. -/
def wingRegDefs : List RegDef :=
  wingRegDefs0 ++ wingRegDefs1 ++ wingRegDefs2 ++ wingRegDefs3 ++ wingRegDefs4 ++ wingRegDefs5

/-- The register map of the gal blocks, part 0. -/
def galRegDefs0 : List RegDef := [
  ⟨.gal, 0x100, 1, 0, 0x33, 0, 0, 0, 0, 0, 0⟩,  -- phaseBudget, R106
  ⟨.gal, 0x108, 1, 0, 0, 0x30000, 0, 0, 0, 0, 0⟩,  -- phaseStat, R107
  ⟨.gal, 0x120, 1, 0, 0x17f700, 0, 0, 0, 0x13000, 0, 0⟩,  -- gain, R108
  ⟨.gal, 0x128, 1, 0, 0xffffff00ffffff, 0, 0, 0, 0xffffff00ffffff, 0, 0⟩,  -- readout, R108
  ⟨.gal, 0x130, 1, 0, 1, 0x300, 0, 4, 0, 0, 0⟩,  -- galMode, R109
  ⟨.gal, 0x800, 64, 0x10, 0, 0x3000000, 0, 0, 0, 0, 0⟩,  -- vitStatus, R110
  ⟨.gal, 0x808, 64, 0x10, 0, 0, 0, 0, 0, 0, 0⟩,  -- vitEvents, R110
  ⟨.gal, 0x150, 1, 0, 0x31fff, 0, 0, 0, 0, 0, 0⟩,  -- corrIndex, R133
  ⟨.gal, 0x158, 1, 0, 0xffff, 0, 0, 0, 0, 0xffff, 0⟩,  -- corrData, R133
  ⟨.gal, 0xc00, 64, 8, 0, 0, 0, 0, 2, 0, 0⟩,  -- vitConv, R134
  ⟨.gal, 0x210, 1, 0, 0, 0, 0, 0, 0, 0, 0⟩,  -- consState, R151
  ⟨.gal, 0x218, 2, 8, 0, 0, 0, 0, 0, 0, 0⟩]  -- consSrc, R152

/-- The register map of the gal blocks, part 1. -/
def galRegDefs1 : List RegDef := [
  ⟨.gal, 0x240, 16, 8, 0, 0, 0, 0, 0, 0, 0⟩,  -- consDroop, R152
  ⟨.gal, 0, 1, 0, 0, 0, 0, 0xffffffffffffffff, 0, 0, 0⟩,  -- cmdW0, R165
  ⟨.gal, 8, 1, 0, 0, 0, 0, 0xffffffffffffffff, 0, 0, 0⟩,  -- cmdW1, R165
  ⟨.gal, 0x10, 1, 0, 0, 0x300, 0, 0, 0, 0, 0⟩,  -- cmdStatus, R165
  ⟨.gal, 0x300, 1, 0, 0xf000, 0, 0, 0, 0xf000, 0, 0⟩,  -- streamCfg, R166
  ⟨.gal, 0x308, 1, 0, 0, 0x100000000, 0, 0, 0, 0, 0⟩,  -- streamStatus, R166
  ⟨.gal, 0x320, 1, 0, 0x1ffff00ffffff, 0, 0, 0, 0, 0xffff00ffffff, 0x1ffff00ffffff⟩,  -- chkCtrl, R167
  ⟨.gal, 0x328, 1, 0, 0, 3, 0, 0, 0, 0, 0⟩,  -- chkStatus, R167
  ⟨.gal, 0x340, 1, 0, 0, 0, 0, 0, 0, 0, 0⟩,  -- chkLast, R168
  ⟨.gal, 0x380, 8, 8, 0, 0, 0, 0, 0, 0, 0⟩,  -- chkResult, R168
  ⟨.gal, 0x400, 1, 0, 0, 0, 0, 0, 0, 0, 0⟩,  -- docThreads, R214
  ⟨.gal, 0x408, 1, 0, 0, 1, 0, 0, 0, 0, 0⟩]  -- docFault, R214

/-- The register map of the gal blocks, part 2. -/
def galRegDefs2 : List RegDef := [
  ⟨.gal, 0x418, 1, 0, 0, 0, 0, 0, 0, 0, 0⟩,  -- docFaultAddr, R214
  ⟨.gal, 0x500, 1, 0, 0, 0, 0, 0, 0, 0, 0⟩,  -- galCause, R384
  ⟨.gal, 0x508, 1, 0, 0x7f, 0, 0, 0, 0x7f, 0x7f, 0⟩,  -- galMask, R384
  ⟨.gal, 0x510, 1, 0, 0, 0x1f, 0, 0, 0, 0, 0⟩,  -- galFlt, R384
  ⟨.gal, 0x540, 1, 0, 0, 0, 0, 0, 0, 0, 0⟩,  -- galFltState, R385
  ⟨.gal, 0x548, 1, 0, 0, 0, 0, 0, 0, 0xffffffffffffffff, 0⟩,  -- galFenced, R385
  ⟨.gal, 0x550, 1, 0, 0, 0, 0, 0, 0, 0, 0⟩,  -- galCapInfo, R385
  ⟨.gal, 0xe00, 64, 8, 0, 0, 0, 0, 0, 0, 0⟩,  -- galCap, R385
  ⟨.gal, 0x110, 2, 8, 0, 0, 0, 0, 0, 0, 0⟩,  -- phaseCtr, R107
  ⟨.gal, 0x138, 2, 8, 0, 0, 0, 0, 0, 0, 0⟩,  -- modeCtr, R109
  ⟨.gal, 0x200, 2, 8, 0, 0, 0, 0, 0, 0, 0⟩,  -- consGain, R151
  ⟨.gal, 0x18, 2, 8, 0, 0, 0, 0, 0, 0, 0⟩]  -- cmdCtr, R165

/-- The register map of the gal blocks, part 3. -/
def galRegDefs3 : List RegDef := [
  ⟨.gal, 0x310, 1, 0, 0, 0, 0, 0, 0, 0, 0⟩,  -- streamCtr, R166
  ⟨.gal, 0x330, 2, 8, 0, 0, 0, 0, 0, 0, 0⟩,  -- chkCtr, R167
  ⟨.gal, 0x410, 1, 0, 0, 0, 0, 0, 0, 0, 0⟩,  -- docCtr, R214
  ⟨.gal, 0x518, 5, 8, 0, 0, 0, 0, 0, 0, 0⟩]  -- galFltCtr, R384

/-- The register map of the gal blocks. -/
def galRegDefs : List RegDef :=
  galRegDefs0 ++ galRegDefs1 ++ galRegDefs2 ++ galRegDefs3

/-- The row of the map that holds offset `o` of a block, if the block has a register there (R8). -/
def findDef : List RegDef → Nat → Option RegDef
  | [], _ => none
  | d :: ds, o =>
    if d.off ≤ o ∧ (if d.count = 1 then o = d.off else (o - d.off) % d.stride = 0 ∧ (o - d.off) / d.stride < d.count)
    then some d else findDef ds o

/-- A BAR0 offset taken apart: block, wing, gallery and offset in the block (R465 to R467). -/
structure RegAddr where
  scope : RegScope
  wing  : Nat
  gal   : Nat
  off   : Nat
  deriving DecidableEq, Repr

/-- Which block a BAR0 offset lies in (R465 to R467); none where no block lies. -/
def regAddr (a : Nat) : Option RegAddr :=
  if a < 0x1000000 then some ⟨.chip, 0, 0, a⟩
  else if a < 0x2000000 then some ⟨.wing, (a - 0x1000000) / 0x100000, 0, a % 0x100000⟩
  else if a < 0x4000000 then
    if a % 0x200000 / 0x1000 < 300 then some ⟨.gal, (a - 0x2000000) / 0x200000, a % 0x200000 / 0x1000, a % 0x1000⟩
    else none
  else none

/-- The register at a BAR0 offset; none where R8 says that no register is defined (R7, R8, R127). -/
def regDefAt (a : Nat) : Option RegDef :=
  match regAddr a with
  | none => none
  | some ra =>
    match ra.scope with
    | .chip => findDef chipRegDefs ra.off
    | .gal => findDef galRegDefs ra.off
    | .wing | .even =>
      match findDef wingRegDefs ra.off with
      | some d => if d.scope = .even ∧ ra.wing % 2 = 1 then none else some d
      | none => none

/-- The reset value of the register at a BAR0 offset (R6 step 1): that of its map row, and for mx[a].ident its own
number (R191); 0 where no register is. DESIGN CHOICE (log 48). -/
def regReset (a : Nat) : Word :=
  match regDefAt a with
  | none => 0
  | some d =>
    if d.scope = .wing ∧ d.off = 0xA00 then
      BitVec.ofNat 64 (2 * ((a - 0x1000000) / 0x100000) + (a % 0x100000 - 0xA00) / 0x100)
    else BitVec.ofNat 64 d.reset

end Sys2Proof.Machine
end

