-- ==== Sys2Proof/Machine/State.lean ====
section
/-! DEFINITION. The state of the part and of the Turnstile, as plain data: the register file, the memories with their tags
and parity, and for each unit the state that no register shows; the reset state; and the reasons a command can stop. -/

namespace Sys2Proof.Machine

/-- The register file: each register's stored bits by BAR0 offset (R465 to R467). Bits that only show a unit's other
state (queue depths, cause bits) are computed by the view, not stored. -/
abbrev Regs := NMap Word

/-- Local memory, the wing stores and the gallery stores: bytes by local address (R463). -/
abbrev Mem := List Host.Cell

/-- What a byte that nothing has written reads as. DESIGN CHOICE (log 12): zero; the spec gives no power-on contents. -/
def memDefault (_ : Nat) : Byte := 0

/-- The canonical form of memory: addresses strictly rising, no entry equal to the default. -/
abbrev Memory.wf (m : Mem) : Prop := NMap.wf memDefault m = true

/-- A command's task (none: entered by the register path of R165), due tick and tick budget (R33). -/
structure CmdTag where
  task   : Option Nat
  due    : Nat
  budget : Nat
  deriving DecidableEq, Repr

/-- A gallery command in a queue or write slot (R155): its words, the gallery clock at which it arrived, and the
number of accepted swap requests that must have taken effect before it goes on (R103, R157). -/
structure GCmd where
  tag       : CmdTag
  w0        : Word
  w1        : Word
  clk       : Nat
  needSwaps : Nat
  deriving DecidableEq, Repr

/-- What a plane write is for: a WRITE command, or one of the three rehang forms (R141). -/
inductive WriteForm where
  | stream | live | idle | resident
  deriving DecidableEq, Repr

/-- A cell whose write sequence is in progress on a slice (R88): its place in the write order the pulses given and
the level in millivolts that the last pulse drove (R114). -/
structure CellProg where
  slice  : Nat
  idx    : Nat
  pulses : Nat
  level  : Nat
  deriving DecidableEq, Repr

/-- One vitrine's place in a plane write: the next cell not yet begun, and the cells in progress (R87). -/
structure VitProg where
  next  : Nat
  cells : List CellProg
  deriving DecidableEq, Repr

/-- A plane write in progress (R87, R141, R161). `order` lists the row groups in the order written; `staged` counts the
tile rows fetched; `buf` holds the codes that its vitrines have taken; `raised` tells that its one write-verify fault was raised (R89),
`failed` lists the cells that failed, by 4224 × vitrine + place in the vitrine, `devs` gives the millivolts by which a cell that did not
end in its accept band is off its level, by PlaneSt's key, and `starved` tells that a vitrine waits for codes (R162). -/
structure WriteJob where
  form    : WriteForm
  plane   : Plane
  tag     : CmdTag
  src     : Nat
  order   : List Nat
  staged  : Nat
  buf     : NMap Int
  vits    : NMap VitProg
  raised  : Bool
  failed  : List Nat
  devs    : NMap Int
  starved : Bool
  aborted : Bool
  deriving DecidableEq, Repr

/-- A gallery plane (R82 to R86, R138, R140, R146, R163): written or not; its codes by 256 × row + column; the checksum codes and the
remainders by 8 × row + vitrine column; the sign latches that are set, by 264 × row + gallery column; the cells that are off their levels, by
twice that and 1 for the minor cell; the draw of its last write; CMAX per vitrine; the age and droop of its row groups, the groups that
restart at the next edge, those whose due point, lateness and expiry were told and whether its expiry event was raised; the Catalogue tile it holds, its
source, whether that is watched and was found moved; and the cells that failed in its last write (R375). -/
structure PlaneSt where
  written : Bool
  codes   : NMap Int
  sums    : NMap Int
  rests   : NMap Int
  neg     : NMap Bool
  devs    : NMap Int
  wrote   : Nat
  cmax    : NMap Nat
  age     : NMap Nat
  droop   : NMap Nat
  restart : List Nat
  due     : NMap Bool
  late    : NMap Bool
  expired : NMap Bool
  expRaised : Bool
  holds   : Option Nat
  srcTile : Nat
  watched : Bool
  moved   : Bool
  failed  : List Nat
  deriving DecidableEq, Repr

/-- An MVM between its start and its results (R97 to R101, R156, R159). `runs` are the bands' phases; `noSlot` tells that
it takes no slot; `tensor` is the readout
tensor it counts to; `ended` tells that its results were formed; `held` are results that wait to be written (R160). `coef`, `chk`
and `drive` are the plane's coefficients, chk.ctrl and each row group's drive gain code with its droop as its first slot began (R124, R139,
R167). -/
structure Mvm where
  tag    : CmdTag
  plane  : Plane
  bands  : Nat
  runs   : List Nat
  inputs : List Byte
  out    : Nat
  gain   : Nat
  step   : Nat
  tensor : Nat
  noSlot : Bool
  ended  : Bool
  held   : List (Nat × Word)
  coef   : NMap (BitVec 16)
  chk    : Word
  drive  : List (Nat × Nat)
  deriving DecidableEq, Repr

/-- A vitrine's converter slices (R111, R116 to R121): the spare, the slices marked bad, calibration state, whether the spare has
completed a calibration, the draw at which each slice's trims were set (none: at accession), the end of a fixed period that its
calibration has met (R117), the number of the
wing's rotation points it has carried out, the sweep position and whether a gain ratio of the sweep failed, the slot
counts at which each plane's last full sweep ended, and the age limits whose crossing was told (R125). -/
structure VitSt where
  spare      : Nat
  bad        : Nat
  stale      : Bool
  calBusy    : Bool
  calRetried : Bool
  calDone    : Bool
  trims      : NMap Nat
  fixSeen    : Nat
  rotSeen    : Nat
  sweepPlane : Plane
  sweepCol   : Nat
  sweepBad   : Bool
  sweptA     : Nat
  sweptB     : Nat
  agedA      : Option Nat
  agedB      : Option Nat
  deriving DecidableEq, Repr

/-- What a docent thread waits for: nothing, a word's tag, a full queue or holding buffer with its command, its earlier
stores, or an allocation (R204, R205, R210, R266). -/
inductive ThreadWait where
  | ready
  | word (addr : Nat)
  | queueFull (imm : BitVec 8) (words : List Word) (clk : Nat)
  | alloc
  deriving DecidableEq, Repr

/-- A docent thread (R205): live, halted by a fault, its 32 general registers, program counter, flags, what it waits for,
the line of its last data-cache miss, if it has missed (R209), and whether its last allocation request was returned refused (R266). -/
structure ThreadSt where
  live     : Bool
  halted   : Bool
  priv     : Bool
  regs     : NMap Word
  pc       : BitVec 44
  flags    : Word
  wait     : ThreadWait
  lastMiss : Option Nat
  refused  : Bool := false
  deriving DecidableEq, Repr

/-- A classification of a gallery mismatch in progress (R372, R373): the step, the single-band runs left, the failing
bands, the bands left for the guard check, and the captured source generation and live plane. -/
structure GalClass where
  step     : Nat
  todo     : List Nat
  failed   : List Nat
  checks   : List Nat
  hard     : List Nat
  gen      : Nat
  live     : Nat
  dval     : Int
  guardRow : Nat
  deriving DecidableEq, Repr

/-- A gallery (R102, R156, R161): its command queue, write slots, the SWAP commands whose tick has not begun, the swap requests accepted,
taken effect and last accepted of a command that left the queue (R103), whether its head MVM waits for a history (R74), MVMs, planes, plane
writes, vitrines, docent threads with the last to issue and the clock of each one's last issue (R204), data cache, coefficients and classification, the plane of a
resident rehang with the groups that it left partly rewritten, each vitrine's place in them and the cells that failed in it (R89, R144),
and the gain and readout settings in force in the census step and in the one before (R94, R108). -/
structure Gal where
  cmdQ      : List GCmd
  pendW     : List GCmd
  wjob      : Option WriteJob
  rjob      : Option WriteJob
  swapDue   : List GCmd
  swapAsked : Nat
  swapDone  : Nat
  swapSeq   : Nat
  histWait  : Bool
  mvms      : List Mvm
  mvmFree   : Nat
  planeA    : PlaneSt
  planeB    : PlaneSt
  rhOpen    : Option Plane
  rhParts   : NMap VitProg
  rhLeft    : List Nat
  rhFailed  : List Nat
  slotStart : Option Nat
  slotEnd   : Option Nat
  conflict  : Bool
  conflictTold : Bool
  vits      : NMap VitSt
  threads   : NMap ThreadSt
  lastThread : Option Nat
  issuedAt  : NMap Nat
  dcache    : NMap (List Byte)
  coef      : NMap (BitVec 16)
  rdiff     : NMap Int
  guardRow  : Nat
  guardAlt  : Bool
  cls       : Option GalClass
  gainSet   : Word
  readSet   : Word
  gainOld   : Word
  readOld   : Word
  deriving DecidableEq, Repr

/-- A command held unissued by a wing arbiter (R22, R210, R211): its unit, tag, submitting gallery, order of submission,
whether it arrived after its due tick had begun, and its words. -/
structure HeldCmd where
  unit  : ArbUnit
  tag   : CmdTag
  wing  : Nat
  gal   : Nat
  seq   : Nat
  late  : Bool
  words : List Word
  deriving DecidableEq, Repr

/-- An issued command of a matrix array, vector engine or DMA engine: its tag and words. -/
structure UCmd where
  tag   : CmdTag
  words : List Word
  deriving DecidableEq, Repr

/-- A stationary tile (R169): its format, for each of the 256 data rows the exponent and 256 elements, the checksum row
(R183) with the exponent that its own accumulators take, and whether R67 applied to the tile. -/
structure Tile where
  fmt    : Nat
  rows   : List (Int × List Int)
  sum    : List Int
  sumExp : Int
  mix    : Bool
  deriving DecidableEq, Repr

/-- One R66 accumulator: value, exponent and saturation, and whether a non-zero chunk was combined into it (R174). -/
structure Acc where
  acc  : Int
  ea   : Int
  sat  : Bool
  used : Bool
  deriving DecidableEq, Repr

/-- An accumulator-bank entry (R172): the chunk index of its last combination, whether R67 applied to it, and its 257
accumulators, one for each data row and the last for the checksum row. -/
structure BankEntry where
  chunk : Nat
  mix   : Bool
  accs  : List Acc
  deriving DecidableEq, Repr

/-- The background register set (R193): empty, loading, or ready with a tile. -/
inductive BgSet where
  | empty
  | loading
  | ready (t : Tile)
  deriving DecidableEq, Repr

/-- A matrix array (R172, R175, R372, R374): its queue, load and flush slots, register sets, bank (absent entries are
void), a token that waits, a FLUSH that waits for a history (R74), the LOAD that filled the foreground, and the classification
step of a held capture. -/
structure Arr where
  queue    : List UCmd
  load     : Option UCmd
  flush    : Option UCmd
  fg       : Option Tile
  fgLoad   : List Word
  bg       : BgSet
  bgLoad   : List Word
  bank     : NMap BankEntry
  stalled  : Bool
  histWait : Bool
  clsStep  : Nat
  dval     : Int
  parity   : Nat
  deriving DecidableEq, Repr

/-- A load or store with tags that waits part-way (R220, R221): the line or word reached and the bytes read so far. -/
structure VecWait where
  line : Nat
  got  : List Byte
  deriving DecidableEq, Repr

/-- A running vector program (R203): its command, the index of its next instruction, a tagged access part-way, and whether
its conversion waits for a history (R74). -/
structure VecRun where
  cmd  : UCmd
  pc   : Nat
  wait : Option VecWait
  histWait : Bool := false
  deriving DecidableEq, Repr

/-- The vector engine (R195, R202): queue, running program, vector, mask and scalar registers, sticky flags in the order
invalid, divide-by-zero, overflow, underflow, inexact, and census slots. -/
structure VecSt where
  queue  : List UCmd
  run    : Option VecRun
  v      : NMap (List Lane)
  m      : List (BitVec 1024)
  sc     : List Word
  flags  : List (BitVec 1024)
  cslots : List Nat
  guardFailed : Bool
  deriving DecidableEq, Repr

/-- A DMA command that runs (R212): its command, transfer number, whether it has begun, bytes moved, whether its packets are
all written, whether it waits at a word, a source word read and not yet written, with its parity, and the bytes read and not yet written or
sent, with the parity of drained ones (R298). -/
structure DmaJob where
  cmd     : UCmd
  xfer    : Nat
  begun   : Bool
  moved   : Nat
  written : Bool
  waiting : Bool
  held    : Option (Word × List Nat)
  buf     : List Byte := []
  bufPars : List Nat := []
  deriving DecidableEq, Repr

/-- A READ packet with WAITSRC that is being served: the bytes read so far, and whether it waits at a word (R220, R221). -/
structure ReadJob where
  got     : List Byte
  waiting : Bool
  deriving DecidableEq, Repr

/-- A watch-table entry of a memory controller, held by the index of the tile that it watches (R254): block address, generation, armed,
holders, and blocks covered. -/
structure WatchEntry where
  block   : Nat
  gen     : Nat
  armed   : Bool
  holders : Nat
  blocks  : Nat
  deriving DecidableEq, Repr

/-- A frame held for replay (R340): its sequence number, units as bytes, credit counts, and the times it was resent. -/
structure HeldFrame where
  seq     : Nat
  units   : List Byte
  credit  : List Nat
  resends : Nat
  deriving DecidableEq, Repr

/-- A packet that waits to be sent on a port, with its virtual lane and class (R345, R346). -/
structure TxPacket where
  vl     : Nat
  dclass : Nat
  pkt    : Packet
  deriving DecidableEq, Repr

/-- Who made a tagged access that waits (R221). -/
inductive Issuer where
  | thread (n g th rd : Nat)
  | vec (n : Nat)
  | dma (n k : Nat)
  | gallery (n g : Nat)
  | link (n a vl : Nat)
  | read (n a key : Nat)
  deriving DecidableEq, Repr

/-- The kinds of tagged access that can wait (R220): reads, consuming reads and fills. -/
inductive TagKind where
  | read | consume | fill
  deriving DecidableEq, Repr

/-- A tagged access that waits at its word's home (R221): word address, issuer, kind, a fill's value with its parity (none: fresh), the edge and clock
since when it waits, and its task. -/
structure Wait where
  addr   : Nat
  issuer : Issuer
  kind   : TagKind
  value  : Word
  pars   : List Nat
  since  : Nat
  task   : Option Nat
  deriving DecidableEq, Repr

/-- A signal that a port holds (R347): its pair, and the words of packets that arrived before it on the same virtual lane and wait at their
homes. -/
structure SigWait where
  sig    : Nat
  before : List Wait
  deriving DecidableEq, Repr

/-- A Bluyx port (R337 to R355): sequence numbers (next to send, next expected), replay buffer, frames to resend, credits held
and the counts last seen and last sent, packets passed over, packets that wait and the units already cut for the stream, the
receive side with the transfers that failed a check, the signals that wait for packets to be written and the READ packets that
read words only when full, lock, low power and
retraining, and the last frame sent. -/
structure PortSt where
  txSeq     : Nat
  rxSeq     : Nat
  nakDue    : Bool
  replay    : List HeldFrame
  resend    : List Nat
  credits   : List Nat
  lastCred  : List Nat
  freed     : List Nat
  passed    : List Nat
  txq       : List TxPacket
  stream    : List Byte
  rxUnits   : List Byte
  rxPkts    : List Packet
  rxBad     : List (Nat × Nat)
  sigWait   : List SigWait
  reads     : NMap ReadJob
  badRun    : Nat
  locked    : Bool
  farLp     : Bool
  retrain   : Nat
  waking    : Bool
  lastFrame : List Byte
  deriving DecidableEq, Repr

/-- A wing (R45, R46, R116, R137, R172, R236): arbiter, units, ports, memory-controller requests, the wake under way,
rotation points and how often each slice ceased to be a fixed spare, stale episode, annex blocks frozen, watch table, and the register path's keep-awake with
the edge, in half microseconds, at which it was last found busy (R165). -/
structure WingSt where
  held      : List HeldCmd
  heldSeq   : Nat
  mx0       : Arr
  mx1       : Arr
  vec       : VecSt
  dma       : NMap DmaJob
  xfer      : Nat
  port0     : PortSt
  port1     : PortSt
  waking    : Option Nat
  wakeAt    : Option Nat
  rotSlot   : Nat
  rotCount  : Nat
  fixEnd    : NMap Nat
  stale     : Bool
  memWait   : List MemReq
  memSlots  : List MemReq
  lineWait  : List MemReq
  frozen    : NMap Bool
  watch     : NMap WatchEntry
  keepAwake : Bool
  busyAt    : Nat
  ueBlocks  : NMap Nat
  deriving DecidableEq, Repr

/-- A watch converter (R128 to R130): the pending urgent requests by source (0 the thermal check, 1 and 2 the Conservators of
the even and odd wing), the conversions made since the last tick edge, the sequence length in force, for each channel
the time of its last result in µs, the channels whose results exceeded WARN and whose request is not made yet (R130), and the edge at which
each Conservator last asked (R137). -/
structure Die where
  urgent : NMap Nat
  count  : Nat
  lenNow : Nat
  times  : NMap (Option Nat)
  hot    : List Nat
  asked  : NMap Nat
  deriving DecidableEq, Repr

/-- A task slot's phase (R43, R256, R378): empty, being placed, loaded and not begun, running, or stopped. -/
inductive TaskPhase where
  | empty | loading | ready | running | stopped
  deriving DecidableEq, Repr

/-- A plan action under way (R272 to R275): copying, its second try, the generation recorded, copy complete. -/
structure PlanRun where
  act      : Nat
  tile     : Nat
  gen      : Nat
  retried  : Bool
  complete : Bool
  watched  : Bool
  late     : Bool
  deriving DecidableEq, Repr

/-- A task slot: owner, image, placement, start, stop and training state (R43, R189, R256, R271, R377, R395). -/
structure TaskSt where
  phase     : TaskPhase
  owner     : Option HostPort
  img       : Option Image
  tag       : Nat
  base      : Nat
  count     : Nat
  binds     : NMap Nat
  gals      : List (Nat × Nat)
  started   : Bool
  startSet  : Bool
  stopReq   : Option Nat
  stopTick  : Nat
  byFault   : Bool
  held      : Bool
  stopEdge  : Nat
  pendAlloc : List AllocReq
  plans     : NMap PlanRun
  commitTick : Option Nat
  commitOver : Nat
  deriving DecidableEq, Repr

/-- A Catalogue entry (R246), without its constant VER. -/
structure CatEntry where
  state  : Nat
  frozen : Bool
  pinned : Bool
  fenced : Bool
  lkind  : Nat
  owner  : Nat
  qclass : Nat
  task   : Nat
  format : Nat
  gen    : Nat
  loc    : Nat
  link   : Nat
  lgen   : Nat
  deriving DecidableEq, Repr

/-- A counter pair of a wing's ledger (R225). DEDUCED (log 50). -/
structure Pair where
  p    : Nat
  c    : Nat
  buf  : Nat
  en   : Bool
  sat  : Bool
  word : Nat
  task : Option Nat
  deriving DecidableEq, Repr

/-- A tensor's counts in a census step (R75, R76), and whether a task in reference-forward mode counted. -/
structure TCount where
  elems     : Nat
  zeros     : Nat
  sat       : Nat
  nonfinite : Nat
  amax      : Lane
  gamax     : Lane
  combined  : Bool
  expMix    : Bool
  poison    : Bool
  skipped   : Bool
  refFwd    : Bool
  scale     : Int
  deriving DecidableEq, Repr

/-- Tick logic (R28, R38 to R44): edges passed, the gallery clock and slot count at the last edge, the period of the tick
in progress, the count held or not, listening, pulses, pause sampling and drive, and the edge's measured offset. -/
structure TickSt where
  edges      : Nat
  edgeClk    : Nat
  slotCount  : Nat
  halfUs     : Nat
  curPeriod : Nat
  hasCount   : Bool
  listening  : Bool
  heard      : Bool
  dupRefuse  : Bool
  driving    : Bool
  missed     : Nat
  pulsed     : Bool
  pauseSeen  : Bool
  pauseDrive : Bool
  offset     : Int
  masterP    : Option Nat
  deriving DecidableEq, Repr

/-- The training step and the combines (R71, R314, R319, R356): the annex round and its blocks read, votes and AMAX
records submitted and received, a combined record that waits for its edge, the records sent up and down the tree, the census
task and whether its running step counts (R71), the census steps whose history is not yet complete (R74), the number of the
edge that opened the step in force, the words of the scale records as the step in force and the one before it fixed them (R72, R94), and
the FROZEN changes that wait for a census step boundary (R268). `childVote` is keyed by port, `childAmax` by 32 × step + port, `recs`
and `recsOld` by 16 × tensor + word. -/
structure StepSt where
  round     : Nat
  readBlks  : NMap Bool
  voted     : Bool
  childVote : NMap VoteRec
  combined  : Option VoteRec
  childAmax : NMap (List AmaxEntry)
  outUp     : List CombineRec
  outDown   : List CombineRec
  censusTask : Option Nat
  censusArmed : Bool
  waitSteps : List Nat
  stepEdge  : Nat
  recs      : NMap Word
  recsOld   : NMap Word
  frozenDue : List (Nat × Bool)
  deriving DecidableEq, Repr

/-- A re-placement under way (R261): its wing and gallery, or the block's tile index and address; the time, in half
microseconds, at which its pause took effect; whether a rehang conflict, not a fault, caused it; and whether the Registrar
set PAUSE for it. -/
structure Move where
  wing     : Nat
  gal      : Nat
  tile     : Option Nat
  blk      : Nat := 0
  pausedAt : Option Nat
  conflict : Bool
  ours     : Bool := false
  deriving DecidableEq, Repr

/-- The recovery in progress (R378, R379): the fault's tier and source, whether a move or a stopped task must end first,
the gallery whose plane write or role it handles, and the unit fenced by it. -/
structure Recovery where
  tier    : Nat
  source  : Nat
  moving  : Bool
  waits    : Bool
  gal     : Option (Nat × Nat)
  edge    : Nat
  deriving DecidableEq, Repr

/-- A checkpoint assist stream (R381): what has been written of it. -/
structure Assist where
  dst  : Nat
  upd  : Bool
  sent : Nat
  deriving DecidableEq, Repr

/-- A task's saved context in host memory (R233): its slot and entries, the registers that are its own, its galleries' docent
state, queues and write slots, the full words of its store tiles, its pairs and its waiting accesses. -/
structure Context where
  task    : TaskSt
  cat     : List (Nat × CatEntry)
  regs    : List (Nat × Word)
  gals    : NMap Gal
  full    : List Nat
  pairs   : NMap Pair
  waits   : List Wait
  deriving DecidableEq, Repr

/-- A host port's state outside its registers (R397, R402 to R404): link, its reset events kept, the MSI-X table by its 32-bit
words, with its mask bits also apart, pending bits and messages sent by vector, both mailboxes, and the reply parts that wait. -/
structure HostSt where
  link     : Bool
  events   : List Word
  table    : NMap (BitVec 32)
  mask     : BitVec 32
  pba      : BitVec 32
  sent     : NMap Nat
  h2p      : List Byte
  p2h      : List Byte
  replies  : List (List Byte)
  deriving DecidableEq, Repr

/-- Retained state (R418): kept register fields (the training records, fault log, floor and boot count among them), fences, and by gallery
the slice trims, coefficients and ratios; `conv` is the draw of those that no update has replaced, and `bad` lists the records whose CHECK
fails. -/
structure Retained where
  regs   : Regs
  fences : List (Nat × CatEntry)
  coefs  : NMap (NMap (BitVec 16))
  ratios : NMap (NMap Int)
  conv   : Nat
  trims  : NMap (NMap (NMap Nat))
  bad    : List RetRec
  deriving DecidableEq, Repr

/-- A copy of the retained-settings page in flash (R418). -/
structure RetPage where
  seq  : Nat
  body : Retained
  deriving DecidableEq, Repr

/-- Where the part stands in accession (R414, R428): held in reset, in accession before step 11, up, or in recovery. -/
inductive BootPhase where
  | inReset | starting | up | recovery
  deriving DecidableEq, Repr

/-- The factory record (R413, R416), whose layout the spec does not give: Vendor ID, grade, the arrays enabled, RATE85, DOUBLE,
the VREF_CAL trims and the identity certificate. -/
structure Factory where
  vendor  : BitVec 16
  grade   : Fin 3
  enabled : BitVec 32
  rate85  : BitVec 32
  double  : BitVec 8
  vref    : List Nat
  cert    : List Byte
  deriving DecidableEq, Repr

/-- Start-up, flash and identity (R409 to R434): phase, the factory record and the other flash bytes, retained pages, the always-on
domain, staging, the watchdog, the identity key's seed, the profile digest in force, the draw at which accession calibrated and swept the
vitrines (R120; 0: not yet), a save in progress and one that follows,
power-down, the UART's answers, whether the SYNC lands are switched, and whether chip.boot.sync has been written since. -/
structure Boot where
  phase     : BootPhase
  factory   : Factory
  flash     : NMap Byte
  page0     : Option RetPage
  page1     : Option RetPage
  aon       : Option Retained
  stageOpen : Bool
  erasing   : Option (MboxSrc × Nat)
  stageOwner : Option MboxSrc
  stageNext : Nat
  wdog      : Bool
  seed      : Option (List Byte)
  profDigest : List Byte
  conv      : Nat
  saving    : Option Retained
  saveAgain : Bool
  downWait  : Bool
  uartOut   : List Byte
  syncUp    : Bool
  syncSet   : Bool
  deriving DecidableEq, Repr

/-- The part: every register, memory, queue and mode that the spec gives it. `planLate` lists the tiles whose plan action waits
for its lock (R250), `pinDue` holds PIN ops on tiles that are being moved (R269), and `redirTask` gives the task of block redirect k of wing n
by 32 × n + k (R267). -/
structure Chip where
  regs     : Regs
  mem      : Mem
  recErr   : NMap (BitVec 16)
  full     : NMap Bool
  par      : NMap Nat
  waits    : List Wait
  resends  : List Wait
  gals     : NMap Gal
  wings    : NMap WingSt
  dies     : NMap Die
  tasks    : NMap TaskSt
  cat      : NMap CatEntry
  catLate  : List (Nat × CatEntry)
  planLate : List Nat
  pinDue   : List (Nat × Bool)
  redirTask : NMap Nat
  pairs    : NMap Pair
  queues   : NMap (List Word)
  putWait  : List (Nat × Word)
  takeWait : List Nat
  taken    : Word
  census   : NMap TCount
  histStep : NMap (List Nat)
  tick     : TickSt
  step     : StepSt
  move     : Option Move
  toMove   : List Move
  recov    : Option Recovery
  haltDue  : Bool
  assist   : Option Assist
  hosts    : NMap HostSt
  hostMem  : NMap Byte
  contexts : NMap Context
  busData  : Word
  busBytes : List Byte
  lineOut  : List Byte
  linePoison : Bool
  boot     : Boot
  free     : Nat
  deriving DecidableEq, Repr

/-- One stored copy of a reading's continuing values in the Turnstile's sealed flash (R452). -/
structure TsCopy where
  seq      : Nat
  total    : List Int
  secs     : Nat
  deriving DecidableEq, Repr

/-- The Turnstile (R446 to R453): power and crystal, integrals and clamp counts of the interval, cumulative totals, reading
number and times, the sixteen mailbox slots, a reading held back, its sealed copies, and the SMBus transaction. -/
structure Turnstile where
  powered   : Bool
  crystal   : Bool
  cold      : Bool
  seq       : Nat
  secs      : Nat
  powerons  : Nat
  delta     : List Int
  total     : List Int
  ovr       : List Nat
  opens     : List Bool
  slots     : NMap (List Byte)
  newest    : Nat
  held      : Option (List Byte)
  copy0     : Option TsCopy
  copy1     : Option TsCopy
  pointer   : Nat
  reading   : Option Nat
  timedOut  : Bool
  out       : List Byte
  draws     : Nat
  deriving DecidableEq, Repr

/-- The state of the block: the commands that wait, first in first out; the part; and the Turnstile, which shares nothing
with it (R446). -/
structure State where
  pending : List Instr
  chip    : Chip
  ts      : Turnstile
  deriving DecidableEq, Repr

/-- Why the machine stops. -/
inductive Fault where
  /-- Raised by APERTURE_ACCESS on an address for which R25, R401 and R464 call the results of a host access
  unpredictable and give no effect, and by HOST_RESTORE of an address at which no context was saved (R400: the results of a
  wrong context are unpredictable). Safe: the model stops where the part goes on in some way. -/
  | hostUnpredictable (addr : Nat)
  deriving DecidableEq, Repr

/-- Why a command has no meaning. -/
inductive Refusal where
  /-- Raised by exec for a row that has no meaning yet, by its mnemonic. Safe. -/
  | notModelled (mnemonic : String)
  deriving DecidableEq, Repr

/-- A plane as after reset: unwritten (R86). -/
def PlaneSt.reset : PlaneSt :=
  { written := false, codes := [], sums := [], rests := [], neg := [], devs := [], wrote := 0, cmax := [], age := [], droop := [],
    restart := [], due := [], late := [], expired := [], expRaised := false, holds := none, srcTile := 0, watched := false, moved := false,
    failed := [] }

/-- A vitrine as after reset: spare index 2 (R116). -/
def VitSt.reset : VitSt :=
  { spare := 2, bad := 0, stale := false, calBusy := false, calRetried := false, calDone := true, trims := [], fixSeen := 0,
    rotSeen := 0, sweepPlane := .A, sweepCol := 0, sweepBad := false, sweptA := 0, sweptB := 0, agedA := none, agedB := none }

/-- A docent thread that is not live. -/
def ThreadSt.reset : ThreadSt :=
  { live := false, halted := false, priv := false, regs := [], pc := 0, flags := 0, wait := .ready, lastMiss := none }

/-- A gallery as after reset. -/
def Gal.reset : Gal :=
  { cmdQ := [], pendW := [], wjob := none, rjob := none, swapDue := [], swapAsked := 0, swapDone := 0, swapSeq := 0, histWait := false,
    mvms := [], mvmFree := 0, planeA := PlaneSt.reset, planeB := PlaneSt.reset, rhOpen := none, rhParts := [],
    rhLeft := [], rhFailed := [], slotStart := none, slotEnd := none, conflict := false, conflictTold := false, vits := [],
    threads := [], lastThread := none, issuedAt := [], dcache := [], coef := [], rdiff := [], guardRow := 0, guardAlt := false, cls := none,
    gainSet := 0x13000, readSet := 0xFFFFFF00FFFFFF, gainOld := 0x13000, readOld := 0xFFFFFF00FFFFFF }

/-- A matrix array as after reset: every entry void, both sets empty (R172). -/
def Arr.reset : Arr :=
  { queue := [], load := none, flush := none, fg := none, fgLoad := [], bg := .empty, bgLoad := [], bank := [],
    stalled := false, histWait := false, clsStep := 0, dval := 0, parity := 0 }

/-- A vector engine as after reset; R203 sets its registers at each command. -/
def VecSt.reset : VecSt :=
  { queue := [], run := none, v := [], m := List.replicate 8 (BitVec.allOnes 1024), sc := List.replicate 16 0,
    flags := List.replicate 5 0, cslots := List.replicate 16 0xFFFFFF, guardFailed := false }

/-- A Bluyx port as after reset: down, no credits. -/
def PortSt.reset : PortSt :=
  { txSeq := 0, rxSeq := 0, nakDue := false, replay := [], resend := [], credits := List.replicate 7 0,
    lastCred := List.replicate 7 0, freed := List.replicate 7 0, passed := List.replicate 7 0, txq := [], stream := [],
    rxUnits := [], rxPkts := [], rxBad := [], sigWait := [], reads := [], badRun := 0, locked := false, farLp := false, retrain := 0,
    waking := false, lastFrame := [] }

/-- A wing as after reset. -/
def WingSt.reset : WingSt :=
  { held := [], heldSeq := 0, mx0 := Arr.reset, mx1 := Arr.reset, vec := VecSt.reset, dma := [], xfer := 0,
    port0 := PortSt.reset, port1 := PortSt.reset, waking := none, wakeAt := none, rotSlot := 0, rotCount := 0, fixEnd := [], stale := false,
    memWait := [], memSlots := [], lineWait := [], frozen := [], watch := [], keepAwake := false, busyAt := 0, ueBlocks := [] }

/-- A watch converter as after reset. -/
def Die.reset : Die := { urgent := [], count := 0, lenNow := 0, times := [], hot := [], asked := [] }

/-- An empty task slot. -/
def TaskSt.reset : TaskSt :=
  { phase := .empty, owner := none, img := none, tag := 0, base := 0, count := 0, binds := [], gals := [],
    started := false, startSet := false, stopReq := none, stopTick := 0, byFault := false, held := false,
    stopEdge := 0, pendAlloc := [], plans := [], commitTick := none, commitOver := 0 }

/-- A vacant Catalogue entry (R245, R249). -/
def CatEntry.vacant : CatEntry :=
  { state := 0, frozen := false, pinned := false, fenced := false, lkind := 0, owner := 0, qclass := 0, task := 0,
    format := 0, gen := 0, loc := 0, link := 0, lgen := 0 }

/-- A counter pair as after reset (R241). -/
def Pair.reset : Pair := { p := 0, c := 0, buf := 1, en := false, sat := false, word := 0, task := none }

/-- A tensor with nothing counted. -/
def TCount.zero : TCount :=
  { elems := 0, zeros := 0, sat := 0, nonfinite := 0, amax := 0, gamax := 0, combined := false, expMix := false,
    poison := false, skipped := false, refFwd := false, scale := 0 }

/-- A host port as after reset. DESIGN CHOICE (log 72). -/
def HostSt.reset : HostSt :=
  { link := false, events := [], table := [], mask := 0, pba := 0, sent := [], h2p := [], p2h := [], replies := [] }

/-- The tick logic as after reset. -/
def TickSt.reset : TickSt :=
  { edges := 0, edgeClk := 0, slotCount := 0, halfUs := 0, curPeriod := 0, hasCount := false, listening := false,
    heard := false, dupRefuse := false, driving := false, missed := 0, pulsed := false, pauseSeen := false,
    pauseDrive := false, offset := 0, masterP := none }

/-- The training step as after reset. -/
def StepSt.reset : StepSt :=
  { round := 0, readBlks := [], voted := false, childVote := [], combined := none, childAmax := [], outUp := [], outDown := [],
    censusTask := none, censusArmed := false, waitSteps := [], stepEdge := 0, recs := [], recsOld := [],
    frozenDue := [] }

/-- The factory record of a new part. DESIGN CHOICE (log 13): a WDV-2032 with every array enabled and nominal constants. -/
def Factory.reset : Factory :=
  { vendor := 0, grade := 2, enabled := BitVec.allOnes 32, rate85 := 5497558, double := 0x80, vref := [], cert := [] }

/-- Start-up as after power-on, RESET_N low: the flash erased (log 13), nothing retained. -/
def Boot.reset : Boot :=
  { phase := .inReset, factory := Factory.reset, flash := [], page0 := none, page1 := none, aon := none, stageOpen := false, erasing := none,
    stageOwner := none, stageNext := 0, wdog := false, seed := none, profDigest := [], conv := 0, saving := none,
    saveAgain := false, downWait := false, uartOut := [], syncUp := false, syncSet := false }

/-- The part after power-on reset, RESET_N low: every register at its reset value, memory with nothing listed.
DESIGN CHOICE (log 46). -/
def Chip.reset : Chip :=
  { regs := [], mem := [], recErr := [], full := [], par := [], waits := [], resends := [], gals := [], wings := [],
    dies := [], tasks := [], cat := [], catLate := [], planLate := [], pinDue := [], redirTask := [], pairs := [], queues := [], putWait := [], takeWait := [],
    taken := 0, census := [], histStep := [], tick := TickSt.reset, step := StepSt.reset, move := none, toMove := [],
    recov := none, haltDue := false, assist := none, hosts := [], hostMem := [], contexts := [],
    busData := 0, busBytes := [], lineOut := [], linePoison := false, boot := Boot.reset, free := 0 }

/-- The Turnstile before VDD_TS first comes up. -/
def Turnstile.reset : Turnstile :=
  { powered := false, crystal := true, cold := false, seq := 0, secs := 0, powerons := 0,
    delta := List.replicate 4 0, total := List.replicate 4 0, ovr := List.replicate 4 0,
    opens := List.replicate 4 false, slots := [], newest := 0, held := none, copy0 := none, copy1 := none,
    pointer := 0, reading := none, timedOut := false, out := [], draws := 0 }

/-- The block after reset: no command waits, the part is held in reset, the Turnstile is unpowered. -/
def State.reset : State := { pending := [], chip := Chip.reset, ts := Turnstile.reset }

end Sys2Proof.Machine
end

