-- ==== Sys2Proof/Machine/Ops.lean ====
section
/-! DEFINITION. The named operations that every command is written with: the register file and its flags, the tables of
units, raw memory, time, and what a command's effect is lifted from. -/

namespace Sys2Proof.Machine

/-- A word from a number. -/
def w64 (x : Nat) : Word := BitVec.ofNat 64 x

/-- 0 for port A, 1 for port B (R465). -/
def portIx : HostPort → Nat
  | .A => 0
  | .B => 1

/-- The other port. -/
def otherPort : HostPort → HostPort
  | .A => .B
  | .B => .A

/-- 0 for plane A, 1 for plane B. -/
def planeIx : Plane → Nat
  | .A => 0
  | .B => 1

/-- The plane of a number. -/
def planeOf (i : Nat) : Plane := if i = 0 then .A else .B

/-- The other plane. -/
def otherPlane : Plane → Plane
  | .A => .B
  | .B => .A

/-! ### Registers -/

/-- The stored value of a register (R10). -/
def Chip.rd (c : Chip) (a : Nat) : Word := NMap.get regReset c.regs a

/-- A register stored. -/
def Chip.wr (c : Chip) (a : Nat) (v : Word) : Chip := { c with regs := NMap.set regReset c.regs a v }

/-- The stored value of a register as a number. -/
def Chip.rdN (c : Chip) (a : Nat) : Nat := (c.rd a).toNat

/-- Field [hi:lo] of a register. -/
def Chip.fld (c : Chip) (a hi lo : Nat) : Nat := bits (c.rdN a) hi lo

/-- A register with its field [hi:lo] set. -/
def Chip.setFld (c : Chip) (a hi lo x : Nat) : Chip := c.wr a (w64 (setBits (c.rdN a) hi lo x))

/-- Bit i of a register. -/
def Chip.flag (c : Chip) (a i : Nat) : Bool := bit (c.rdN a) i

/-- Bit i of a register set or cleared. -/
def Chip.setFlag (c : Chip) (a i : Nat) (b : Bool) : Chip := c.setFld a i i (b2n b)

/-- An event counter raised by k: bits [47:0], wrapping at 2^48 (R11 and the event counters of every chapter). -/
def Chip.countBy (c : Chip) (a k : Nat) : Chip := c.setFld a 47 0 ((c.fld a 47 0 + k) % 2 ^ 48)

/-- Hardware sets a flag bit; the event counter beside it counts the set (R11). -/
def Chip.raise (c : Chip) (status i ctr : Nat) : Chip := (c.setFlag status i true).countBy ctr 1

/-- A field that saturates at its greatest value raised by k. -/
def Chip.satBy (c : Chip) (a hi lo k : Nat) : Chip :=
  c.setFld a hi lo (min (c.fld a hi lo + k) (2 ^ (hi - lo + 1) - 1))

/-! ### Tables of units -/

/-- A value that no run of draws repeats: the number of the next free value. DESIGN CHOICE (log 95). -/
def Chip.draw (c : Chip) : Chip := { c with free := c.free + 1 }

/-- Key of gallery g of wing n. -/
def galKey (n g : Nat) : Nat := n * 512 + g

/-- Gallery g of wing n. -/
def Chip.gal (c : Chip) (n g : Nat) : Gal := NMap.get (fun _ => Gal.reset) c.gals (galKey n g)

/-- Gallery g of wing n replaced. -/
def Chip.setGal (c : Chip) (n g : Nat) (x : Gal) : Chip :=
  { c with gals := NMap.set (fun _ => Gal.reset) c.gals (galKey n g) x }

/-- Gallery g of wing n changed. -/
def Chip.modGal (c : Chip) (n g : Nat) (f : Gal → Gal) : Chip := c.setGal n g (f (c.gal n g))

/-- Wing n. -/
def Chip.wing (c : Chip) (n : Nat) : WingSt := NMap.get (fun _ => WingSt.reset) c.wings n

/-- Wing n replaced. -/
def Chip.setWing (c : Chip) (n : Nat) (x : WingSt) : Chip :=
  { c with wings := NMap.set (fun _ => WingSt.reset) c.wings n x }

/-- Wing n changed. -/
def Chip.modWing (c : Chip) (n : Nat) (f : WingSt → WingSt) : Chip := c.setWing n (f (c.wing n))

/-- Compute die d's watch converter (R127). -/
def Chip.die (c : Chip) (d : Nat) : Die := NMap.get (fun _ => Die.reset) c.dies d

/-- A watch converter changed. -/
def Chip.modDie (c : Chip) (d : Nat) (f : Die → Die) : Chip :=
  { c with dies := NMap.set (fun _ => Die.reset) c.dies d (f (c.die d)) }

/-- Task slot t. -/
def Chip.task (c : Chip) (t : Nat) : TaskSt := NMap.get (fun _ => TaskSt.reset) c.tasks t

/-- Task slot t replaced. -/
def Chip.setTask (c : Chip) (t : Nat) (x : TaskSt) : Chip :=
  { c with tasks := NMap.set (fun _ => TaskSt.reset) c.tasks t x }

/-- Task slot t changed. -/
def Chip.modTask (c : Chip) (t : Nat) (f : TaskSt → TaskSt) : Chip := c.setTask t (f (c.task t))

/-- Host port h's state. -/
def Chip.host (c : Chip) (h : Nat) : HostSt := NMap.get (fun _ => HostSt.reset) c.hosts h

/-- Host port h's state changed. -/
def Chip.modHost (c : Chip) (h : Nat) (f : HostSt → HostSt) : Chip :=
  { c with hosts := NMap.set (fun _ => HostSt.reset) c.hosts h (f (c.host h)) }

/-- A counter pair of wing n (R225). -/
def Chip.pair (c : Chip) (n i : Nat) : Pair := NMap.get (fun _ => Pair.reset) c.pairs (n * 4096 + i)

/-- A counter pair replaced. -/
def Chip.setPair (c : Chip) (n i : Nat) (p : Pair) : Chip :=
  { c with pairs := NMap.set (fun _ => Pair.reset) c.pairs (n * 4096 + i) p }

/-- A hub queue's tokens, oldest first (R231). -/
def Chip.queue (c : Chip) (q : Nat) : List Word := NMap.get (fun _ => []) c.queues q

/-- A hub queue replaced. -/
def Chip.setQueue (c : Chip) (q : Nat) (l : List Word) : Chip :=
  { c with queues := NMap.set (fun _ => []) c.queues q l }

/-- A Catalogue entry (R245, R246). -/
def Chip.cate (c : Chip) (i : Nat) : CatEntry := NMap.get (fun _ => CatEntry.vacant) c.cat i

/-- Plane p of a gallery. -/
def Gal.plane (x : Gal) : Plane → PlaneSt
  | .A => x.planeA
  | .B => x.planeB

/-- Plane p of a gallery replaced. -/
def Gal.setPlane (x : Gal) (p : Plane) (y : PlaneSt) : Gal :=
  match p with
  | .A => { x with planeA := y }
  | .B => { x with planeB := y }

/-- Vitrine v of a gallery. -/
def Gal.vit (x : Gal) (v : Nat) : VitSt := NMap.get (fun _ => VitSt.reset) x.vits v

/-- Vitrine v of a gallery changed. -/
def Gal.modVit (x : Gal) (v : Nat) (f : VitSt → VitSt) : Gal :=
  { x with vits := NMap.set (fun _ => VitSt.reset) x.vits v (f (x.vit v)) }

/-- A docent thread. -/
def Gal.thread (x : Gal) (th : Nat) : ThreadSt := NMap.get (fun _ => ThreadSt.reset) x.threads th

/-- A docent thread replaced. -/
def Gal.setThread (x : Gal) (th : Nat) (y : ThreadSt) : Gal :=
  { x with threads := NMap.set (fun _ => ThreadSt.reset) x.threads th y }

/-- Matrix array a of a wing. -/
def WingSt.arr (x : WingSt) (a : Nat) : Arr := if a = 0 then x.mx0 else x.mx1

/-- Matrix array a of a wing replaced. -/
def WingSt.setArr (x : WingSt) (a : Nat) (y : Arr) : WingSt := if a = 0 then { x with mx0 := y } else { x with mx1 := y }

/-- Bluyx port a of a wing. -/
def WingSt.port (x : WingSt) (a : Nat) : PortSt := if a = 0 then x.port0 else x.port1

/-- Bluyx port a of a wing replaced. -/
def WingSt.setPort (x : WingSt) (a : Nat) (y : PortSt) : WingSt :=
  if a = 0 then { x with port0 := y } else { x with port1 := y }

/-- Matrix array a of wing n changed. -/
def Chip.modArr (c : Chip) (n a : Nat) (f : Arr → Arr) : Chip :=
  c.modWing n fun w => w.setArr a (f (w.arr a))

/-- Bluyx port a of wing n changed. -/
def Chip.modPort (c : Chip) (n a : Nat) (f : PortSt → PortSt) : Chip :=
  c.modWing n fun w => w.setPort a (f (w.port a))

/-- A gallery's thread changed. -/
def Chip.modThread (c : Chip) (n g th : Nat) (f : ThreadSt → ThreadSt) : Chip :=
  c.modGal n g fun x => x.setThread th (f (x.thread th))

/-! ### Raw memory -/

/-- A byte of memory. -/
def Chip.byte (c : Chip) (a : Nat) : Byte := NMap.get memDefault c.mem a

/-- A byte of memory stored. -/
def Chip.setByte (c : Chip) (a : Nat) (b : Byte) : Chip := { c with mem := NMap.set memDefault c.mem a b }

/-- n bytes of memory from an address on. -/
def Chip.bytes (c : Chip) (a : Nat) : Nat → List Byte
  | 0 => []
  | n + 1 => c.byte a :: Chip.bytes c (a + 1) n

/-- Bytes stored to memory from an address on. -/
def Chip.setBytes (c : Chip) (a : Nat) : List Byte → Chip
  | [] => c
  | b :: bs => Chip.setBytes (c.setByte a b) (a + 1) bs

/-- Whether a 64-bit word of a store is full (R218). -/
def Chip.isFull (c : Chip) (a : Nat) : Bool := NMap.get (fun _ => false) c.full (a / 8)

/-- A word's tag set. -/
def Chip.setFull (c : Chip) (a : Nat) (b : Bool) : Chip :=
  { c with full := NMap.set (fun _ => false) c.full (a / 8) b }

/-- Parity state of a stored 32-bit word (R366): 0 good, 1 failing, 2 failing and poison-marked (R367). -/
def Chip.parAt (c : Chip) (a : Nat) : Nat := NMap.get (fun _ => 0) c.par (a / 4)

/-- A stored word's parity state set. -/
def Chip.setPar (c : Chip) (a v : Nat) : Chip := { c with par := NMap.set (fun _ => 0) c.par (a / 4) v }

/-- The parity states of the n 32-bit words from an address on set. -/
def Chip.setPars (c : Chip) (a : Nat) : List Nat → Chip
  | [] => c
  | v :: vs => Chip.setPars (c.setPar a v) (a + 4) vs

/-- The 32-bit words that a range of bytes touches. -/
def wordsIn (a n : Nat) : Nat := if n = 0 then 0 else (a + n - 1) / 4 - a / 4 + 1

/-- A range cut at multiples of `unit`: pieces of (address, length). -/
def cutAt (unit : Nat) : Nat → Nat → Nat → List (Nat × Nat)
  | 0, _, _ => []
  | fuel + 1, a, n =>
    if n = 0 then []
    else
      let k := min n (unit - a % unit)
      (a, k) :: cutAt unit fuel (a + k) (n - k)

/-- A range cut into the 64-byte lines it touches. -/
def linesOf (a n : Nat) : List (Nat × Nat) := cutAt 64 (n / 64 + 2) a n

/-! ### Regions of the local map -/

/-- What lies at a local address (R463, R294). -/
inductive Region where
  | localMem (n : Nat)
  | annex (n : Nat)
  | backing
  | wingStore (n : Nat)
  | galStore (n g : Nat)
  | regSpace
  | hostWin (h : Nat)
  | unpopulated
  deriving DecidableEq, Repr

/-- Base of local memory stack n (R285). -/
def stackBase (n : Nat) : Nat := n * 0x1000000000
/-- Bytes of a stack that are populated (R285). -/
def stackBytes : Nat := 0xF0F0E0000
/-- Base of wing n's store (R463). -/
def wingStoreBase (n : Nat) : Nat := 0x40000000000 + n * 0x2000000
/-- Bytes of a wing store. -/
def wingStoreBytes : Nat := 0x2000000
/-- Base of gallery g of wing n's store (R463). -/
def galStoreBase (n g : Nat) : Nat := 0x41000000000 + n * 0x2000000 + g * 0x10000
/-- Base of register space (R463). -/
def regSpaceBase : Nat := 0x50000000000
/-- Base of host window h (R399). -/
def hostWinBase (h : Nat) : Nat := 0x80000000000 + h * 0x40000000000

/-- Wing n's annex slice holds an address (R294, R300). -/
def Chip.inAnnex (c : Chip) (n a : Nat) : Bool :=
  let base := c.fld (Reg.memAnnex n) 43 16 * 0x10000
  decide (base ≤ a ∧ a < base + c.fld (Reg.memAnnexSize n) 18 0 * 0x10000)

/-- The Catalogue backing holds an address (R249). -/
def Chip.inBacking (c : Chip) (a : Nat) : Bool :=
  decide (a / 0x20000000 = c.fld Reg.regCtrl 43 29)

/-- What lies at a local address (R25, R463, R464). -/
def Chip.region (c : Chip) (a : Nat) : Region :=
  if a < 0x10000000000 then
    let n := a / 0x1000000000
    if a % 0x1000000000 ≥ stackBytes then .unpopulated
    else if c.inAnnex n a then .annex n
    else if c.inBacking a then .backing
    else .localMem n
  else if 0x40000000000 ≤ a ∧ a < 0x40020000000 then .wingStore ((a - 0x40000000000) / 0x2000000)
  else if 0x41000000000 ≤ a ∧ a < 0x41020000000 then
    let o := a - 0x41000000000
    if o % 0x2000000 / 0x10000 < 300 then .galStore (o / 0x2000000) (o % 0x2000000 / 0x10000) else .unpopulated
  else if 0x50000000000 ≤ a ∧ a < 0x50010000000 then .regSpace
  else if 0x80000000000 ≤ a ∧ a < 0x100000000000 then
    let h := (a - 0x80000000000) / 0x40000000000
    if a - hostWinBase h < c.fld (Reg.hostWinSize h) 29 0 * 4096 then .hostWin h else .unpopulated
  else .unpopulated

/-- Whether a region is a store, whose words carry tags (R218). -/
def Region.isStore : Region → Bool
  | .wingStore _ | .galStore _ _ => true
  | _ => false

/-- The wing at whose home a region lies; 0 for the hub's. -/
def Region.wing : Region → Nat
  | .localMem n | .annex n | .wingStore n | .galStore n _ => n
  | _ => 0

/-- The gallery that serves gallery g of wing n: g itself, or the target of a redirect in force (R262). -/
def Chip.served (c : Chip) (n g : Nat) : Nat :=
  match (List.range 8).find? fun k => c.flag (Reg.gredir n k) 32 && c.fld (Reg.gredir n k) 8 0 == g with
  | some k => c.fld (Reg.gredir n k) 24 16
  | none => g

/-- The block that serves a 64 KiB block of wing n's stack or store: itself, or a redirect's target (R263). -/
def Chip.servedBlock (c : Chip) (n b : Nat) : Nat :=
  match (List.range 32).find? fun k => c.flag (Reg.bredir n k) 63 && c.fld (Reg.bredir n k) 27 0 == b with
  | some k => c.fld (Reg.bredir n k) 59 32
  | none => b

/-- The home of a local address, through the redirects in force (R262, R263). -/
def Chip.home (c : Chip) (a : Nat) : Nat :=
  match c.region a with
  | .galStore n g => galStoreBase n (c.served n g) + a % 0x10000
  | .localMem n | .wingStore n => c.servedBlock n (a / 0x10000) * 0x10000 + a % 0x10000
  | _ => a

/-! ### Time -/

/-- The period of the tick in progress, p × 0.5 µs (R28). -/
def Chip.period (c : Chip) : Nat := c.tick.curPeriod

/-- Gallery clocks in the tick in progress (R29). -/
def Chip.tickClks (c : Chip) : Nat := 250 * c.period

/-- Whole MVM slots in the tick in progress (R29). -/
def Chip.slots (c : Chip) : Nat := 250 * c.period / 64

/-- The cascade-wide tick count (R43). -/
def Chip.tickCount (c : Chip) : Nat := c.fld Reg.tickCount 47 0

/-- Whether the cascade pause is in effect (R44, R49). -/
def Chip.paused (c : Chip) : Bool := c.flag Reg.tickCtrl 2

/-- Whether the part is halted at tier 3 (R23, R377). -/
def Chip.halted (c : Chip) : Bool := c.flag Reg.fltState 1

/-- Whether register space is open: accession has ended (R414). -/
def Chip.up (c : Chip) : Bool := decide (c.boot.phase = .up)

/-! ### Tasks -/

/-- A slot that holds a task: loaded, running or stopped (R28, R43). -/
def Chip.loaded (c : Chip) (t : Nat) : Bool :=
  decide ((c.task t).phase ≠ .empty)

/-- A task that has begun and not stopped. -/
def Chip.running (c : Chip) (t : Nat) : Bool := decide ((c.task t).phase = .running)

/-- Whether any task is loaded. DESIGN CHOICE (log 112): one that is still being placed counts. -/
def Chip.anyLoaded (c : Chip) : Bool := c.tasks.any fun p => decide (p.2.phase ≠ .empty)

/-- Whether any task is running. -/
def Chip.anyRunning (c : Chip) : Bool := c.tasks.any fun p => decide (p.2.phase = .running)

/-- The loaded task whose image supplies wing n's schedule table (R471). -/
def Chip.holder (c : Chip) (n : Nat) : Option Nat :=
  (c.tasks.find? fun p =>
    decide (p.2.phase ≠ .empty) &&
      (match p.2.img with
       | some im => im.tables.any fun tb => decide (tb.wing.val = n)
       | none => false)).map Prod.fst

/-- The task whose gallery role lies at logical gallery g of wing n (R256). -/
def Chip.roleTask (c : Chip) (n g : Nat) : Option Nat :=
  (c.tasks.find? fun p => decide (p.2.phase ≠ .empty) && p.2.gals.any fun x => x == (n, g)).map Prod.fst

/-- The task of a gallery, whether it is the role's own gallery or the one that serves it (R262). -/
def Chip.galTask (c : Chip) (n g : Nat) : Option Nat :=
  match c.roleTask n g with
  | some t => some t
  | none =>
    (c.tasks.find? fun p => decide (p.2.phase ≠ .empty) &&
      p.2.gals.any fun x => decide (x.1 = n) && decide (c.served n x.2 = g)).map Prod.fst

/-- The current task tick of wing n (R53). -/
def Chip.taskTick (c : Chip) (n : Nat) : Nat := c.fld (Reg.tickNow n) 47 0

/-- Task tick of task t: its elapsed count (R37), since task tick 0 falls on the start edge (R43). -/
def Chip.elapsed (c : Chip) (t : Nat) : Nat := c.fld (Reg.taskPerf t) 47 0

/-- A state of wing n: 0 run, 1 doze, 2 nap, 3 rest (R54). -/
def Chip.wingState (c : Chip) (n : Nat) : Nat := c.fld (Reg.pwrState n) 1 0


end Sys2Proof.Machine
end

