-- ==== Sys2Proof/Machine/Catalogue.lean ====
section
/-! DEFINITION. The Catalogue: its entries, locks, generations, watches, quotas and free blocks (R245 to R254, R234). -/

namespace Sys2Proof.Machine

/-! ### Entries and locks -/

/-- An entry's state locks its cache way (R250). -/
def CatEntry.locks (e : CatEntry) : Bool := decide (e.state = 2 ∨ e.state = 3 ∨ e.state = 5)

/-- An entry is the subject of a plan action in progress (R250). -/
def Chip.inPlan (c : Chip) (i : Nat) : Bool := c.tasks.any fun p => p.2.plans.any fun q => decide (q.2.tile = i)

/-- A plan action in progress locks an entry, unless its lock still waits for a way (R250). -/
def Chip.planLocked (c : Chip) (i : Nat) : Bool := c.inPlan i && !c.planLate.contains i

/-- Ways locked in a set of the Catalogue cache (R250). -/
def Chip.lockedIn (c : Chip) (s : Nat) : Nat :=
  (c.cat.filter fun p => decide (p.1 % 4096 = s) && (p.2.locks || c.planLocked p.1)).length

/-- Ways locked in the whole cache (R279). -/
def Chip.lockedWays (c : Chip) : Nat := (c.cat.filter fun p => p.2.locks || c.planLocked p.1).length

/-- An entry that may be recorded now: it locks no thirteenth way of its set (R250). -/
def Chip.canLock (c : Chip) (i : Nat) (e : CatEntry) : Bool :=
  !e.locks || (c.cate i).locks || c.planLocked i || decide (c.lockedIn (i % 4096) < 12)

/-- An entry recorded. -/
def Chip.rawCat (c : Chip) (i : Nat) (e : CatEntry) : Chip :=
  { c with cat := NMap.set (fun _ => CatEntry.vacant) c.cat i e }

/-- The plan actions that wait for their locks take them in order where they now may (R250). -/
def Chip.lockPlans (c : Chip) : Chip :=
  c.planLate.foldl (fun (d : Chip) i =>
    if (c.cate i).locks || decide (d.lockedIn (i % 4096) < 12) then { d with planLate := d.planLate.erase i } else d) c

/-- The records that wait for a lock, applied in order where they now may be, and the plan actions' locks after them (R250, R251). -/
def Chip.drainLate (c : Chip) : Chip :=
  (c.catLate.foldl (fun (d : Chip) p =>
    if d.catLate.any (fun q => decide (q.1 = p.1)) || !d.canLock p.1 p.2 then
      { d with catLate := d.catLate ++ [p] }
    else d.rawCat p.1 p.2) { c with catLate := [] }).lockPlans

/-- The newest entry meant for an index, whether recorded or waiting for a lock. -/
def Chip.catNow (c : Chip) (i : Nat) : CatEntry :=
  match c.catLate.reverse.find? fun p => decide (p.1 = i) with
  | some p => p.2
  | none => c.cate i

/-- An index that names an entry (R245). -/
def validIx (i : Nat) : Bool := decide (0 < i ∧ i < 0x1000000)

/-- A change of an entry. One that would lock a thirteenth way waits and sets LOCK_WAIT (R250); changes to one entry are
applied in order (R251). -/
def Chip.setCat (c : Chip) (i : Nat) (e : CatEntry) : Chip :=
  if !validIx i then c
  else if c.catLate.any fun p => decide (p.1 = i) then { c with catLate := c.catLate ++ [(i, e)] }
  else if c.canLock i e then (c.rawCat i e).drainLate
  else ({ c with catLate := c.catLate ++ [(i, e)] }).raise Reg.regStatus 7 (Reg.regCtr 7)

/-- An entry changed by a function. -/
def Chip.modCat (c : Chip) (i : Nat) (f : CatEntry → CatEntry) : Chip := c.setCat i (f (c.catNow i))

/-- An entry with its generation raised by one (R253). -/
def CatEntry.bump (e : CatEntry) : CatEntry := { e with gen := (e.gen + 1) % 65536 }

/-- An entry made vacant. Its generation rises where LKIND or LOC changes with that (R253). -/
def CatEntry.vacate (e : CatEntry) : CatEntry :=
  { CatEntry.vacant with gen := if e.lkind = 0 ∧ e.loc = 0 then e.gen else e.bump.gen }

/-- The four words of an entry (R246); word 3 is zero. -/
def CatEntry.word (e : CatEntry) : Nat → Word
  | 0 => w64 (e.state + b2n e.frozen * 2 ^ 3 + b2n e.pinned * 2 ^ 4 + b2n e.fenced * 2 ^ 5 + e.lkind * 2 ^ 8
      + e.owner * 2 ^ 12 + e.qclass * 2 ^ 16 + e.task * 2 ^ 20 + e.format * 2 ^ 24 + e.gen * 2 ^ 32 + 1 * 2 ^ 48)
  | 1 => w64 e.loc
  | 2 => w64 (e.link + e.lgen * 2 ^ 32)
  | _ => 0

/-- LOC of a gallery plane (R247). -/
def planeLoc (n g : Nat) (p : Plane) : Nat := g + planeIx p * 2 ^ 12 + n * 2 ^ 16

/-- Bytes of an entry's tile, wherever it lies: an AC8 source tile has 128 KiB, a gallery's store 64 KiB (R248). -/
def CatEntry.bytes (e : CatEntry) : Nat :=
  if e.lkind = 1 ∨ e.lkind = 0 then 0 else if e.lkind ≠ 2 ∧ e.format = 2 then 0x20000 else 0x10000

/-- 64 KiB blocks that an entry counts in its quota (R248). -/
def CatEntry.blocks (e : CatEntry) : Nat :=
  if e.lkind = 1 ∨ e.lkind = 0 ∨ e.lkind = 5 ∨ e.lkind = 6 then 0 else e.bytes / 0x10000

/-- An entry that occupies a local address: a tile that is not vacant, or a fence (R248, R270). -/
def CatEntry.covers (e : CatEntry) (a : Nat) : Bool :=
  (decide (e.state ≠ 0) || e.fenced) && decide ((e.lkind = 2 ∨ e.lkind = 3 ∨ e.lkind = 4) ∧ e.loc ≤ a ∧ a < e.loc + e.bytes)

/-- The tile that holds a local address. -/
def Chip.tileAt (c : Chip) (a : Nat) : Option Nat :=
  (c.cat.find? fun p => decide (p.2.state ≠ 0) && p.2.covers a).map Prod.fst

/-- The task whose index range holds an index (R256). -/
def Chip.taskOfTile (c : Chip) (i : Nat) : Option Nat :=
  (c.tasks.find? fun p => decide (p.2.phase ≠ .empty) && decide (p.2.base ≤ i ∧ i < p.2.base + p.2.count)).map Prod.fst

/-- The task whose tile holds a local address; none where no task's tile lies there. -/
def Chip.taskAt (c : Chip) (a : Nat) : Option Nat :=
  match c.tileAt a with
  | some i => c.taskOfTile i
  | none => none

/-- A tile that lies in gallery g of wing n, by either plane or by its store. LOC keeps the number that the task uses, which a
redirect may serve elsewhere (R261, R262). DEDUCED (log 28). -/
def Chip.inGal (c : Chip) (n g : Nat) (e : CatEntry) : Bool :=
  (decide (e.lkind = 1) && decide (e.loc / 2 ^ 16 % 16 = n ∧ c.served n (e.loc % 2 ^ 9) = g)) ||
  (decide (e.lkind = 2) && match c.region e.loc with
    | .galStore m x => decide (m = n ∧ c.served n x = g)
    | _ => false)

/-- A gallery that holds no tile: neither plane's tile, no store tile, no role bound to it, and no redirect's target (R256). -/
def Chip.galFree (c : Chip) (n g : Nat) : Bool :=
  !(c.cat.any fun p => (decide (p.2.state ≠ 0) || p.2.fenced) &&
      c.inGal n g p.2) &&
  decide ((c.gal n g).planeA.holds = none ∧ (c.gal n g).planeB.holds = none) &&
  (c.roleTask n g).isNone &&
  !((List.range 8).any fun k => c.flag (Reg.gredir n k) 32 && c.fld (Reg.gredir n k) 24 16 == g)

/-- A gallery with no vitrine fenced (R376). -/
def Chip.galUnfenced (c : Chip) (n g : Nat) : Bool := c.rd (Reg.galFenced n g) = 0

/-! ### Quotas -/

/-- Blocks in use of a task's class (R244). -/
def Chip.quotaUse (c : Chip) (t q : Nat) : Nat := c.fld (Reg.quota (8 * t + q)) 47 24

/-- A class's quota (R244). -/
def Chip.quotaOf (c : Chip) (t q : Nat) : Nat := c.fld (Reg.quota (8 * t + q)) 23 0

/-- USE of a class raised (R234). -/
def Chip.addUse (c : Chip) (t q k : Nat) : Chip := c.setFld (Reg.quota (8 * t + q)) 47 24 (c.quotaUse t q + k)

/-- USE of a class lowered (R234). -/
def Chip.subUse (c : Chip) (t q k : Nat) : Chip := c.setFld (Reg.quota (8 * t + q)) 47 24 (c.quotaUse t q - k)

/-! ### Watches -/

/-- A BAR0 offset of a block redirect (R282). -/
def isBredir (a : Nat) : Bool :=
  decide (0x1000000 ≤ a ∧ a < 0x2000000 ∧ 0x1040 ≤ a % 0x100000 ∧ a % 0x100000 < 0x1140)

/-- The address that the task uses for a local address at which a block redirect serves it (R263). -/
def Chip.nameOf (c : Chip) (a : Nat) : Nat :=
  match c.regs.find? (fun (p : Nat × Word) => isBredir p.1 && p.2.getLsbD 63 && wbits p.2 59 32 == a / 0x10000) with
  | some p => wbits p.2 27 0 * 0x10000 + a % 0x10000
  | none => a

/-- The watch entry of the tile that lies at a local-memory address, with its index (R254). -/
def Chip.watchAt (c : Chip) (a : Nat) : Option (Nat × WatchEntry) :=
  let b := c.nameOf a / 0x10000
  (c.wing (b / 0x100000)).watch.find? fun p =>
    decide (p.2.block ≤ b ∧ b < p.2.block + p.2.blocks ∧ (c.catNow p.1).lkind = 4 ∧ (c.catNow p.1).loc / 0x10000 = p.2.block)

/-- The wing whose controller holds a watch of a tile (R254). -/
def Chip.watchWing (c : Chip) (i : Nat) : Option Nat := (List.range 16).find? fun n => (NMap.find (c.wing n).watch i).isSome

/-- The holders recorded on a tile (R254). -/
def Chip.holders (c : Chip) (i : Nat) : Nat :=
  match c.watchWing i with
  | some n => ((NMap.find (c.wing n).watch i).map fun x => x.holders).getD 0
  | none => 0

/-- A tile's watch entry freed. -/
def Chip.freeWatch (c : Chip) (i : Nat) : Chip :=
  match c.watchWing i with
  | some n => c.modWing n fun s => { s with watch := NMap.del s.watch i }
  | none => c

/-- A holder recorded on a tile: its watch is armed at the tile's generation. Answers whether a watch exists; without one
WATCH_FULL is set (R254). A tile that lies in no stack has no watch. -/
def Chip.hold (c : Chip) (i : Nat) : Chip × Bool :=
  let e := c.catNow i
  if e.lkind ≠ 4 ∨ e.state = 0 then (c, false)
  else
    let n := e.loc / 0x1000000000
    if c.watchWing i ≠ some n ∧ 4096 ≤ (c.wing n).watch.length then (c.raise Reg.regStatus 3 (Reg.regCtr 3), false)
    else
      let x : WatchEntry :=
        { block := e.loc / 0x10000, gen := e.gen, armed := true, holders := c.holders i + 1, blocks := e.bytes / 0x10000 }
      ((c.freeWatch i).modWing n fun s => { s with watch := NMap.put s.watch i x }, true)

/-- A holder of a tile's watch released; the entry is freed when none is left (R254). -/
def Chip.unhold (c : Chip) (i : Nat) : Chip :=
  match c.watchWing i with
  | none => c
  | some n =>
    if c.holders i ≤ 1 then c.freeWatch i
    else c.modWing n fun s =>
      match NMap.find s.watch i with
      | some x => { s with watch := NMap.put s.watch i { x with holders := x.holders - 1 } }
      | none => s

/-- The first write into a tile whose watch is armed: GEN rises, the watch disarms and takes the new GEN (R253, R254). -/
def Chip.touchWatch (c : Chip) (a : Nat) : Chip :=
  match c.watchAt a with
  | some (i, x) =>
    if x.armed then
      let d := c.modCat i CatEntry.bump
      d.modWing (x.block / 0x100000) fun s =>
        { s with watch := NMap.put s.watch i { x with armed := false, gen := (d.catNow i).gen } }
    else c
  | none => c

/-! ### Free blocks -/

/-- The census table covers an address (R77, R294). -/
def Chip.inCensus (c : Chip) (a : Nat) : Bool :=
  let base := c.fld Reg.censusBase 43 6 * 64
  decide (base ≤ a ∧ a < base + (c.fld Reg.censusShape 27 24 + 1) * c.fld Reg.censusShape 23 0 * 64)

/-- The scale records cover an address (R78, R294). -/
def Chip.inScales (c : Chip) (a : Nat) : Bool :=
  let base := c.fld Reg.censusScale 43 7 * 128
  decide (base ≤ a ∧ a < base + c.fld Reg.censusShape 23 0 * 128)

/-- A reserved region touches the 64 KiB block at an address (R294). Regions are no smaller than the part of a block that
they touch at its first or last line, or they begin inside it. -/
def Chip.reservedBlock (c : Chip) (a : Nat) : Bool :=
  let n := a / 0x1000000000
  let cb := c.fld Reg.censusBase 43 6 * 64
  let sb := c.fld Reg.censusScale 43 7 * 128
  c.inAnnex n a || c.inBacking a || c.inCensus a || c.inCensus (a + 0xFFFF) || c.inScales a || c.inScales (a + 0xFFFF) ||
    decide (a ≤ cb ∧ cb < a + 0x10000 ∧ 0 < c.fld Reg.censusShape 23 0) ||
    decide (a ≤ sb ∧ sb < a + 0x10000 ∧ 0 < c.fld Reg.censusShape 23 0)

/-- A block redirect of any wing serves some block at an address, or serves the block of that address elsewhere (R263). -/
def Chip.redirected (c : Chip) (a : Nat) : Bool :=
  c.regs.any fun (p : Nat × Word) => isBredir p.1 && p.2.getLsbD 63 && (wbits p.2 59 32 == a / 0x10000 || wbits p.2 27 0 == a / 0x10000)

/-- Word j of entry k of a task's plan table, as memory holds it (R271, R280). -/
def Chip.planWord (c : Chip) (t k j : Nat) : Word :=
  w64 (ofLeBytes (c.bytes (c.home (c.fld (Reg.regTaskPlan t) 43 4 * 16 + 16 * k + 8 * j)) 8))

/-- A plan of a loaded task copies into the block at an address: such wing-store blocks are reserved in the image (R271). -/
def Chip.planReserved (c : Chip) (a : Nat) : Bool :=
  c.tasks.any fun p => decide (p.2.phase ≠ .empty) &&
    (List.range (c.fld (Reg.regTaskPlanLen p.1) 15 0)).any fun k =>
      let dst := wbits (c.planWord p.1 k 1) 43 0
      decide (wbits (c.planWord p.1 k 0) 35 32 ≠ 1 ∧ dst ≤ a ∧ a < dst + (c.catNow (wbits (c.planWord p.1 k 0) 61 36)).bytes)

/-- A free 64 KiB block (R257): populated, in no reserved region, held by no tile, fence or redirect. -/
def Chip.blockFree (c : Chip) (a : Nat) : Bool :=
  decide (c.region a ≠ .unpopulated ∧ c.region (a + 0xFFFF) ≠ .unpopulated) && !c.reservedBlock a &&
    !(c.cat.any fun p => p.2.covers a || p.2.covers (a + 0xFFFF)) && !c.redirected a && !c.planReserved a

/-- The first of at most `fuel` blocks from a block address on that is free. -/
def Chip.firstFree (c : Chip) : Nat → Nat → Option Nat
  | 0, _ => none
  | fuel + 1, a => if c.blockFree a then some a else Chip.firstFree c fuel (a + 0x10000)

/-- The first address of k consecutive free blocks, on multiples of `al` blocks, among `fuel` candidates. -/
def Chip.firstRun (c : Chip) (al k : Nat) : Nat → Nat → Option Nat
  | 0, _ => none
  | fuel + 1, a =>
    if (List.range k).all fun j => c.blockFree (a + j * 0x10000) then some a
    else Chip.firstRun c al k fuel (a + al * 0x10000)

/-- Stacks in the order that R257 names for a wing: its own, the other of its die, then the rest ascending. -/
def stackOrder (n : Nat) : List Nat :=
  n :: (n / 2 * 2 + (1 - n % 2)) :: (List.range 16).filter fun m => decide (m / 2 ≠ n / 2)

/-- Candidates that a search of a stack needs: one more than the blocks that entries and redirects can take, beside the
reserved regions' blocks, which are skipped by size. -/
def Chip.searchFuel (c : Chip) : Nat := c.cat.length * 2 + 64 + c.regs.length

/-- Where a search for free blocks of a stack starts again after a reserved region: the region's end, aligned. -/
def Chip.skipReserved (c : Chip) (n : Nat) : List Nat :=
  let al := fun x => (x + 0x1FFFF) / 0x20000 * 0x20000
  let ab := c.fld (Reg.memAnnex n) 43 16 * 0x10000
  let cb := c.fld Reg.censusBase 43 6 * 64
  let sb := c.fld Reg.censusScale 43 7 * 128
  [stackBase n, al (ab + c.fld (Reg.memAnnexSize n) 18 0 * 0x10000), (c.fld Reg.regCtrl 43 29 + 1) * 0x20000000,
    al (cb + (c.fld Reg.censusShape 27 24 + 1) * c.fld Reg.censusShape 23 0 * 64),
    al (sb + c.fld Reg.censusShape 23 0 * 128)].filter fun a => decide (a / 0x1000000000 = n)

/-- The lowest of a list of addresses. -/
def lowest : List Nat → Option Nat
  | [] => none
  | x :: xs => match lowest xs with
    | none => some x
    | some y => some (min x y)

/-- The first free run of k blocks in stack n in ascending order (R257, R259). -/
def Chip.freeInStack (c : Chip) (n al k : Nat) : Option Nat :=
  lowest ((c.skipReserved n).filterMap fun a => c.firstRun al k c.searchFuel a)

/-- The first free block that R257 names for a kind (3 wing store, 4 local memory) and an owner wing. -/
def Chip.freeBlock (c : Chip) (kind owner : Nat) : Option Nat :=
  if kind = 3 then c.firstFree 512 (wingStoreBase owner)
  else (stackOrder owner).findSome? fun n => c.freeInStack n 1 1

/-! ### The backing region -/

/-- A byte of the backing region: entry i lies at BASE + 32 × i (R249). -/
def Chip.backingByte (c : Chip) (a : Nat) : Byte :=
  let o := a - c.fld Reg.regCtrl 43 29 * 0x20000000
  BitVec.ofNat 8 (((c.cate (o / 32)).word (o / 8 % 4)).toNat / 256 ^ (o % 8))

/-! ### Fences in the Catalogue -/

/-- An index that no entry and no loaded task uses, taken from the top: where a FENCED entry is made. DESIGN CHOICE
(log 15): R270 does not say which index a fence takes. -/
def Chip.fenceIx (c : Chip) : Nat :=
  ((List.range (c.cat.length + 1)).map fun k => 0xFFFFFF - k).find? (fun i =>
    (NMap.find c.cat i).isNone && (c.taskOfTile i).isNone) |>.getD 0

/-- An entry with FENCED set for a location (R270). -/
def fencedEntry (lkind owner loc : Nat) : CatEntry :=
  { CatEntry.vacant with fenced := true, lkind := lkind, owner := owner, loc := loc }

/-- A FENCED entry made, unless the location already has one; a tile of the location keeps its own entry. -/
def Chip.addFence (c : Chip) (lkind owner loc : Nat) : Chip :=
  if c.cat.any fun p => p.2.fenced && decide (p.2.lkind = lkind ∧ p.2.loc = loc) then c
  else c.rawCat c.fenceIx (fencedEntry lkind owner loc)

/-! ### End of a task -/

/-- The planes of a gallery let go of the tiles with index lo to hi − 1, and of the watches on such tiles. -/
def Gal.dropTiles (x : Gal) (lo hi : Nat) : Gal :=
  let f := fun (p : PlaneSt) =>
    let p := if lo ≤ p.srcTile ∧ p.srcTile < hi then { p with watched := false } else p
    match p.holds with
    | some i => if lo ≤ i ∧ i < hi then { p with holds := none } else p
    | none => p
  { x with planeA := f x.planeA, planeB := f x.planeB }

/-- Watch holders of the tiles with index lo to hi − 1 released, wherever the tiles lie (R267). -/
def Chip.dropHolders (c : Chip) (lo hi : Nat) : Chip :=
  { c with wings := NMap.update (fun _ => WingSt.reset) (fun _ w =>
      { w with watch := w.watch.filter fun p => !decide (lo ≤ p.1 ∧ p.1 < hi) }) c.wings }

/-- The block redirects of a task removed (R267). -/
def Chip.dropRedirects (c : Chip) (t : Nat) : Chip :=
  let mine := c.redirTask.filter fun p => decide (p.2 = t)
  let c := mine.foldl (fun d p => d.wr (Reg.bredir (p.1 / 32) (p.1 % 32)) 0) c
  { c with redirTask := c.redirTask.filter fun p => decide (p.2 ≠ t) }

/-- A pending request is returned to its requester as refused: the thread that waits for it goes on (R266, R267). -/
def Chip.refuseAlloc (c : Chip) (r : AllocReq) : Chip :=
  c.modThread r.askWing.val r.askGal.val r.askThread.val fun x =>
    { x with wait := if x.wait = .alloc then .ready else x.wait, refused := true }

/-- What R267 does when a task ends, is stopped or is released: its entries become vacant, USE returns to 0, its
redirects and watch holders go, its changes of FROZEN and PINNED that wait are dropped (R277), and its pending requests are returned refused. -/
def Chip.endTask (c : Chip) (t : Nat) : Chip :=
  let s := c.task t
  let lo := s.base
  let hi := s.base + s.count
  let c := c.dropHolders lo hi
  let c := s.pendAlloc.foldl Chip.refuseAlloc c
  let c := c.modTask t fun s => { s with plans := [], pendAlloc := [] }
  let c := { c with gals := NMap.update (fun _ => Gal.reset) (fun _ x => x.dropTiles lo hi) c.gals }
  let c := (List.range 16).foldl (fun d n =>
    (List.range 8).foldl (fun d k =>
      if d.flag (Reg.gredir n k) 32 && s.gals.any (fun x => x == (n, d.fld (Reg.gredir n k) 8 0)) then d.wr (Reg.gredir n k) 0
      else d) d) c
  let c := c.dropRedirects t
  let c := { c with
    catLate := c.catLate.filter fun p => !decide (lo ≤ p.1 ∧ p.1 < hi),
    planLate := c.planLate.filter fun i => !decide (lo ≤ i ∧ i < hi),
    pinDue := c.pinDue.filter fun p => !decide (lo ≤ p.1 ∧ p.1 < hi),
    step := { c.step with frozenDue := c.step.frozenDue.filter fun p => !decide (lo ≤ p.1 ∧ p.1 < hi) } }
  let c := c.cat.foldl (fun d p =>
    if lo ≤ p.1 ∧ p.1 < hi ∧ p.2.fenced = false then d.rawCat p.1 p.2.vacate else d) c
  let c := (List.range 8).foldl (fun d q => d.setFld (Reg.quota (8 * t + q)) 47 24 0) c
  c.drainLate

end Sys2Proof.Machine
end

