-- ==== Sys2Proof/Machine/Report.lean ====
section
/-! DEFINITION. Reports and faults: hub queues and completion tokens, stopping a task, the fault log, recovery and
escalation, parity faults and fences (R231, R232, R366 to R380, R395, R396). -/

namespace Sys2Proof.Machine

/-! ### Hub queues -/

/-- A hardware put: the token enters the queue, or goes to a taker that waits; at a full queue the putter waits (R232).
DESIGN CHOICE (log 51). -/
def Chip.putHw (c : Chip) (q : Nat) (tok : Word) : Chip :=
  if c.takeWait.contains q then { c with takeWait := c.takeWait.erase q, taken := tok }
  else if (c.queue q).length < 256 then c.setQueue q (c.queue q ++ [tok])
  else { c with putWait := c.putWait ++ [(q, tok)] }

/-- Whether a token waits to enter a queue. -/
def Chip.putWaits (c : Chip) (q : Nat) : Bool := c.putWait.any fun p => decide (p.1 = q)

/-- The first put that waits for a queue with room enters it (R232). -/
def Chip.admitPut (c : Chip) (q : Nat) : Chip :=
  if (c.queue q).length < 256 then
    match c.putWait.find? fun p => decide (p.1 = q) with
    | some p => { c.setQueue q (c.queue q ++ [p.2]) with putWait := c.putWait.erase p }
    | none => c
  else c

/-- The oldest token of a queue leaves it, and a put that waited enters (R232). -/
def Chip.dropHead (c : Chip) (q : Nat) : Chip := (c.setQueue q (c.queue q).tail).admitPut q

/-- A host-side put: at a full queue the token is discarded and QDROP is set (R232). -/
def Chip.putHost (c : Chip) (q : Nat) (tok : Word) : Chip :=
  if c.takeWait.contains q ∨ (c.queue q).length < 256 then c.putHw q tok
  else (c.setFld Reg.ledgerQStatus 13 8 q).raise Reg.ledgerQStatus 0 Reg.ledgerQCtr

/-- A Registrar notice to queue 53: KIND, tile, wing and task (the layout under R284). -/
def Chip.notice (c : Chip) (kind tile n t : Nat) : Chip :=
  c.putHw 53 (w64 (kind + tile * 2 ^ 4 + n * 2 ^ 30 + t * 2 ^ 34))

/-! ### Completion tokens -/

/-- A completion token without its PHASE (R396). -/
def ctoken (op slot tag status reason detail : Nat) : Word :=
  w64 (op + slot * 2 ^ 4 + tag * 2 ^ 8 + status * 2 ^ 20 + reason * 2 ^ 32 + detail % 2 ^ 24 * 2 ^ 40)

/-- A completion token put to a port's completion queue, 50 or 51 (R231, R396). -/
def Chip.completeTo (c : Chip) (h : HostPort) (tok : Word) : Chip := c.putHw (50 + portIx h) tok

/-- A stop event of a port's own reset waits in the port's event record; beyond 16 it counts in LOSTEV (R404). -/
def Chip.recordEvent (c : Chip) (h : HostPort) (tok : Word) : Chip :=
  if (c.host (portIx h)).events.length < 16 then
    c.modHost (portIx h) fun s => { s with events := s.events ++ [tok] }
  else c.satBy (Reg.hostStatus (portIx h)) 27 20 1

/-- A report to the owner of a task slot (R396); a slot with no owner has nobody to tell. -/
def Chip.tell (c : Chip) (t op status reason detail : Nat) : Chip :=
  match (c.task t).owner with
  | none => c
  | some h =>
    let tok := ctoken op t 0 status reason detail
    if reason = 0x17 then c.recordEvent h tok else c.completeTo h tok

/-! ### Stopping a task -/

/-- A task that a stop can still meet: ready or running (R377). -/
def Chip.stoppable (c : Chip) (t : Nat) : Bool :=
  decide ((c.task t).phase = .ready ∨ (c.task t).phase = .running)

/-- A stop asked for the next tick edge with a reason; the first cause is the one reported (R470, R396). -/
def Chip.stopTask (c : Chip) (t reason : Nat) : Chip :=
  if c.stoppable t then
    c.modTask t fun s => { s with stopReq := match s.stopReq with | none => some reason | some r => some r }
  else c

/-- A task error: the task stops with REASON 0x11 (R396). -/
def Chip.taskError (c : Chip) (t : Nat) : Chip := c.stopTask t 0x11

/-- A task error of a command that may belong to no task (R165). -/
def Chip.taskError? (c : Chip) : Option Nat → Chip
  | some t => c.taskError t
  | none => c

/-- A stop by a fault: the task is held until its release (R378). -/
def Chip.stopByFault (c : Chip) (t reason : Nat) : Chip :=
  if c.stoppable t then (c.stopTask t reason).modTask t fun s => { s with byFault := true } else c

/-! ### The fault log -/

/-- A fault record's contents (R380). -/
structure FaultRec where
  tier    : Nat
  level   : Nat
  wing    : Nat
  source  : Nat
  gallery : Nat
  unit    : Nat
  task    : Nat
  verdict : Nat
  detail  : Nat
  deriving DecidableEq, Repr

/-- A record written to the log: record k lies in slot k mod 64, HEAD wraps at 2^24 (R380, R389). -/
def Chip.logRecord (c : Chip) (r : FaultRec) (dep : Bool) : Chip :=
  let s := c.fld Reg.fltLogPos 23 0 % 64
  let w0 := c.tickCount + r.tier * 2 ^ 48 + r.level * 2 ^ 50 + r.wing % 16 * 2 ^ 52 + r.source * 2 ^ 56
  let w1 := r.gallery + r.unit % 64 * 2 ^ 9 + r.task * 2 ^ 16 + r.verdict * 2 ^ 20 + b2n dep * 2 ^ 24
    + r.detail % 2 ^ 32 * 2 ^ 32
  ((c.wr (Reg.fltLog (2 * s)) (w64 w0)).wr (Reg.fltLog (2 * s + 1)) (w64 w1)).setFld Reg.fltLogPos 23 0
    ((c.fld Reg.fltLogPos 23 0 + 1) % 2 ^ 24)

/-- Tier 3: the part halts at its next tick edge (R23). -/
def Chip.haltNext (c : Chip) : Chip := { c with haltDue := true }

/-- Tiles of a gallery are quarantined (R264). -/
def Chip.galQuarantined (c : Chip) (n g : Nat) : Bool :=
  c.cat.any fun p => decide (p.2.state = 5) && !p.2.fenced && c.inGal n g p.2

/-- A dependent fault, which R379 does not count as a second one: of a unit that the recovery has fenced or quarantined, of the plane
write whose fault the recovery handles, or the expiry of the other plane of the gallery it moves. -/
def Chip.isDep (c : Chip) (r : FaultRec) : Bool :=
  match c.recov with
  | none => false
  | some x =>
    (decide (r.level ≤ 1) && decide (x.gal = some (r.wing, r.gallery)) &&
      (decide (r.source = 0x03 ∧ x.source = 0x03) || (decide (r.source = 0x05) && x.moving) || c.galQuarantined r.wing r.gallery)) ||
    (decide (r.level = 1) && decide (c.rd (Reg.galFenced r.wing r.gallery) = BitVec.allOnes 64)) ||
    (decide (r.level = 0) && bit (c.rdN (Reg.galFenced r.wing r.gallery)) r.unit) ||
    (decide (r.level = 2 ∧ r.source = 0x07) && c.flag (Reg.mxIdent r.wing (r.unit % 2)) 9)

/-- The second fault of a recovery: tier 3, ESCALATE, and one record that names both (R379). -/
def Chip.escalate (c : Chip) (first second task : Nat) : Chip :=
  ((c.raise Reg.fltStatus 1 (Reg.fltCtr 1)).logRecord
    { tier := 3, level := 3, wing := 0, source := 0x11, gallery := 0, unit := 0, task := task, verdict := 0,
      detail := first * 2 ^ 8 + second } false).haltNext

/-- A fault of tier 1 or 2 and its recovery (R377 to R379). `moving` tells that a re-placement must end first, `gal` the
gallery it is about, `stops` the tasks that it stops, each with its reason. A fault in a recovery that is not dependent
escalates. A part that is halted raises nothing more (R23). -/
def Chip.raiseFaultOf (c : Chip) (r : FaultRec) (moving : Bool) (gal : Option (Nat × Nat)) (stops : List (Nat × Nat)) : Chip :=
  if c.halted then c
  else
    let waits := moving || stops.any fun p => c.stoppable p.1
    let c' := stops.foldl (fun d p => d.stopByFault p.1 p.2) c
    match c.recov with
    | none =>
      { c'.logRecord r false with
        recov := some { tier := r.tier, source := r.source, moving := moving, waits := waits, gal := gal,
                        edge := c.tick.edges } }
    | some x =>
      if c.isDep r then
        { c'.logRecord r true with
          recov := some { x with moving := x.moving || moving, waits := x.waits || waits } }
      else c.escalate x.source r.source r.task

/-- A fault of tier 1 or 2 whose tasks all stop for one reason. -/
def Chip.raiseFault (c : Chip) (r : FaultRec) (moving : Bool) (gal : Option (Nat × Nat)) (stops : List Nat)
    (reason : Nat) : Chip :=
  c.raiseFaultOf r moving gal (stops.map fun t => (t, reason))

/-- Every loaded task that has not stopped: what a tier 2 fault that names no task stops (R377). -/
def Chip.allTasks (c : Chip) : List Nat := (c.tasks.map Prod.fst).filter c.stoppable

/-- A fault of tier 2 that names no task: every loaded task stops with REASON 0x14 (R377). -/
def Chip.faultTier2 (c : Chip) (r : FaultRec) : Chip := c.raiseFault r false none c.allTasks 0x14

/-- A fault of tier 2 that names its tasks. -/
def Chip.faultTier2For (c : Chip) (r : FaultRec) (ts : List Nat) (reason : Nat) : Chip :=
  c.raiseFault r false none ts reason

/-- A fault of tier 3: a record, and the halt at the next edge (R23, R377). -/
def Chip.faultTier3 (c : Chip) (r : FaultRec) : Chip :=
  if c.halted then c else (c.logRecord r false).haltNext

/-- A recovery with nothing left to wait for ends (R378): no move, no task that it stopped unreleased. One that had nothing to wait
for ends at the first tick edge after its fault. -/
def Chip.settleRecovery (c : Chip) : Chip :=
  match c.recov with
  | none => c
  | some x =>
    if !x.moving && (x.waits || decide (x.edge < c.tick.edges)) && !(c.tasks.any fun p => p.2.byFault || p.2.held) then { c with recov := none } else c

/-- A held task is released: R267 takes effect now, and its recovery may end (R378). -/
def Chip.releaseTask (c : Chip) (t : Nat) : Chip :=
  if (c.task t).held then
    ((c.endTask t).modTask t fun s => { s with held := false, byFault := false }).settleRecovery
  else c

/-! ### Fences -/

/-- A re-placement asked of the Registrar; one already asked for the same role or block stands (R261). -/
def Chip.askMove (c : Chip) (m : Move) : Chip :=
  let same := fun (x : Move) => decide (x.wing = m.wing ∧ x.gal = m.gal ∧ x.tile = m.tile ∧ x.blk = m.blk)
  if c.toMove.any same || (match c.move with | some x => same x | none => false) then c
  else { c with toMove := c.toMove ++ [m] }

/-- Whether a gallery holds a task's role, its own or one redirected to it (R376). -/
def Chip.holdsRole (c : Chip) (n g : Nat) : Bool := (c.galTask n g).isSome

/-- The logical gallery whose role gallery g serves (R262). -/
def Chip.roleOf (c : Chip) (n g : Nat) : Nat :=
  match (List.range 8).find? fun k => c.flag (Reg.gredir n k) 32 && c.fld (Reg.gredir n k) 24 16 == g with
  | some k => c.fld (Reg.gredir n k) 8 0
  | none => g

/-- A tile of a role that no move may touch (R264, R269): PINNED, in either plane or the store. -/
def Chip.rolePinned (c : Chip) (n g : Nat) : Bool :=
  c.cat.any fun p => p.2.pinned && decide (p.2.state ≠ 0) && c.inGal n g p.2

/-- A free gallery redirect of a wing (R262). -/
def Chip.freeRedirect (c : Chip) (n : Nat) : Option Nat :=
  (List.range 8).find? fun k => !c.flag (Reg.gredir n k) 32

/-- A gallery of the wing that holds no tile and is not fenced, the lowest (R262). -/
def Chip.freeGallery (c : Chip) (n : Nat) : Option Nat :=
  (List.range 300).find? fun g => c.galFree n g && c.galUnfenced n g

/-- The source generation of a plane still stands: what a rewrite needs (R262). -/
def Chip.rewritable (c : Chip) (y : PlaneSt) : Bool :=
  match y.holds with
  | none => true
  | some i => decide ((c.cate i).link ≠ 0 ∧ (c.catNow (c.cate i).link).gen = (c.cate i).lgen)

/-- A role that can be moved (R262, R264). -/
def Chip.canMoveRole (c : Chip) (n g : Nat) : Bool :=
  !c.rolePinned n g && ((c.freeRedirect n).isSome || decide (c.roleOf n g ≠ g)) && (c.freeGallery n).isSome &&
    (decide (c.wingState n = 3) || (c.rewritable (c.gal n g).planeA && c.rewritable (c.gal n g).planeB))

/-- Tiles of a gallery made quarantined (R252, R264). -/
def Chip.quarantineGal (c : Chip) (n g : Nat) : Chip :=
  c.cat.foldl (fun d p =>
    if p.2.state ≠ 0 ∧ p.2.fenced = false ∧ c.inGal n g p.2 = true then
      d.modCat p.1 fun e => { e with state := 5 }
    else d) c

/-- The FENCED entries of a gallery's two planes (R270, R376). -/
def Chip.fenceEntries (c : Chip) (n g : Nat) : Chip :=
  (c.addFence 1 n (planeLoc n g .A)).addFence 1 n (planeLoc n g .B)

/-- The role of a gallery that is to be fenced can be moved. -/
def Chip.fenceMoves (c : Chip) (n g : Nat) : Bool := c.holdsRole n g && c.canMoveRole n g

/-- What the fence of a gallery stops: a role that cannot be moved raises tier 2, which names no task (R264, R377). -/
def Chip.fenceStops (c : Chip) (n g : Nat) : List (Nat × Nat) :=
  if c.holdsRole n g && !c.canMoveRole n g then c.allTasks.map fun t => (t, 0x14) else []

/-- What the fence of vitrines of a gallery does (R376). The role is moved where the gallery holds one; one that cannot be moved stays
quarantined and the fault escalates to tier 2 (R264). With no role nothing is moved and a notice of KIND 3 is put. -/
def Chip.fenceApply (c : Chip) (n g : Nat) (vits : BitVec 64) : Chip :=
  let role := c.holdsRole n g
  let can := c.canMoveRole n g
  let d := (c.wr (Reg.galFenced n g) (c.rd (Reg.galFenced n g) ||| vits)).fenceEntries n g
  if role then
    let d := d.quarantineGal n g
    if can then d.askMove { wing := n, gal := g, tile := none, pausedAt := none, conflict := false }
    else { d with recov := d.recov.map fun x => { x with tier := 2 } }
  else d.notice 3 0 n 0

/-- A verdict that fences vitrines of a gallery, given as bits of flt.fenced, with its fault record and the VERDICT flag (R373, R375,
R376). -/
def Chip.fenceGal (c : Chip) (n g : Nat) (vits : BitVec 64) (r : FaultRec) : Chip :=
  if c.rd (Reg.galFenced n g) ||| vits = c.rd (Reg.galFenced n g) then
    c.raiseFault r false none [] 0
  else
    ((c.raiseFaultOf r (c.fenceMoves n g) (some (n, g)) (c.fenceStops n g)).raise (Reg.galFlt n g) 3 (Reg.galFltCtr n g 3)).fenceApply n g
      vits

/-- A matrix array is fenced: FENCE is set and kept, a tier 2 event (R190). The tasks bound to it stop at the next edge; a fence
that names no task stops every loaded one (R377). DEDUCED (log 123). -/
def Chip.fenceArray (c : Chip) (n a : Nat) (bound : List Nat) (r : FaultRec) : Chip :=
  (c.setFlag (Reg.mxIdent n a) 9 true).faultTier2For r (if bound.isEmpty then c.allTasks else bound) 0x14

/-! ### Parity -/

/-- A unit that uses words: a gallery's unit, a docent, a matrix array, another unit of a wing, or the hub die (R367). -/
inductive Consumer where
  | gallery (n g : Nat)
  | docent (n g : Nat)
  | array (n a : Nat)
  | wing (n : Nat)
  | hub
  deriving DecidableEq, Repr

/-- The gallery whose store holds an address: the source that R368 names. -/
def Chip.sourceGal (c : Chip) (a : Nat) : Option (Nat × Nat) :=
  match c.region (c.home a) with
  | .galStore n g => some (n, g)
  | _ => none

/-- PARCOUNT of a gallery raised, and the gallery fenced where this is the second parity fault since accession that names it (R368,
R385). -/
def Chip.countGalPar (c : Chip) (p : Nat × Nat) : Chip :=
  let c := c.satBy (Reg.galFltState p.1 p.2) 23 16 1
  if c.fld (Reg.galFltState p.1 p.2) 23 16 = 2 then c.fenceApply p.1 p.2 (BitVec.allOnes 64) else c

/-- PARCOUNT of an array raised, and the array fenced at the second parity fault since accession that names it (R368, R190). -/
def Chip.countArrPar (c : Chip) (n a : Nat) : Chip :=
  let c := c.modArr n a fun x => { x with parity := x.parity + 1 }
  if ((c.wing n).arr a).parity = 2 then c.setFlag (Reg.mxIdent n a) 9 true else c

/-- The galleries that a parity fault names, as consumer and as source (R368). -/
def Chip.parityGals (c : Chip) (who : Consumer) (a : Nat) : List (Nat × Nat) :=
  let own := match who with
    | .gallery n g | .docent n g => [(n, g)]
    | _ => []
  match c.sourceGal a with
  | some p => if own.contains p then own else own ++ [p]
  | none => own

/-- The record of a parity fault (R380). -/
def parityRec (who : Consumer) (a task : Nat) : FaultRec :=
  let base : FaultRec := { tier := 2, level := 2, wing := 0, source := 0x08, gallery := 0, unit := 0, task := task, verdict := 0,
                           detail := a / 64 % 2 ^ 32 }
  match who with
  | .gallery n g | .docent n g => { base with tier := 1, level := 1, wing := n, source := 0x06, gallery := g }
  | .array n a' => { base with wing := n, unit := a' }
  | .wing n => { base with wing := n }
  | .hub => { base with tier := 3, level := 3, source := 0x10 }

/-- PAR of the level of the unit that found parity failing (R367). -/
def Chip.parityFlag (c : Chip) : Consumer → Chip
  | .gallery n g => c.raise (Reg.galFlt n g) 0 (Reg.galFltCtr n g 0)
  | .docent n g => c.raise (Reg.galFlt n g) 4 (Reg.galFltCtr n g 4)
  | .array n _ | .wing n => c.raise (Reg.wingFlt n) 0 (Reg.wingFltCtr n 0)
  | .hub => c.raise Reg.fltStatus 0 (Reg.fltCtr 0)

/-- The unit is a fenced array: what it finds in a recovery is a dependent fault (R379). -/
def Chip.fencedArr (c : Chip) : Consumer → Bool
  | .array n a => c.flag (Reg.mxIdent n a) 9
  | _ => false

/-- The tasks that a parity fault stops: the one whose command consumed the word, those bound to an array that it fences, and every loaded
one where a fault of tier 2 names none (R367, R377). -/
def Chip.parityStops (c : Chip) (who : Consumer) (task : Option Nat) (bound : List Nat) (fences : List (Nat × Nat)) : List (Nat × Nat) :=
  let own := task.toList.map fun t => (t, 0x12)
  let named := own ++ (match who with
    | .array n a => if ((c.wing n).arr a).parity = 1 then bound.map fun t => (t, 0x14) else []
    | _ => [])
  let all := match who with
    | .array _ _ | .wing _ => if named.isEmpty then c.allTasks.map fun t => (t, 0x14) else []
    | _ => []
  named ++ all ++ fences.flatMap fun p => c.fenceStops p.1 p.2

/-- An unmarked parity failure: the flag of the consumer's level, its one fault, and the count of the galleries and arrays it
names, with their fences (R367, R368). -/
def Chip.parityFault (c : Chip) (who : Consumer) (a : Nat) (task : Option Nat) (boundOf : Nat → Nat → List Nat) : Chip :=
  let gals := c.parityGals who a
  let fences := gals.filter fun p => decide (c.fld (Reg.galFltState p.1 p.2) 23 16 = 1)
  let r := parityRec who a (task.getD 0)
  let bound := match who with | .array n a => boundOf n a | _ => []
  let d := c.parityFlag who
  let stops := c.parityStops who task bound fences
  let d := match who with
    | .hub => d.faultTier3 r
    | _ =>
      if c.fencedArr who && c.recov.isSome && !c.halted then (stops.foldl (fun d p => d.stopByFault p.1 p.2) d).logRecord r true
      else d.raiseFaultOf r (fences.any fun p => c.fenceMoves p.1 p.2) gals.head? stops
  let d := gals.foldl Chip.countGalPar d
  match who with
  | .array n a => d.countArrPar n a
  | _ => d

/-- The tasks bound to a physical array (R189). `binds` maps logical arrays to physical ones. DEDUCED (log 63). -/
def Chip.boundTo (c : Chip) (n a : Nat) : List Nat :=
  (c.tasks.filter fun p => p.2.binds.any fun q => decide (q.2 = 2 * n + a)).map Prod.fst

/-- A unit uses words with the parity states given. Failing words raise the unit's fault, unless every one of them carries
the poison mark; in either case the consuming task stops with REASON 0x12 (R367). A stop on marked words alone is no stop by a fault;
during a recovery it is logged with DEP (R379). DEDUCED (log 125). -/
def Chip.useWords (c : Chip) (who : Consumer) (a : Nat) (pars : List Nat) (task : Option Nat) : Chip :=
  if pars.all fun v => v == 0 then c
  else if pars.any fun v => v == 1 then c.parityFault who a task c.boundTo
  else
    let c := if c.recov.isSome && !c.halted then c.logRecord (parityRec who a (task.getD 0)) true else c
    match task with
    | some t => c.stopTask t 0x12
    | none => c

end Sys2Proof.Machine
end

