-- ==== Sys2Proof/Machine/Store.lean ====
section
/-! DEFINITION. Reading and writing memory as the part's agents do: the outer code of local memory (R287 to R290), parity
with every word (R366), watches, host windows (R399), and the full/empty tags with their waiting accesses (R218 to R224)
and the ledger's two words of a counter pair (R225 to R230). -/

namespace Sys2Proof.Machine

/-! ### The outer code -/

/-- Multiplication by α = x in GF(2^16) with the polynomial x^16 + x^12 + x^3 + x + 1 (R287). -/
def gfTimesX (a : Nat) : Nat := if a ≥ 2 ^ 15 then (2 * a) ^^^ 0x1100B else 2 * a

/-- a × α^j in GF(2^16) (R287). -/
def gfShift (a : Nat) : Nat → Nat
  | 0 => a
  | j + 1 => gfTimesX (gfShift a j)

/-- Key of symbol j of the record of line l of stack n. -/
def symKey (n l j : Nat) : Nat := (n * 2 ^ 30 + l) * 64 + j

/-- The error laid over symbol j of a stored record (R287). -/
def Chip.symErr (c : Chip) (n l j : Nat) : Nat := (NMap.get (fun _ => 0) c.recErr (symKey n l j)).toNat

/-- An error laid over a stored symbol replaced. -/
def Chip.setSymErr (c : Chip) (n l j v : Nat) : Chip :=
  { c with recErr := NMap.set (fun _ => 0) c.recErr (symKey n l j) (BitVec.ofNat 16 v) }

/-- Whether any error is laid over a line's record. -/
def Chip.lineBad (c : Chip) (n l : Nat) : Bool :=
  c.recErr.any fun p => decide (p.1 / 64 = n * 2 ^ 30 + l)

/-- What a read finds in a record (R288). -/
inductive LineResult where
  | clean
  | corrected (j : Nat) (s0 : Nat)
  | addrErr
  | uncorrectable
  deriving DecidableEq, Repr

/-- The syndromes S0 and S1 of the record of line l read as line l'. The code is linear and a stored record is a codeword,
so they are those of the errors laid over it and of the difference of the line numbers (R287, R288). -/
def Chip.syndromes (c : Chip) (n l l' : Nat) : Nat × Nat :=
  let e := (List.range 34).map fun j => c.symErr n l j
  let e := e ++ [(l ^^^ l') % 65536, (l ^^^ l') / 65536 % 65536]
  (e.foldl (· ^^^ ·) 0, (e.zipIdx.map fun p => gfShift p.1 p.2).foldl (· ^^^ ·) 0)

/-- The outcome of R288 for two syndromes. -/
def lineResult (s0 s1 : Nat) : LineResult :=
  if s0 = 0 ∧ s1 = 0 then .clean
  else if s0 = 0 ∨ s1 = 0 then .uncorrectable
  else match (List.range 36).find? fun j => gfShift s0 j == s1 with
    | none => .uncorrectable
    | some j => if j < 34 then .corrected j s0 else .addrErr

/-- Bytes of a line as its record holds them: the codeword's data with the errors laid over its 32 data symbols, and an
addition to symbol `fix`. -/
def Chip.rawLine (c : Chip) (n l : Nat) (fix : Option (Nat × Nat)) : List Byte :=
  (List.range 64).map fun k =>
    let e := c.symErr n l (k / 2) ^^^ (match fix with | some (j, s) => if j = k / 2 then s else 0 | none => 0)
    c.byte (stackBase n + l * 64 + k) ^^^ BitVec.ofNat 8 (e / 256 ^ (k % 2))

/-- A record written whole, with fresh check symbols: no error is left. -/
def Chip.writeRecord (c : Chip) (n l : Nat) (data : List Byte) : Chip :=
  { c.setBytes (stackBase n + l * 64) data with recErr := c.recErr.filter fun p => !decide (p.1 / 64 = n * 2 ^ 30 + l) }

/-- A block redirect of wing n that serves a block already, or else one that is free (R263). -/
def Chip.redirectFor (c : Chip) (n b : Nat) : Option Nat :=
  match (List.range 32).find? fun k => c.flag (Reg.bredir n k) 63 && c.fld (Reg.bredir n k) 27 0 == b with
  | some k => some k
  | none => (List.range 32).find? fun k => !c.flag (Reg.bredir n k) 63

/-- A block at `a` of tile i that a block redirect may move: the tile is not PINNED nor in the annex, a redirect is free, and
an equivalent block is free (R263, R264, R295). -/
def Chip.canMoveBlock (c : Chip) (i a : Nat) : Bool :=
  let e := c.catNow i
  let n := (c.region a).wing
  !e.pinned && decide (e.lkind = 3 ∨ e.lkind = 4) && !c.inAnnex n a &&
    (c.redirectFor n (a / 0x10000)).isSome && (c.freeBlock e.lkind e.owner).isSome

/-- An uncorrectable line: UE, mem.err, a tier 2 event, the tile quarantined and its re-placement asked (R289, R264). The
second in one 64 KiB block since accession fences the block (R376). -/
def Chip.reportUe (c : Chip) (n l' : Nat) (addrErr scrub : Bool) : Chip :=
  let a := stackBase n + l' * 64
  let c := c.raise (Reg.memStatus n) 1 (Reg.memCtr n 1)
  let c := if addrErr then c.raise (Reg.memStatus n) 2 (Reg.memCtr n 2) else c
  let c := c.wr (Reg.memErr n) (w64 (l' * 2 ^ 6 + (if addrErr then 2 else 1) * 2 ^ 48 + b2n scrub * 2 ^ 50))
  let blk := a / 0x10000
  let own := c.nameOf a / 0x10000
  let seen := NMap.get (fun _ => 0) (c.wing n).ueBlocks blk
  let c := c.modWing n fun w => { w with ueBlocks := NMap.set (fun _ => 0) w.ueBlocks blk (seen + 1) }
  let r : FaultRec := { tier := 2, level := 2, wing := n, source := 0x09, gallery := 0, unit := 0, task := 0,
                        verdict := 0, detail := l' % 2 ^ 32 }
  let tile := c.tileAt (own * 0x10000)
  let again : Bool := match tile with | some i => decide ((c.catNow i).state = 5) | none => false
  let can : Bool := match tile with | some i => !again && c.canMoveBlock i (own * 0x10000) | none => false
  let c := if again && c.recov.isSome then c.logRecord r true else c.raiseFault r can none c.allTasks 0x14
  let c := match tile with
    | some i =>
      let c := c.modCat i fun e => { e with state := 5 }
      if can then c.askMove { wing := n, gal := 0, tile := some i, blk := own * 0x10000, pausedAt := none, conflict := false } else c
    | none => c
  if seen = 1 then c.addFence 4 n (blk * 0x10000) else c

/-- A write of a line waits at the arbiter (R291). -/
def Chip.writeWaits (c : Chip) (n l : Nat) : Bool :=
  ((c.wing n).memWait ++ (c.wing n).lineWait).any fun r => decide (r.line = l ∧ r.kind = .write)

/-- A record read and checked: what it delivers, whether it is poisoned, and what R288 and R289 set. A corrected record is
written back if WB is 1, unless a write of the line waits (R291). -/
def Chip.readRecord (c : Chip) (n l l' : Nat) (scrub : Bool) : Chip × List Byte × Bool :=
  let s := c.syndromes n l l'
  match lineResult s.1 s.2 with
  | .clean => (c, c.rawLine n l none, false)
  | .corrected j s0 =>
    let data := c.rawLine n l (some (j, s0))
    let c := c.raise (Reg.memStatus n) 0 (Reg.memCtr n 0)
    let c := c.wr (Reg.memErr n) (w64 (l' * 2 ^ 6 + j * 2 ^ 40 + b2n scrub * 2 ^ 50))
    (if c.flag (Reg.memCfg n) 8 && !c.writeWaits n l then c.writeRecord n l data else c, data, false)
  | .addrErr => (c.reportUe n l' true scrub, c.rawLine n l none, true)
  | .uncorrectable => (c.reportUe n l' false scrub, c.rawLine n l none, true)

/-! ### Host windows -/

/-- Key of host bus address b behind port h. -/
def hostKey (h b : Nat) : Nat := h * 2 ^ 64 + b % 2 ^ 64

/-- Host bus address of a host-window address (R399). -/
def Chip.hostBus (c : Chip) (h a : Nat) : Nat := c.fld (Reg.hostWin h) 63 12 * 4096 + (a - hostWinBase h)

/-- A byte of host memory: what the part last wrote there, else a free value (log 8). -/
def Chip.hostByteAt (c : Chip) (h b : Nat) : Byte := (NMap.find c.hostMem (hostKey h b)).getD (Config.hostByte h b c.free)

/-- Bytes written to host memory. -/
def Chip.hostWrite (c : Chip) (h b : Nat) : List Byte → Chip
  | [] => c
  | x :: xs => Chip.hostWrite { c with hostMem := NMap.put c.hostMem (hostKey h b) x } h (b + 1) xs

/-! ### Reading and writing as an agent -/

/-- A piece of one line read at its home: bytes, and the parity state of each 32-bit word touched. -/
def Chip.fetchLine (c : Chip) (a k : Nat) : Chip × List Byte × List Nat :=
  let h := c.home a
  let nw := wordsIn a k
  match c.region h with
  | .localMem n | .annex n =>
    let l := h % 0x1000000000 / 64
    if c.lineBad n l then
      let (c, data, bad) := c.readRecord n l l false
      (c, (data.drop (h % 64)).take k, List.replicate nw (if bad then 2 else 0))
    else (c, c.bytes h k, List.replicate nw 0)
  | .backing => (c, (List.range k).map fun i => c.backingByte (h + i), List.replicate nw 0)
  | .wingStore _ | .galStore _ _ => (c, c.bytes h k, (List.range nw).map fun i => c.parAt (h / 4 * 4 + 4 * i))
  | .hostWin p =>
    ((c.draw), (List.range k).map (fun i => c.hostByteAt p (c.hostBus p (h + i))), List.replicate nw 0)
  | .regSpace | .unpopulated => (c, List.replicate k 0, List.replicate nw 0)

/-- A range read at its homes, line by line. -/
def Chip.fetch (c : Chip) (a n : Nat) : Chip × List Byte × List Nat :=
  (linesOf a n).foldl (fun (d, bs, ps) (x, k) =>
    let (d, b, p) := d.fetchLine x k
    (d, bs ++ b, ps ++ p)) (c, [], [])

/-- A range read and used as operands: its parity is checked (R366, R367). -/
def Chip.useRange (c : Chip) (who : Consumer) (a n : Nat) (task : Option Nat) : Chip × List Byte :=
  let (c, bs, ps) := c.fetch a n
  (c.useWords who a ps task, bs)

/-- The live pair whose token word (false) or space word (true) lies at a word address (R225). -/
def Chip.pairAt (c : Chip) (a : Nat) : Option (Nat × Bool) :=
  let b := if c.pairs.isEmpty then a else c.nameOf a
  match c.pairs.find? fun p => p.2.en && decide (p.2.word * 16 = b / 8 * 8) with
  | some p => some (p.1, false)
  | none => (c.pairs.find? fun p => p.2.en && decide (p.2.word * 16 + 8 = b / 8 * 8)).map fun p => (p.1, true)

/-- A piece of one line stored at its home. A live pair's words are not written, which sets LWORD (R227). Local memory
reports a write to an armed watch first (R254); a partial write merges under R290. A slice of the annex takes no such write (R295). The memory
controller and a host port check the parity of what they write or send (R366). -/
def Chip.storeLine (c : Chip) (a : Nat) (data : List Byte) (pars : List Nat) (task : Option Nat) : Chip :=
  let h := c.home a
  match c.region h with
  | .localMem n =>
    let c := c.useWords (.wing n) a pars task
    let c := c.touchWatch h
    let l := h % 0x1000000000 / 64
    if c.lineBad n l then
      if data.length = 64 then c.writeRecord n l data
      else
        let (c, old, bad) := c.readRecord n l l false
        if bad then c
        else c.writeRecord n l (old.take (h % 64) ++ data ++ old.drop (h % 64 + data.length))
    else c.setBytes h data
  | .wingStore n =>
    let ws := cutAt 8 (data.length + 1) h data.length
    (ws.foldl (fun (d, rest, ps) (x, k) =>
      let m := wordsIn x k
      (if (d.pairAt x).isSome then d.raise (Reg.ledgerStatus n) 2 (Reg.ledgerCtr n 2)
       else (d.setBytes x (List.take k rest)).setPars x (List.take m ps), List.drop k rest, List.drop m ps))
      (c, data, if pars.isEmpty then List.replicate (wordsIn h data.length) 0 else pars)).1
  | .galStore _ _ =>
    (c.setBytes h data).setPars h (if pars.isEmpty then List.replicate (wordsIn h data.length) 0 else pars)
  | .hostWin p => (c.useWords .hub a pars task).hostWrite p (c.hostBus p h) data
  | .annex _ | .backing | .regSpace | .unpopulated => c

/-- A range stored at its homes, line by line, with the parity states of its words (none given: freshly generated). -/
def Chip.store (c : Chip) (a : Nat) (data : List Byte) (pars : List Nat) (task : Option Nat) : Chip :=
  ((linesOf a data.length).foldl (fun (d, bs, ps) (x, k) =>
    (Chip.storeLine d x (List.take k bs) (List.take (wordsIn x k) ps) task, List.drop k bs, List.drop (wordsIn x k) ps))
    (c, data, pars)).1

/-- A 64-bit word as a read delivers it (R288). -/
def Chip.readWord (c : Chip) (a : Nat) : Word := w64 (ofLeBytes (c.fetch (a / 8 * 8) 8).2.1)

/-- A 64-bit word as its home holds it. -/
def Chip.word (c : Chip) (a : Nat) : Word := w64 (ofLeBytes (c.bytes (a / 8 * 8) 8))

/-- A 64-bit word put at its home, with fresh parity. -/
def Chip.setWord (c : Chip) (a : Nat) (v : Word) : Chip :=
  (c.setBytes (a / 8 * 8) (leBytes 8 v.toNat)).setPars (a / 8 * 8) [0, 0]

/-! ### Counter pairs -/

/-- Fill level L := (P − C) mod 2^48 (R226). -/
def Pair.level (p : Pair) : Nat := serialDist 48 p.p p.c

/-- The ledger's two words of a pair brought to its counters: the token word full while L ≥ 1, holding C; the space word
full while L < BUF, holding P; both empty while EN is 0 (R227). Answers the words to serve. -/
def Chip.syncPair (c : Chip) (k : Nat) : Chip × List Nat :=
  let p := NMap.get (fun _ => Pair.reset) c.pairs k
  let t := c.home (p.word * 16)
  let c := if p.en ∧ 1 ≤ p.level then (c.setWord t (w64 p.c)).setFull t true else c.setFull t false
  let c := if p.en ∧ p.level < p.buf then (c.setWord (t + 8) (w64 p.p)).setFull (t + 8) true else c.setFull (t + 8) false
  (c, [t, t + 8])

/-- LAST_OVR of the ledger status: low 8 bits of the pair (R240). -/
def Chip.lastOvr (c : Chip) (n i : Nat) : Chip := c.setFld (Reg.ledgerStatus n) 15 8 (i % 256)

/-- Whether a pair belongs to a loaded task (R233). -/
def Chip.pairLive (c : Chip) (n i : Nat) : Bool :=
  let p := c.pair n i
  p.en && (match p.task with | some t => c.loaded t | none => false)

/-- STRAY: a signal or remote consume names no loaded task's pair (R233). -/
def Chip.stray (c : Chip) (n : Nat) : Chip := c.raise (Reg.ledgerStatus n) 3 (Reg.ledgerCtr n 3)

/-- k signals to a pair, and the words whose waiting accesses may then be served. Those that would take L beyond BUF are not applied: L
stays at BUF, SAT and SIG_OVER are set (R229, R230). DEDUCED (log 16): a count of N is N signals. -/
def Chip.signalWords (c : Chip) (n i k : Nat) : Chip × List Nat :=
  if c.pairLive n i then
    let p := c.pair n i
    let room := p.buf - p.level
    let c := if room < k then (c.lastOvr n i).raise (Reg.ledgerStatus n) 0 (Reg.ledgerCtr n 0) else c
    (c.setPair n i { p with p := (p.p + min room k) % 2 ^ 48, sat := p.sat || decide (room < k) }).syncPair (n * 4096 + i)
  else (c.stray n, [])

/-- Nothing that a port's signal waits for waits at its home any longer (R347). -/
def Chip.sigReady (c : Chip) (x : SigWait) : Bool := x.before.all fun w => !(c.waits.contains w || c.resends.contains w)

/-- The signals of a port that wait for nothing any longer are applied, and the words to be served (R228, R347). -/
def Chip.portSigs (c : Chip) (n a : Nat) : Chip × List Nat :=
  let l := ((c.wing n).port a).sigWait.filter c.sigReady
  if l.isEmpty then (c, [])
  else
    let c := c.modPort n a fun x => { x with sigWait := x.sigWait.filter fun s => !l.contains s }
    l.foldl (fun (d, todo) s =>
      let (d, more) := d.signalWords (s.sig / 4096) (s.sig % 4096) 1
      (d, todo ++ more)) (c, [])

/-! ### Waiting accesses -/

/-- A held result word dropped from the oldest MVM that holds it; an MVM with nothing left to write is done (R160). -/
def dropHeld (a : Nat) : List Mvm → List Mvm
  | [] => []
  | m :: ms =>
    if m.ended && m.held.any (fun p => decide (p.1 = a)) then
      let h := m.held.filter fun p => decide (p.1 ≠ a)
      if h.isEmpty then ms else { m with held := h } :: ms
    else m :: dropHeld a ms

/-- A value delivered to the issuer of a tagged access that has been performed (R221, R223). -/
def Chip.deliver (c : Chip) (w : Wait) (v : Word) (line : List Byte) : Chip :=
  match w.issuer with
  | .thread n g th rd =>
    let c := match w.kind with
      | .fill => c
      | _ => c.useWords (.docent n g) w.addr [c.parAt w.addr, c.parAt (w.addr + 4)] w.task
    c.modThread n g th fun s =>
      { s with wait := .ready, regs := match w.kind with | .fill => s.regs | _ => NMap.set (fun _ => 0) s.regs rd v }
  | .vec n =>
    c.modWing n fun x => { x with vec := { x.vec with run := x.vec.run.map fun r =>
      { r with wait := r.wait.map fun q => { line := q.line + 1, got := q.got ++ line } } } }
  | .dma n k =>
    c.modWing n fun x => { x with dma := match NMap.find x.dma k with
      | some j => NMap.put x.dma k (match w.kind with
        | .fill => { j with waiting := false, held := none, moved := j.moved + 8 }
        | _ => { j with waiting := false, held := some (v, [c.parAt w.addr, c.parAt (w.addr + 4)]) })
      | none => x.dma }
  | .link _ _ _ => c
  | .read n a key =>
    (c.useWords (.wing n) w.addr [c.parAt w.addr, c.parAt (w.addr + 4)] w.task).modPort n a fun x =>
      match NMap.find x.reads key with
      | some r => { x with reads := NMap.put x.reads key { got := r.got ++ leBytes 8 v.toNat, waiting := false } }
      | none => x
  | .gallery n g =>
    c.modGal n g fun x => { x with mvms := dropHeld w.addr x.mvms }

/-- A wait that is for a whole 64-byte line: a VLD's read (R220). -/
def Wait.isLine (w : Wait) : Bool :=
  match w.issuer with
  | .vec _ => decide (w.kind ≠ .fill)
  | _ => false

/-- All eight words of a line are full. -/
def Chip.lineFull (c : Chip) (a : Nat) : Bool := (List.range 8).all fun i => c.isFull (a / 64 * 64 + 8 * i)

/-- The tag admits an access now (R220). -/
def Chip.admits (c : Chip) (w : Wait) : Bool :=
  match w.kind with
  | .fill => !c.isFull w.addr
  | .read | .consume => if w.isLine then c.lineFull w.addr else c.isFull w.addr

/-- An access performed at its home: its value moved, its tag set, and the words whose waiting accesses may now be served.
A take of a live pair's token word adds one to C; one of its space word changes nothing (R227). -/
def Chip.perform (c : Chip) (w : Wait) : Chip × List Nat :=
  match w.kind with
  | .fill =>
    let c := (c.setWord w.addr w.value).setFull w.addr true
    let c := if w.pars.isEmpty then c else c.setPars w.addr w.pars
    let (c, more) := match w.issuer with
      | .link n a _ => c.portSigs n a
      | _ => (c.deliver w 0 [], [])
    (c, w.addr :: more)
  | .read =>
    (c.deliver w (c.word w.addr) (if w.isLine then c.bytes (w.addr / 64 * 64) 64 else []), [])
  | .consume =>
    let ws := if w.isLine then (List.range 8).map fun i => w.addr / 64 * 64 + 8 * i else [w.addr]
    let c := c.deliver w (c.word w.addr) (if w.isLine then c.bytes (w.addr / 64 * 64) 64 else [])
    ws.foldl (fun (d, todo) a =>
      match d.pairAt a with
      | some (k, false) =>
        let p := NMap.get (fun _ => Pair.reset) d.pairs k
        let d := { d with pairs := NMap.set (fun _ => Pair.reset) d.pairs k { p with c := (p.c + 1) % 2 ^ 48 } }
        let (d, more) := d.syncPair k
        (d, todo ++ more)
      | some (_, true) => (d, todo)
      | none => (d.setFull a false, todo ++ [a])) (c, [])

/-- Whether a waiting access concerns a word. -/
def Wait.on (w : Wait) (a : Nat) : Bool :=
  if w.isLine then decide (w.addr / 64 = a / 64) else decide (w.addr / 8 = a / 8)

/-- The waiting accesses of a list of words served: while a word is full, its waiting reads and its first waiting consume
in order of arrival; while it is empty, its first waiting fill (R223). -/
def Chip.serve : Nat → List Nat → Chip → Chip
  | 0, _, c => c
  | _, [], c => c
  | fuel + 1, a :: rest, c =>
    match c.waits.find? fun w => w.on a && c.admits w with
    | none => Chip.serve fuel rest c
    | some w =>
      let (d, more) := Chip.perform { c with waits := c.waits.erase w } w
      Chip.serve fuel (a :: (more ++ rest)) d

/-- Words served, with room for every waiting access. -/
def Chip.serveAll (c : Chip) (todo : List Nat) : Chip :=
  Chip.serve (24 * c.waits.length + 2 * todo.length + 64 + 2 * c.wings.foldl (fun k p => k + p.2.port0.sigWait.length + p.2.port1.sigWait.length) 0)
    todo c

/-- Whether two word addresses have one waiting table: the same gallery store, or the same wing store (R221). -/
def Chip.sameTable (c : Chip) (a b : Nat) : Bool := decide (c.region a = c.region b)

/-- Places in the waiting table at a word's home (R221). -/
def Chip.tableSize (c : Chip) (a : Nat) : Nat :=
  match c.region a with
  | .galStore _ _ => 32
  | _ => 512

/-- A tagged access at its home. It is performed where the tag admits it; else it is held in the waiting table; at a full
table it is returned to its issuer, which sends it again at the next edges, and TWAIT_FULL is set (R221). -/
def Chip.access (c : Chip) (w : Wait) : Chip :=
  if c.admits w then
    let (d, more) := c.perform w
    d.serveAll more
  else if (c.waits.filter fun x => c.sameTable x.addr w.addr).length < c.tableSize w.addr then
    { c with waits := c.waits ++ [w] }
  else
    let n := (c.region w.addr).wing
    ({ c with resends := c.resends ++ [w] }).raise (Reg.ledgerStatus n) 4 (Reg.ledgerCtr n 4)

/-- A fill by an agent: of a live pair's word it is discarded and sets LWORD (R227). -/
def Chip.fillAccess (c : Chip) (w : Wait) : Chip :=
  match c.pairAt w.addr with
  | some _ => (c.raise (Reg.ledgerStatus (c.region w.addr).wing) 2 (Reg.ledgerCtr (c.region w.addr).wing 2)).deliver w 0 []
  | none => c.access w

/-- A word set full by the Registrar, and its waiting accesses served (R274, R275). -/
def Chip.fillTag (c : Chip) (a : Nat) : Chip := (c.setFull a true).serveAll [a]

/-- Every word of a range set full and its waiting accesses served. -/
def Chip.fillRange (c : Chip) (a n : Nat) : Chip := (List.range (n / 8)).foldl (fun d i => d.fillTag (a + 8 * i)) c

/-- Tags of a range set without serving anything (R219). -/
def Chip.setTags (c : Chip) (a n : Nat) (b : Bool) : Chip := (List.range (n / 8)).foldl (fun d i => d.setFull (a + 8 * i) b) c

/-! ### Signals -/

/-- A pair's counters stored, its words brought up to date and its waiting takes served (R227, R229). -/
def Chip.putPair (c : Chip) (n i : Nat) (p : Pair) : Chip :=
  let (d, more) := (c.setPair n i p).syncPair (n * 4096 + i)
  d.serveAll more

/-- k signals to a pair, and its waiting takes served (R229, R230). -/
def Chip.signalPair (c : Chip) (n i k : Nat) : Chip :=
  let (d, more) := c.signalWords n i k
  d.serveAll more

/-- The cascade class is large (R230, R243). -/
def Chip.largeCascade (c : Chip) : Bool := c.flag Reg.ledgerClass 0

/-- k consumes of a pair. Those that would take L below 0 are not applied and set SAT and CONS_UNDER; in a large cascade
the pair's task stops and cannot resume (R230). -/
def Chip.consumePair (c : Chip) (n i k : Nat) : Chip :=
  let p := c.pair n i
  let l := p.level
  let c :=
    if l < k then
      let d := (c.lastOvr n i).raise (Reg.ledgerStatus n) 1 (Reg.ledgerCtr n 1)
      match d.largeCascade, p.task with
      | true, some t => d.stopTask t 0x16
      | _, _ => d
    else c
  c.putPair n i { p with c := (p.c + min l k) % 2 ^ 48, sat := p.sat || decide (l < k) }

end Sys2Proof.Machine
end

