-- ==== Sys2Proof/Machine/Scale.lean ====
section
/-! DEFINITION. Delayed scales: scale records (R78), histories, the scale rule (R72) and the readout gain (R94), as a census step fixes
them. -/

namespace Sys2Proof.Machine

/-- The tensor index that means none (R77). -/
def noTensor : Nat := 0xFFFFFF

/-- TENSORS (R80). -/
def Chip.tensors (c : Chip) : Nat := c.fld Reg.censusShape 23 0

/-- The current census step (R71, R80). -/
def Chip.censusStep (c : Chip) : Nat := c.fld Reg.censusStep 47 0

/-- Address of a tensor's scale record (R78). -/
def Chip.scaleAddr (c : Chip) (x : Nat) : Nat := c.fld Reg.censusScale 43 7 * 128 + x * 128

/-- Word k of a tensor's scale record, as a read delivers it (R78, R288). -/
def Chip.scaleWord (c : Chip) (x k : Nat) : Nat := (c.readWord (c.scaleAddr x + 8 * k)).toNat

/-- FORMAT of a tensor's scale record (R78). -/
def Chip.tensorFormat (c : Chip) (x : Nat) : Nat := bits (c.scaleWord x 0) 23 16

/-- The code limit Q of a format; none where the format has no delayed scale (R72). -/
def codeLimit (fmt : Nat) : Option Nat :=
  if fmt = 1 ∨ fmt = 2 ∨ fmt = 3 then some 127
  else if fmt = 4 then some 32767
  else if fmt = 9 then some (2 ^ 31 - 1)
  else if fmt = 10 then some (2 ^ 47 - 1)
  else none

/-- The scale records that a census step fixes (R72): those of the step in force, or of the one before it. -/
def Chip.recsOf (c : Chip) (t : Nat) : NMap Word := if t < c.censusStep then c.step.recsOld else c.step.recs

/-- Word k of a tensor's scale record as step t fixed it. DEDUCED (log 101): a record that held nothing when the step began is taken as
it stands. -/
def Chip.recWord (c : Chip) (t x k : Nat) : Nat :=
  let m := c.recsOf t
  if m.any fun p => decide (p.1 / 16 = x) then (NMap.get (fun _ => 0) m (16 * x + k)).toNat else c.scaleWord x k

/-- Entry i of a tensor's history, newest first, as a binary32 code (R78), by its record's words. -/
def histCode (w : Nat → Nat) (i : Nat) : Nat :=
  let slot := (bits (w 1) 51 48 + 32 - i) % 16
  bits (w (2 + slot / 2)) (31 + slot % 2 * 32) (slot % 2 * 32)

/-- The census steps of a tensor's valid entries, newest first. The record holds only the newest; the Registrar's own list
gives the rest while it matches the record. DEDUCED (log 20): a record written by others is taken as consecutive steps. -/
def histSteps (own : List Nat) (w : Nat → Nat) : List Nat :=
  let count := min (bits (w 1) 56 52) 16
  let last := bits (w 1) 47 0
  if own.head? = some last ∧ count ≤ own.length then own.take count
  else (List.range count).map fun i => last - i

/-- The Registrar's own list of the census steps of a tensor's entries. -/
def Chip.histOwn (c : Chip) (x : Nat) : List Nat := NMap.get (fun _ => []) c.histStep x

/-- The largest history entry of steps t − d to t − 1, as m × 2^e; none where none exists or it is 0 (R72). -/
def Chip.aRef (c : Chip) (x t d : Nat) : Option (Nat × Int) :=
  let w := c.recWord t x
  let codes := ((histSteps (c.histOwn x) w).zipIdx.filter fun p => decide (t ≤ p.1 + d ∧ p.1 < t)).map fun p => histCode w p.2
  match fmt32.unpack (maxOf codes) with
  | .fin _ m e => if m = 0 then none else some (m, e)
  | _ => none

/-- The scale rule of R72 for a limit q, window d, margin g and initial exponent. -/
def Chip.scaleRule (c : Chip) (x t q d g : Nat) (sInit : Int) : Int :=
  clampInt (-128) 127 (match c.aRef x t d with
    | none => sInit
    | some (m, e) => smallestScale (m * 2 ^ g) e q)

/-- The scale of a tensor in census step t; 0 where its format has no delayed scale or the index is out of range (R72, R77). -/
def Chip.scaleOf (c : Chip) (x t : Nat) : Int :=
  if x ≥ c.tensors then 0
  else
    let w := c.recWord t x 0
    match codeLimit (bits w 23 16) with
    | none => 0
    | some q => c.scaleRule x t q (bits w 11 8 + 1) (bits w 14 12) (sext 8 (bits w 7 0))

/-! ### Readout gain -/

/-- The readout tensor of a plane in force in the census step (R94, R108). -/
def Gal.readTensor (x : Gal) (p : Plane) : Nat := match p with | .A => wbits x.readSet 23 0 | .B => wbits x.readSet 55 32

/-- A plane makes census counts: FIX is clear and it has a readout tensor (R94). -/
def Gal.gainCounts (x : Gal) (p : Plane) : Bool := !x.gainSet.getLsbD 20 && decide (x.readTensor p ≠ noTensor)

/-- The scale exponent that the rule of R94 gives a plane in step t; an index of TENSORS or more takes s = 0 (R77). -/
def Chip.gainScale (c : Chip) (x : Gal) (p : Plane) (t : Nat) : Int :=
  let w := x.gainSet
  if x.readTensor p ≥ c.tensors then 0
  else c.scaleRule (x.readTensor p) t 511 (wbits w 15 12 + 1) (wbits w 18 16) (8 - wbits w 10 8)

/-- The readout gain G of a plane in census step t (R94): G_INIT, or clamp(8 − s, 0, 7). -/
def Chip.gainOf (c : Chip) (x : Gal) (p : Plane) (t : Nat) : Nat :=
  if x.gainCounts p then (clampInt 0 7 (8 - c.gainScale x p t)).toNat else wbits x.gainSet 10 8

end Sys2Proof.Machine
end

