-- ==== Sys2Proof/Machine/Flags.lean ====
section
/-! DEFINITION. Flags as the outside sees them: the cause tree and its summary (R27, R383 to R388), the MSI-X messages
that mirror it (R402), what a read of each register returns, and the lifting of a part's effect to the whole block. -/

namespace Sys2Proof.Machine

/-! ### The cause tree -/

/-- Some vitrine of a gallery has WV_FAIL set (R110, R384). -/
def Chip.anyWvFail (c : Chip) (n g : Nat) : Bool :=
  c.regs.any fun p => decide (galReg n g 0x800 ≤ p.1 ∧ p.1 < galReg n g 0xC00 ∧ p.1 % 16 = 0) && bit p.2.toNat 25

/-- gal[g].irq.cause (R384): each bit is the OR of the source flags listed for it (R383). -/
def Chip.galCauseNow (c : Chip) (n g : Nat) : Nat :=
  let f := c.fld (Reg.galFlt n g) 4 0
  let x := c.gal n g
  b2n (c.flag (Reg.chkStatus n g) 0) + b2n (c.anyWvFail n g) * 2 + b2n (x.planeA.expRaised || x.planeB.expRaised) * 4 +
    b2n (bit f 0 || bit f 4) * 8 + b2n (bit f 1) * 16 + b2n (bit f 2) * 32 + b2n (bit f 3) * 64

/-- The galleries of a wing whose registers or planes differ from reset: only these can hold a cause. -/
def Chip.touchedGals (c : Chip) (n : Nat) : List Nat :=
  ((c.regs.filterMap fun (p : Nat × Word) =>
      if galReg n 0 0 ≤ p.1 ∧ p.1 < galReg n 300 0 then some ((p.1 - galReg n 0 0) / 0x1000) else none) ++
    (c.gals.filterMap fun (p : Nat × Gal) => if p.1 / 512 = n then some (p.1 % 512) else none)).eraseDups

/-- The galleries of a wing that contribute to their group: (cause AND mask) is non-zero (R383). -/
def Chip.pendingGals (c : Chip) (n : Nat) : List Nat :=
  (c.touchedGals n).filter fun g => c.galCauseNow n g &&& c.fld (Reg.galMask n g) 6 0 ≠ 0

/-- wing[n].irq.grp[k] (R386). -/
def Chip.grpNow (c : Chip) (n k : Nat) : Nat :=
  ((c.pendingGals n).filter fun g => decide (g / 20 = k)).foldl (fun v g => v + 2 ^ (g % 20)) 0

/-- wing[n].irq.cause (R386). -/
def Chip.wingCauseNow (c : Chip) (n : Nat) : Nat :=
  let grp := ((c.pendingGals n).map fun g => g / 20).eraseDups.foldl (fun v k => v + 2 ^ k) 0
  let mx := fun a => b2n (c.fld (Reg.mxStatus n a) 1 0 ≠ 0)
  let mem := c.fld (Reg.memStatus n) 5 0
  let cons := c.fld (Reg.consStatus n) 5 0
  grp + mx 0 * 2 ^ 16 + mx 1 * 2 ^ 17 + b2n (bit mem 1 || bit mem 2 || bit mem 5) * 2 ^ 18 + b2n (bit mem 0) * 2 ^ 19 +
    b2n (c.flag (Reg.bxEvents n 0) 2) * 2 ^ 20 + b2n (c.flag (Reg.bxEvents n 1) 2) * 2 ^ 21 +
    b2n (bit cons 0 || bit cons 1 || bit cons 5) * 2 ^ 22 + b2n (c.fld (Reg.convStatus n) 1 0 ≠ 0) * 2 ^ 23 +
    b2n (decide (n % 2 = 0) && c.fld (Reg.watchStatus n) 1 0 != 0) * 2 ^ 24 + b2n (c.fld (Reg.wingFlt n) 3 0 ≠ 0) * 2 ^ 25

/-- Records after ACK, modulo 2^24 (R389). -/
def Chip.logAhead (c : Chip) : Nat := serialDist 24 (c.fld Reg.fltLogPos 23 0) (c.fld Reg.fltLogPos 47 24)

/-- LOGNEW (R388). -/
def Chip.logNew (c : Chip) : Bool := c.logAhead != 0

/-- MAXTIER: the highest TIER among the records after ACK that the log still holds (R388, R389). -/
def Chip.maxTier (c : Chip) : Nat :=
  maxOf ((List.range (min c.logAhead 64)).map fun k =>
    c.fld (Reg.fltLog (2 * ((c.fld Reg.fltLogPos 23 0 + 2 ^ 24 - 1 - k) % 64))) 49 48)

/-- Summary bits [20:0] (R388). -/
def Chip.summaryBits (c : Chip) : Nat :=
  let ws := (List.range 16).foldl (fun v n => v + b2n (c.wingCauseNow n &&& c.fld (Reg.wingMask n) 25 0 ≠ 0) * 2 ^ n) 0
  let lk := c.fld Reg.linkStatus 3 0
  let rg := c.fld Reg.regStatus 8 0
  let st := c.fld Reg.stepStatus 5 0
  ws + b2n (c.fld Reg.tickStatus 4 1 ≠ 0) * 2 ^ 16 + b2n (bit lk 0 || bit lk 1 || bit lk 3) * 2 ^ 17 +
    b2n (bit rg 3 || bit rg 4 || bit rg 5) * 2 ^ 18 + b2n (bit st 0 || bit st 1 || bit st 4 || bit st 5) * 2 ^ 19 +
    b2n (c.fld Reg.fltStatus 1 0 ≠ 0) * 2 ^ 20

/-- chip.irq.summary (R388). -/
def Chip.summary (c : Chip) : Nat :=
  c.summaryBits + c.maxTier * 2 ^ 24 + b2n c.logNew * 2 ^ 26 + b2n c.halted * 2 ^ 32 + b2n c.recov.isSome * 2 ^ 33

/-- IRQ_N is driven low (R383). -/
def Chip.irqLow (c : Chip) : Bool :=
  c.summaryBits &&& c.fld Reg.irqMask 20 0 ≠ 0 || c.logNew || c.halted || c.flag Reg.bootStatus 5

/-- The level that the part drives on SYNC[k], none where it releases the land: nothing before switch-over (R411), the tick on SYNC[0] of a
driving master, high in the pulse at its edge (R38), SYNC[1] low while HALTED is set and else as SB_OUT[1] directs, SYNC[2] low while PAUSE
is driven (R44), and SYNC[7:3] as SB_OE and SB_OUT say (R437). DEDUCED (log 127): SYNC[1] stays released until chip.boot.sync is first
written. -/
def Chip.syncDrive (c : Chip) (atEdge : Bool) (k : Nat) : Option Bool :=
  let out := c.flag Reg.bootSync (8 + k)
  if !c.boot.syncUp then none
  else if k = 0 then if c.tick.driving then some atEdge else none
  else if k = 1 then if c.halted || (c.boot.syncSet && !out) then some false else none
  else if k = 2 then if c.tick.pauseDrive then some false else none
  else if c.flag Reg.bootSync (16 + k) then some out else none

/-! ### MSI-X -/

/-- Source of an MSI-X vector of port h (R402). DEDUCED (log 17): vectors 22 and 23 are levels, entries not yet consumed and
P2H_FULL. -/
def Chip.vectorSource (c : Chip) (sum h v : Nat) : Bool :=
  if v ≤ 20 then bit sum v
  else if v = 21 then c.logNew || c.halted
  else if v = 22 then c.rd (Reg.hostCqTail h) ≠ c.rd (Reg.hostCqHead h)
  else if v = 23 then c.flag (Reg.hostMbox h) 1
  else false

/-- One vector of a port: armed and its source 1, it sends one message and disarms; a masked one sets its pending bit
instead, and a pending one that is no longer masked sends (R402). -/
def Chip.msixVector (c : Chip) (sum h v : Nat) : Chip :=
  if c.flag (Reg.hostMsixArm h) v && c.vectorSource sum h v then
    let d := c.setFlag (Reg.hostMsixArm h) v false
    if (c.host h).mask.getLsbD v then d.modHost h fun s => { s with pba := s.pba ||| BitVec.ofNat 32 (2 ^ v) }
    else d.modHost h fun s => { s with sent := NMap.set (fun _ => 0) s.sent v (NMap.get (fun _ => 0) s.sent v + 1) }
  else c

/-- Every armed vector of both ports after a change of state (R402). Ports with nothing armed have nothing to send. -/
def Chip.msix (c : Chip) : Chip :=
  if c.fld (Reg.hostMsixArm 0) 23 0 = 0 ∧ c.fld (Reg.hostMsixArm 1) 23 0 = 0 then c
  else
    let sum := c.summaryBits
    (List.range 2).foldl (fun d h => (List.range 24).foldl (fun d v => d.msixVector sum h v) d) c

/-- The part's effect as a step of the whole block, with the interrupt messages it causes. The queue and the Turnstile are
not touched (R446). -/
def onChip (f : Chip → Chip) (s : State) : Host.Outcome State Fault Refusal := .next { s with chip := (f s.chip).msix }

/-- The Turnstile's effect as a step of the whole block. The part is not touched (R446). -/
def onTs (f : Turnstile → Turnstile) (s : State) : Host.Outcome State Fault Refusal := .next { s with ts := f s.ts }

/-! ### What a register reads -/

/-- Bank number of a line (R285). -/
def bankOf (l : Nat) : Nat := 32 * (l / 8 % 8) + 16 * (l / 8 / 8 / 16 % 2) + l / 8 / 8 % 16

/-- Request slots of wing n held for a bank (R236). -/
def WingSt.bankSlots (w : WingSt) (b : Nat) : Nat := (w.memSlots.filter fun r => decide (bankOf r.line = b)).length

/-- A plane is written (R86). -/
def Gal.writ (x : Gal) (p : Plane) : Bool := (x.plane p).written

/-- CMAX of a vitrine's plane (R85). -/
def PlaneSt.cmaxOf (y : PlaneSt) (v : Nat) : Nat := NMap.get (fun _ => 0) y.cmax v

/-- A write to a vitrine is outstanding (R110): it has cells left or in progress in a plane write. -/
def WriteJob.vitBusy (j : WriteJob) (v : Nat) : Bool :=
  match NMap.find j.vits v with
  | some q => (!j.aborted && decide (q.next < j.order.length * 8 * 66)) || !q.cells.isEmpty
  | none => !j.aborted && !j.order.isEmpty

/-- A write to vitrine v of a gallery is outstanding. -/
def Gal.vitBusy (x : Gal) (v : Nat) : Bool :=
  (match x.wjob with | some j => j.vitBusy v | none => false) || (match x.rjob with | some j => j.vitBusy v | none => false)

/-- The number of cells that a plane write gives each vitrine: 8 rows of each row group, 33 columns, 2 cells (R87). -/
def WriteJob.cellCount (j : WriteJob) : Nat := j.order.length * 8 * 66

/-- The slowest vitrine's next cell in a plane write. -/
def WriteJob.slowest (j : WriteJob) : Nat :=
  if j.vits.length < 64 then 0
  else j.vits.foldl (fun v p => (p.2.cells.map CellProg.idx).foldl min (min v p.2.next)) j.cellCount

/-- The row of a cell position in a plane write's order (R87). -/
def WriteJob.rowOf (j : WriteJob) (k : Nat) : Nat := nth 0 j.order (k / 528) * 8 + k / 66 % 8

/-- A list of bits as a number, bit i from item i. -/
def bitsOf (k : Nat) (f : Nat → Bool) : Nat := (List.range k).foldl (fun v i => v + b2n (f i) * 2 ^ i) 0

/-- INTERVAL in force (R149). -/
def Chip.interval (c : Chip) (n : Nat) : Nat := max (c.fld (Reg.consInterval n) 15 0) 100

/-- A group's age and droop reach num/den of the interval and of DLIM (R140). -/
def Chip.reaches (c : Chip) (n num den age d : Nat) : Bool :=
  decide (den * (age * c.period) ≥ num * 2 * c.interval n ∨
    den * d * 2 ^ 16 ≥ num * c.fld (Reg.consInterval n) 63 32 * c.interval n)

/-- Group m of a written plane is past a threshold now: 7/8 due, 1/1 late, 4/1 expired (R140). -/
def Chip.groupPast (c : Chip) (n : Nat) (y : PlaneSt) (m num den : Nat) : Bool :=
  y.written && c.reaches n num den (NMap.get (fun _ => 0) y.age m) (NMap.get (fun _ => 0) y.droop m)

/-- Some group of a plane is expired (R140). -/
def Chip.anyExpired (c : Chip) (n : Nat) (y : PlaneSt) : Bool := (List.range 8).any fun m => c.groupPast n y m 4 1

/-- A rehang of the gallery is in progress, the gaps between refresh slots included (R145, R151). -/
def Gal.rhActive (x : Gal) : Bool := x.rjob.isSome || x.rhOpen.isSome

/-- AGE of a plane's sweep: slots since the last full sweep in units of 64, saturating (R134). -/
def Chip.sweepAge (c : Chip) (swept : Nat) : Nat := min ((c.tick.slotCount - swept) / 64) 0xFFFF

/-- gal[g].cons.state (R151). -/
def Chip.consStateNow (c : Chip) (n : Nat) (x : Gal) : Nat :=
  let past := fun (y : PlaneSt) num den => bitsOf 8 fun m => c.groupPast n y m num den
  past x.planeA 7 8 + past x.planeB 7 8 * 2 ^ 8 + past x.planeA 1 1 * 2 ^ 16 + past x.planeB 1 1 * 2 ^ 24 +
    b2n x.planeA.expRaised * 2 ^ 32 + b2n x.planeB.expRaised * 2 ^ 33 + b2n x.planeA.holds.isSome * 2 ^ 34 +
    b2n x.planeB.holds.isSome * 2 ^ 35 +
    match x.rjob with
    | none => (match x.rhOpen with | some p => 2 ^ 36 + 2 * 2 ^ 37 + planeIx p * 2 ^ 39 | none => 0)
    | some j => 2 ^ 36 + (match j.form with | .idle => 1 | .resident => 2 | _ => 0) * 2 ^ 37 + planeIx j.plane * 2 ^ 39 +
        (if j.slowest < j.cellCount then j.rowOf j.slowest / 8 else 0) * 2 ^ 40

/-- gal[g].doc.threads (R214). -/
def Gal.docThreadsNow (x : Gal) : Nat :=
  bitsOf 32 (fun i => (x.thread i).live) + bitsOf 32 (fun i => (x.thread i).live && decide ((x.thread i).wait ≠ .ready)) * 2 ^ 32

/-- A write is outstanding in at least one vitrine of a gallery (R109). -/
def Gal.writing (x : Gal) : Bool := (List.range 64).any x.vitBusy

/-- CAL_BUSY of a vitrine (R117, R134): a spare that SPARE_SEL fixes calibrates again and again, and ends the calibration that it is in when
it ceases to be fixed. -/
def Chip.calBusyNow (c : Chip) (n : Nat) (t : VitSt) : Bool :=
  t.calBusy || (!t.stale && decide (c.fld (Reg.spareSel n) 1 0 = t.spare ∨ t.fixSeen < NMap.get (fun _ => 0) (c.wing n).fixEnd t.spare))

/-- A number limited to int16. -/
def clamp16 (x : Int) : Int := clampInt (-32768) 32767 x

/-- m[x] from the differences r − z of the 8 vitrines of a vitrine column (R123): 65,536 × (mean of 1,024 / d − 1). -/
def slopeOf (ds : List Int) : Int :=
  let den := ds.foldl (· * ·) 1
  let num := sumInt (ds.zipIdx.map fun p => 1024 * (ds.zipIdx.filter (fun q => decide (q.2 ≠ p.2))).foldl (fun a q => a * q.1) 1)
  clamp16 (roundEven (65536 * (num - 8 * den)) (8 * den).toNat)

/-- Key of r − z of vitrine v's column on a plane. -/
def rdiffKey (p : Plane) (v col : Nat) : Nat := planeIx p * 4096 + 33 * v + col

/-- The r − z of a column as accession measured it, or 1,024, the ratio 1, before any measurement (R120, R123). -/
def Chip.sweptRatio (c : Chip) (n g k : Nat) : Int :=
  if c.boot.conv = 0 then 1024 else ((Config.sweepRatio c.boot.conv (galKey n g) k + 1 : Nat) : Int)

/-- The r − z of a column by its key. -/
def Chip.ratioAt (c : Chip) (n g k : Nat) : Int := (NMap.find (c.gal n g).rdiff k).getD (c.sweptRatio n g k)

/-- m[x] from the ratios of the eight vitrines in its vitrine column (R123). -/
def slopeAt (p : Plane) (x : Nat) (ratio : Nat → Int) : Int :=
  let j := if x < 256 then x / 32 else x - 256
  slopeOf ((List.range 8).map fun i => ratio (rdiffKey p (8 * i + j) (if x < 256 then x % 32 else 32)))

/-- A coefficient by its index among those written since accession, else as accession's sweep measured it (R120, R123, R133). -/
def Chip.coefAt (c : Chip) (n g : Nat) (m : NMap (BitVec 16)) (i : Nat) : BitVec 16 :=
  match NMap.find m i with
  | some v => v
  | none =>
    if c.boot.conv = 0 ∨ 2376 ≤ i % 4096 then 0
    else if i % 4096 < 264 then BitVec.ofInt 16 (slopeAt (planeOf (i / 4096)) (i % 4096) (c.sweptRatio n g))
    else Config.sweepOffset c.boot.conv (galKey n g) i

/-- The coefficient that corr.index names (R133). -/
def Chip.coefNow (c : Chip) (n g : Nat) : Nat :=
  (c.coefAt n g (c.gal n g).coef (c.fld (Reg.corrIndex n g) 12 0)).toNat

/-- A gallery register's derived bits added to its stored bits. -/
def Chip.galView (c : Chip) (n g o v : Nat) : Nat :=
  let x := c.gal n g
  if o = 0x10 then setBits (setBits v 4 0 x.cmdQ.length) 6 5 ((match x.wjob with | some _ => 1 | none => 0) + x.pendW.length)
  else if o = 0x120 then setBits (setBits v 2 0 (c.gainOf x .A c.censusStep)) 6 4 (c.gainOf x .B c.censusStep)
  else if o = 0x130 then setBits v 4 4 (b2n x.writing)
  else if o = 0x158 then c.coefNow n g
  else if o = 0x210 then c.consStateNow n x
  else if 0x240 ≤ o ∧ o < 0x2C0 then
    let k := (o - 0x240) / 8
    let y := x.plane (planeOf (k / 8))
    NMap.get (fun _ => 0) y.droop (k % 8) + NMap.get (fun _ => 0) y.age (k % 8) * 2 ^ 32
  else if o = 0x308 then
    let v := setBits v 1 1 (b2n (!x.pendW.isEmpty))
    match x.wjob with
    | none => v
    | some j => setBits (setBits (setBits v 0 0 1) 2 2 (planeIx j.plane)) 13 8 (if j.slowest < j.cellCount then j.rowOf j.slowest else 63)
  else if o = 0x400 then x.docThreadsNow
  else if o = 0x500 then c.galCauseNow n g
  else if 0x800 ≤ o ∧ o < 0xC00 ∧ o % 16 = 0 then
    let k := (o - 0x800) / 16
    setBits (setBits (setBits (setBits (setBits v 6 0 (x.planeA.cmaxOf k)) 14 8 (x.planeB.cmaxOf k)) 16 16 (b2n x.planeA.written))
      17 17 (b2n x.planeB.written)) 18 18 (b2n (x.vitBusy k))
  else if 0xC00 ≤ o ∧ o < 0xE00 then
    let t := x.vit ((o - 0xC00) / 8)
    t.spare + t.bad * 2 ^ 4 + b2n t.stale * 2 ^ 8 + b2n (c.calBusyNow n t) * 2 ^ 9 + c.sweepAge t.sweptA * 2 ^ 16 + c.sweepAge t.sweptB * 2 ^ 32
  else v

/-- mx[a].queue (R193). -/
def Arr.queueNow (r : Arr) : Nat :=
  r.queue.length + b2n r.load.isSome * 2 ^ 8 + b2n r.flush.isSome * 2 ^ 9 +
    (match r.bg with | .empty => 0 | .loading => 1 | .ready _ => 2) * 2 ^ 10 + b2n r.fg.isSome * 2 ^ 12 +
    (match r.fg with | some t => t.fmt | none => 0) * 2 ^ 16 + b2n r.bank.isEmpty * 2 ^ 24

/-- The pair that wing n's index register selects (R241). -/
def Chip.selPair (c : Chip) (n : Nat) : Nat := c.fld (Reg.ledgerIndex n) 11 0

/-- The logical array bound to physical array a of wing n by a loaded task, if any (R189, R191). DESIGN CHOICE (log 129). -/
def Chip.boundHere (c : Chip) (n a : Nat) : Option Nat :=
  c.tasks.findSome? fun p => (p.2.binds.find? fun q => decide (q.2 = 2 * n + a)).map Prod.fst

/-- mx[a].ident with BOUND and LOGICAL (R191). -/
def Chip.identNow (c : Chip) (n a v : Nat) : Nat :=
  match c.boundHere n a with
  | some l => setBits (setBits v 16 16 1) 28 24 l
  | none => v

/-- A wing register's derived bits added to its stored bits. -/
def Chip.wingView (c : Chip) (n o v : Nat) : Nat :=
  let w := c.wing n
  let sel := c.pair n (c.selPair n)
  let live := decide (c.selPair n ≠ 4095)
  if o = 0x918 then
    setBits v 24 16 (c.gals.filter fun p => decide (p.1 / 512 = n) && p.2.rhActive).length
  else if o = 0xA00 then c.identNow n 0 v
  else if o = 0xB00 then c.identNow n 1 v
  else if o = 0xA30 then w.mx0.queueNow
  else if o = 0xB30 then w.mx1.queueNow
  else if o = 0xC40 then
    w.vec.queue.length + b2n w.vec.run.isSome * 2 ^ 8 + (w.held.filter fun h => decide (h.unit = .vec)).length * 2 ^ 16
  else if o = 0xD00 then setBits (setBits v 11 8 w.dma.length) 22 16 (w.held.filter fun h => decide (h.unit = .dma)).length
  else if o = 0xE48 then if live then sel.buf + b2n sel.en * 2 ^ 16 + b2n sel.sat * 2 ^ 17 + sel.word * 2 ^ 20 else 0
  else if o = 0xE50 then if live then sel.p else 0
  else if o = 0xE58 then if live then sel.c else 0
  else if o = 0x1300 then w.watch.length
  else if o = 0x1468 then
    w.memSlots.length + ((List.range 256).filter fun b => decide (16 ≤ w.bankSlots b)).length * 2 ^ 8 + min w.lineWait.length 255 * 2 ^ 24
  else if o = 0x1800 then c.wingCauseNow n
  else if 0x1820 ≤ o ∧ o < 0x1898 then c.grpNow n ((o - 0x1820) / 8)
  else v

/-- A chip register's derived bits added to its stored bits. -/
def Chip.chipView (c : Chip) (o v : Nat) : Nat :=
  if 0x1400 ≤ o ∧ o < 0x1800 then
    let q := (o - 0x1400) / 16
    (c.queue q).length + b2n (c.putWaits q) * 2 ^ 16 + b2n (c.takeWait.contains q) * 2 ^ 17
  else if o = 0x2080 then c.lockedWays
  else if o = 0x5000 then c.summary
  else if o = 0x5118 then
    setBits v 1 1 (b2n c.halted) + match c.recov with
      | some r => 1 + r.tier * 2 ^ 4 + r.source * 2 ^ 8
      | none => 0
  else if o = 0x6010 then 256 - (c.queue 48).length
  else if o = 0x6110 then 256 - (c.queue 49).length
  else v

/-- What a read of an aligned 64-bit register returns (R7 to R10): stored and derived bits, zero for write-only fields,
reserved bits and offsets with no register. DESIGN CHOICE (log 94). -/
def Chip.regRead (c : Chip) (a : Nat) : Word :=
  match regAddr a, regDefAt a with
  | some ra, some d =>
    let v := (c.rd a).toNat
    let x := match ra.scope with
      | .chip => c.chipView ra.off v
      | .gal => c.galView ra.wing ra.gal ra.off v
      | .wing | .even => c.wingView ra.wing ra.off v
    w64 x &&& ~~~(w64 d.wo)
  | _, _ => 0

end Sys2Proof.Machine
end

