-- ==== Sys2Proof/Machine/Census.lean ====
section
/-! DEFINITION. The census: its steps and histories (R71, R73, R74), counts (R75), records (R76, R77) and the commands AMAX_COMBINE and CENSUS_RECORD_WRITE. -/

namespace Sys2Proof.Machine

/-- Every entry up to step t − 1 is complete, so that a conversion of step t may use its scale (R74). -/
def Chip.histReady (c : Chip) (t : Nat) : Bool := !c.step.waitSteps.any fun u => decide (u < t)

/-- A conversion meets an incomplete history: HIST_WAIT (R74). -/
def Chip.histWait (c : Chip) : Chip := c.raise Reg.censusStatus 0 (Reg.censusCtr 0)

/-- Key of tensor x's counts in census step t. -/
def countKey (t x : Nat) : Nat := t * 2 ^ 24 + x

/-- A tensor's counts in a step. -/
def Chip.counts (c : Chip) (t x : Nat) : TCount := NMap.get (fun _ => TCount.zero) c.census (countKey t x)

/-- Counts stored. -/
def Chip.setCounts (c : Chip) (t x : Nat) (v : TCount) : Chip :=
  { c with census := NMap.set (fun _ => TCount.zero) c.census (countKey t x) v }

/-- A count that saturates at 2^48 − 1 (R76). -/
def sat48 (x : Nat) : Nat := min x (2 ^ 48 - 1)

/-- A task of reference-forward mode (R79). -/
def Chip.refFwd (c : Chip) : Option Nat → Bool
  | some t => match (c.task t).img with | some im => im.refFwd | none => false
  | none => false

/-- Counts of a tensor changed, with the scale that the step fixed for it (R76). The index none counts nowhere; an index of TENSORS or
more counts nowhere, sets TENSOR_RANGE and stops the task (R77). -/
def Chip.countT (c : Chip) (t x : Nat) (task : Option Nat) (f : TCount → TCount) : Chip :=
  if x = noTensor then c
  else if x ≥ c.tensors then (c.raise Reg.censusStatus 4 (Reg.censusCtr 4)).taskError? task
  else
    let v := c.counts t x
    c.setCounts t x { f v with scale := c.scaleOf x t, refFwd := v.refFwd || c.refFwd task }

/-- A number of elements, zeros, saturations and non-finites counted, with the largest magnitude (R75). -/
def TCount.add (v : TCount) (elems zeros sat nonfinite : Nat) (amax : Lane) : TCount :=
  { v with elems := sat48 (v.elems + elems), zeros := sat48 (v.zeros + zeros), sat := sat48 (v.sat + sat),
           nonfinite := sat48 (v.nonfinite + nonfinite), amax := amaxOf v.amax amax }

/-- A tensor takes part by this part's counts (R73). -/
def TCount.takesPart (v : TCount) : Bool := decide (0 < v.elems ∨ 0 < v.nonfinite)

/-- This part's records for the combine of a step (R73, R356): every tensor with counts. -/
def Chip.ownAmax (c : Chip) (t : Nat) : List AmaxEntry :=
  c.census.filterMap fun (p : Nat × TCount) =>
    if p.1 / 2 ^ 24 = t ∧ p.2.takesPart then some { tensor := p.1 % 2 ^ 24, amax := p.2.amax, counted := true } else none

/-- Two parts' records of one step combined: the largest magnitude and whether any part counted (R73, R356). -/
def mergeAmax (xs ys : List AmaxEntry) : List AmaxEntry :=
  ys.foldl (fun acc y =>
    if acc.any fun x => decide (x.tensor = y.tensor) then
      acc.map fun x => if x.tensor = y.tensor then { x with amax := amaxOf x.amax y.amax, counted := x.counted || y.counted } else x
    else acc ++ [y]) xs

/-- The Registrar writes a word of its own tables, as any partial write of a line (R290). -/
def Chip.regWord (c : Chip) (a : Nat) (v : Nat) : Chip := c.store a (leBytes 8 v) [] none

/-- The scale records as memory now holds them: for each tensor with a byte listed, the words of its record, read as the Registrar's
reads (R288). -/
def Chip.readRecs (c : Chip) : Chip × NMap Word :=
  let base := c.scaleAddr 0
  let xs := (c.mem.filterMap fun p =>
    let a := c.nameOf p.1
    if base ≤ a ∧ a < base + 128 * c.tensors then some ((a - base) / 128) else none).eraseDups
  xs.foldl (fun (d, m) x =>
    let (d, bs, _) := d.fetch (d.scaleAddr x) 128
    (d, (List.range 16).foldl (fun m k => NMap.set (fun _ => 0) m (16 * x + k) (w64 (ofLeBytes ((bs.drop (8 * k)).take 8)))) m)) (c, [])

/-- A census step opens: every tensor's scale, and so every gallery's gain, is fixed for it (R72, R94). -/
def Chip.openScales (c : Chip) : Chip :=
  let (c, m) := c.readRecs
  { c with step := { c.step with recsOld := c.step.recs, recs := m } }

/-- A word of a record's history written by the Registrar: in memory, and in the records that the steps have fixed, whose entries
R74 completes. -/
def Chip.histWord (c : Chip) (x k v : Nat) : Chip :=
  let put := fun (m : NMap Word) =>
    if m.any fun p => decide (p.1 / 16 = x) then NMap.set (fun _ => 0) m (16 * x + k) (w64 v) else m
  let c := c.regWord (c.scaleAddr x + 8 * k) v
  { c with step := { c.step with recs := put c.step.recs, recsOld := put c.step.recsOld } }

/-- A history entry of step t written to a tensor's scale record: HIST, LAST, HEAD and COUNT (R73, R78). -/
def Chip.pushHistory (c : Chip) (x t : Nat) (amax : Lane) : Chip :=
  let (c, bs, _) := c.fetch (c.scaleAddr x) 128
  let word := fun (k : Nat) => ofLeBytes ((bs.drop (8 * k)).take 8)
  let w1 := word 1
  let steps := histSteps (c.histOwn x) word
  let head := if bits w1 56 52 = 0 then 0 else (bits w1 51 48 + 1) % 16
  let k := 2 + head / 2
  let lo := head % 2 * 32
  let c := c.histWord x k (setBits (word k) (lo + 31) lo amax.toNat)
  let c := c.histWord x 1 (t % 2 ^ 48 + head * 2 ^ 48 + min (bits w1 56 52 + 1) 16 * 2 ^ 52)
  { c with histStep := NMap.set (fun _ => []) c.histStep x ((t :: steps).take 16) }

/-- A tensor's part of the combined record of step t taken in: its scale of the step noted, GAMAX set, and its history entry
written (R73, R76). -/
def Chip.takeAmax (t : Nat) (c : Chip) (e : AmaxEntry) : Chip :=
  if e.tensor ≥ c.tensors ∨ e.counted = false then c
  else
    let v := c.counts t e.tensor
    let v := { v with combined := true, gamax := e.amax, scale := if v.takesPart then v.scale else c.scaleOf e.tensor t,
                      refFwd := if v.takesPart then v.refFwd else c.refFwd c.step.censusTask }
    (c.setCounts t e.tensor v).pushHistory e.tensor t e.amax

/-- No MVM of the census step is still to count into it (R94). -/
def Chip.stepDrained (c : Chip) (t : Nat) : Bool := !c.gals.any fun p => p.2.mvms.any fun m => decide (m.step = t)

/-- The combine of a census step completes (R73): every tensor that takes part gets its history entry. -/
def amaxCombine (t : Nat) (es : List AmaxEntry) (c : Chip) : Chip :=
  if c.step.waitSteps.contains t && c.stepDrained t then
    let c := (mergeAmax es (c.ownAmax t)).foldl (Chip.takeAmax t) c
    { c with step := { c.step with waitSteps := c.step.waitSteps.erase t
                                   childAmax := c.step.childAmax.filter fun p => decide (p.1 / 32 ≠ t) } }
  else c

/-- AMAX_COMBINE. -/
def execAmaxCombine (step : Nat) (es : List AmaxEntry) (s : State) : Host.Outcome State Fault Refusal :=
  onChip (amaxCombine step es) s

/-- Word k of the census record of tensor x at step t (R76). -/
def Chip.censusWord (c : Chip) (t x : Nat) : Nat → Nat
  | 0 =>
    let v := c.counts t x
    t % 2 ^ 48 + 1 * 2 ^ 48 + b2n v.skipped * 2 ^ 56 + b2n v.poison * 2 ^ 57 + b2n v.refFwd * 2 ^ 58 + b2n v.expMix * 2 ^ 59
  | 1 => x + bits (c.recWord t x 0) 23 16 * 2 ^ 24 + twos 8 (c.counts t x).scale * 2 ^ 32 + bits (c.recWord t x 0) 11 8 * 2 ^ 40
  | 2 => (c.counts t x).elems
  | 3 => (c.counts t x).zeros
  | 4 => (c.counts t x).sat
  | 5 => (c.counts t x).nonfinite
  | 6 => (c.counts t x).amax.toNat + (c.counts t x).gamax.toNat * 2 ^ 32
  | _ => 0

/-- Address of a census record (R77). -/
def Chip.censusAddr (c : Chip) (t x : Nat) : Nat :=
  c.fld Reg.censusBase 43 6 * 64 + (t % (c.fld Reg.censusShape 27 24 + 1) * c.tensors + x) * 64

/-- A tensor's census record is written once its step's contributions are complete: words 1 to 7, then word 0 (R77). Its
counts are then done with. -/
def censusRecordWrite (t x : Nat) (c : Chip) : Chip :=
  if (c.counts t x).combined ∧ c.step.waitSteps.contains t = false ∧ x < c.tensors then
    let a := c.censusAddr t x
    let d := [1, 2, 3, 4, 5, 6, 7, 0].foldl (fun d k => d.regWord (a + 8 * k) (c.censusWord t x k)) c
    d.setCounts t x TCount.zero
  else c

/-- CENSUS_RECORD_WRITE. -/
def execCensusRecordWrite (step x : Nat) (s : State) : Host.Outcome State Fault Refusal :=
  onChip (censusRecordWrite step x) s

/-- The settings written to a gallery's gain and readout registers come into force (R108). DEDUCED (log 18). -/
def Chip.latchGain (c : Chip) (n g : Nat) : Chip :=
  let gw := c.rd (Reg.gain n g)
  let rw := c.rd (Reg.readout n g)
  let x := c.gal n g
  c.setGal n g { x with gainSet := gw, readSet := rw, gainOld := x.gainSet, readOld := x.readSet }

/-- The FROZEN changes that wait take effect on every unit at once: on the entries, and on the controllers' bits of the annex
tiles' blocks (R268, R297). -/
def Chip.applyFrozen (c : Chip) : Chip :=
  let c := c.step.frozenDue.foldl (fun d p => d.modCat p.1 fun e => if e.state = 0 then e else { e with frozen := p.2 }) c
  let c := { c with step := { c.step with frozenDue := [] } }
  (List.range 16).foldl (fun d n =>
    let f : NMap Bool := d.cat.foldl (fun m p =>
      if p.2.lkind = 4 ∧ p.2.frozen = true ∧ p.2.state ≠ 0 ∧ d.inAnnex n p.2.loc = true then
        NMap.set (fun _ => false) m (p.2.loc / 0x10000) true
      else m) []
    if (d.wing n).frozen = f then d else d.modWing n fun w => { w with frozen := f }) c

/-- A census step ends and the next begins (R71): gains and readouts come into force (R108), FROZEN changes take effect (R268),
and the step's history waits for its combine (R73). -/
def Chip.advanceCensus (c : Chip) : Chip :=
  let t := c.censusStep
  let c := c.setFld Reg.censusStep 47 0 ((t + 1) % 2 ^ 48)
  let c := { c with step := { c.step with waitSteps := c.step.waitSteps ++ [t], stepEdge := c.tick.edges } }.openScales
  ((List.range 16).foldl (fun d n => (d.touchedGals n).foldl (fun d g => d.latchGain n g) d) c).applyFrozen

/-- Step poison (R313): latched in chip.step.vote, with its flag. -/
def Chip.poisonStep (c : Chip) : Chip :=
  if c.flag Reg.stepVote 2 then c else (c.setFlag Reg.stepVote 2 true).raise Reg.stepStatus 2 (Reg.stepCtr 2)

end Sys2Proof.Machine
end

