-- ==== Sys2Proof/Machine/Memory.lean ====
section
/-! DEFINITION. The memory controllers: request slots (R21, R236, R291, R293), reads and writes of a line with the outer code
(R288 to R290), the scrubber (R292), and the annex (R295 to R299). -/

namespace Sys2Proof.Machine

/-- A line number of a stack that is populated (R285). -/
def lineOk (l : Nat) : Bool := decide (l * 64 < stackBytes)

/-! ### Request slots -/

/-- A request that holds its line's lock from its read to its write (R291). DEDUCED (log 81). -/
def reqLocks : ReqKind → Bool
  | .merge | .accumulate | .drain | .scrub => true
  | .read | .write => false

/-- A line is locked by a request that holds a slot (R291). -/
def WingSt.lineLocked (w : WingSt) (l : Nat) : Bool := w.memSlots.any fun r => decide (r.line = l) && reqLocks r.kind

/-- A request in the arbiter's list whose line is locked, or has requests that wait on it, joins those (R291). -/
def WingSt.sortLines (w : WingSt) : WingSt :=
  let waits := fun (r : MemReq) => w.lineLocked r.line || w.lineWait.any fun q => decide (q.line = r.line)
  { w with lineWait := w.lineWait ++ w.memWait.filter waits, memWait := w.memWait.filter fun r => !waits r }

/-- The first request that waits on each line, once the line is unlocked: those on one line are served in arrival order (R291). -/
def firstWaits (w : WingSt) : List MemReq → List Nat → List MemReq
  | [], _ => []
  | r :: rs, seen =>
    if seen.contains r.line then firstWaits w rs seen
    else if w.lineLocked r.line then firstWaits w rs (r.line :: seen)
    else r :: firstWaits w rs (r.line :: seen)

/-- Of two requests that wait, the first goes before the second: by class, and in class 2 by the tick it is due (R21). -/
def reqBefore (x y : MemReq) : Bool :=
  decide (x.cls < y.cls) || (decide (x.cls = y.cls ∧ x.cls = 1 ∧ x.due < y.due))

/-- The request that takes the next slot: among those whose bank holds fewer than 16, the first in the order of R21, and of
equals the earliest (R236). -/
def WingSt.nextReq (w : WingSt) : Option MemReq :=
  ((firstWaits w w.lineWait [] ++ w.memWait).filter fun r => decide (w.bankSlots (bankOf r.line) < 16)).foldl
    (fun best r => match best with
      | none => some r
      | some b => if reqBefore r b then some r else some b) none

/-- Free slots filled, one after another (R21, R236). -/
def WingSt.grant : Nat → WingSt → WingSt
  | 0, w => w
  | fuel + 1, w =>
    if w.memSlots.length < 64 then
      match w.nextReq with
      | none => w
      | some r => WingSt.grant fuel
          (if w.lineWait.contains r then { w with memSlots := w.memSlots ++ [r], lineWait := w.lineWait.erase r }
           else { w with memSlots := w.memSlots ++ [r], memWait := w.memWait.erase r }.sortLines)
    else w

/-- A request that the arbiter drops: an accumulate-store to a frozen annex block (R297). -/
def WingSt.drops (w : WingSt) (n : Nat) (r : MemReq) : Bool :=
  decide (r.kind = .accumulate) && NMap.get (fun _ => false) w.frozen ((stackBase n + r.line * 64) / 0x10000)

/-- Requests arrive at a wing's arbiter, those for frozen blocks are dropped with ADROP, and free slots are filled (R21, R297). -/
def memSlotGrant (n : Nat) (arrivals : List MemReq) (c : Chip) : Chip :=
  if c.up then
    let w := c.wing n
    let k := ((w.memWait ++ w.lineWait ++ arrivals).filter fun r => w.drops n r).length
    let c := if k = 0 then c else (c.setFlag (Reg.memStatus n) 4 true).countBy (Reg.memCtr n 4) k
    c.modWing n fun w =>
      WingSt.grant 64 { w with
        memWait := (w.memWait ++ arrivals).filter fun r => !w.drops n r, lineWait := w.lineWait.filter fun r => !w.drops n r }.sortLines
  else c

/-- MEM_SLOT_GRANT. -/
def execMemSlotGrant (n : Wing) (arrivals : List MemReq) (s : State) : Host.Outcome State Fault Refusal :=
  onChip (memSlotGrant n.val arrivals) s

/-- The slot of a request that is done is free (R293). -/
def Chip.freeSlot (c : Chip) (n l : Nat) (ks : List ReqKind) : Chip :=
  c.modWing n fun w => match w.memSlots.find? fun r => decide (r.line = l) && ks.contains r.kind with
    | some r => { w with memSlots := w.memSlots.erase r }
    | none => w

/-! ### Lines -/

/-- Errors laid over a stored record (R287). -/
def Chip.layUpsets (c : Chip) (n l : Nat) (us : List Upset) : Chip :=
  us.foldl (fun d u => if u.symbol < 34 then d.setSymErr n l u.symbol (d.symErr n l u.symbol ^^^ u.diff.toNat) else d) c

/-- The controller reads the record of line l as line l' and delivers it, corrected or poisoned (R288, R289). -/
def memRead (n l l' : Nat) (us : List Upset) (c : Chip) : Chip :=
  if c.up && lineOk l && lineOk l' then
    let (d, data, bad) := (c.layUpsets n l us).readRecord n l l' false
    ({ d with lineOut := data, linePoison := bad }).freeSlot n l [.read]
  else c

/-- MEM_READ. -/
def execMemRead (n : Wing) (line asLine : Nat) (us : List Upset) (s : State) : Host.Outcome State Fault Refusal :=
  onChip (memRead n.val line asLine us) s

/-- The controller writes bytes of a line: the whole record, or a read, merge and write that an uncorrectable read discards
(R290). No write reaches an annex line (R295). -/
def memWrite (n l off : Nat) (data : List Byte) (c : Chip) : Chip :=
  if c.up && lineOk l && decide (0 < data.length ∧ off + data.length ≤ 64) && !c.inAnnex n (stackBase n + l * 64) then
    let c := c.touchWatch (stackBase n + l * 64 + off)
    let c :=
      if data.length = 64 then c.writeRecord n l data
      else
        let (d, old, bad) := c.readRecord n l l false
        if bad then d else d.writeRecord n l (old.take off ++ data ++ old.drop (off + data.length))
    c.freeSlot n l [.write, .merge]
  else c

/-- MEM_WRITE. -/
def execMemWrite (n : Wing) (line off : Nat) (data : List Byte) (s : State) : Host.Outcome State Fault Refusal :=
  onChip (memWrite n.val line off data) s

/-- The scrubber reads a line (R292). An uncorrectable one that lies in no tile sets SCRUB_UE and is rewritten as zeros.
DEDUCED (log 82). -/
def scrubRead (n l : Nat) (us : List Upset) (c : Chip) : Chip :=
  if c.up && lineOk l && decide (c.fld (Reg.memCfg n) 7 0 ≠ 0) then
    let c := c.layUpsets n l us
    let a := stackBase n + l * 64
    let s := c.syndromes n l l
    let c := match lineResult s.1 s.2, c.tileAt (c.nameOf a) with
      | .uncorrectable, none =>
        ((c.wr (Reg.memErr n) (w64 (l * 2 ^ 6 + 1 * 2 ^ 48 + 2 ^ 50))).raise (Reg.memStatus n) 5 (Reg.memCtr n 5)).writeRecord n l
          (List.replicate 64 0)
      | .addrErr, none =>
        ((c.wr (Reg.memErr n) (w64 (l * 2 ^ 6 + 2 * 2 ^ 48 + 2 ^ 50))).raise (Reg.memStatus n) 5 (Reg.memCtr n 5)).writeRecord n l
          (List.replicate 64 0)
      | _, _ => (c.readRecord n l l true).1
    c.freeSlot n l [.scrub]
  else c

/-- SCRUB_READ. -/
def execScrubRead (n : Wing) (line : Nat) (us : List Upset) (s : State) : Host.Outcome State Fault Refusal :=
  onChip (scrubRead n.val line us) s

/-! ### The annex -/

/-- An annex accumulator with an addend, and whether it becomes sticky (R296). -/
def annexAdd (old add : Int) : Int × Bool :=
  if old = 2 ^ 31 - 1 ∨ old = -(2 ^ 31) then (old, false)
  else if 2 ^ 31 - 1 ≤ old + add then (2 ^ 31 - 1, true)
  else if old + add ≤ -(2 ^ 31) then (-(2 ^ 31), true)
  else (old + add, false)

/-- Lane i of a line as an int32. -/
def lineInt (bs : List Byte) (i : Nat) : Int := sext 32 (ofLeBytes ((bs.drop (4 * i)).take 4))

/-- One line of an accumulate-store past the arbiter (R296): each addend is added under the line lock, and each accumulator that becomes
sticky sets ASAT and counts in the tensor's SAT. An uncorrectable read discards it. DEDUCED (log 83). -/
def Chip.addLine (c : Chip) (n l : Nat) (adds : List (Option Lane)) (tensor : Nat) (task : Option Nat) : Chip :=
  let (c, old, bad) := c.readRecord n l l false
  if bad then c
  else
    let r := (List.range 16).map fun i => match nth none adds i with
      | some x => annexAdd (lineInt old i) (sext 32 x.toNat)
      | none => (lineInt old i, false)
    let c := c.writeRecord n l (r.flatMap fun p => leBytes 4 (twos 32 p.1))
    let k := (r.filter fun p => p.2).length
    if k = 0 then c
    else ((c.setFlag (Reg.memStatus n) 3 true).countBy (Reg.memCtr n 3) k).countT c.censusStep tensor task fun v => v.add 0 0 k 0 0

/-- One line of an accumulate-store: dropped at the arbiter for a frozen block, with ADROP (R297); else added. -/
def Chip.accumulate (c : Chip) (n l : Nat) (adds : List (Option Lane)) (tensor : Nat) (task : Option Nat) : Chip :=
  if (c.wing n).drops n { cls := 1, due := 0, line := l, kind := .accumulate } then c.raise (Reg.memStatus n) 4 (Reg.memCtr n 4)
  else c.addLine n l adds tensor task

/-- ACCUMULATE_STORE: an annex line's addends reach the controller. One that holds a request slot has passed the arbiter (R297). -/
def accumulateStore (n l : Nat) (adds : List (Option Lane)) (tensor : Nat) (c : Chip) : Chip :=
  if c.up && lineOk l && c.inAnnex n (stackBase n + l * 64) then
    if (c.wing n).memSlots.any fun r => decide (r.line = l ∧ r.kind = .accumulate) then
      (c.addLine n l adds tensor none).freeSlot n l [.accumulate]
    else c.accumulate n l adds tensor none
  else c

/-- ACCUMULATE_STORE. -/
def execAccumulateStore (n : Wing) (line : Nat) (addends : List (Option Lane)) (tensor : Nat) (s : State) :
    Host.Outcome State Fault Refusal :=
  onChip (accumulateStore n.val line addends tensor) s

/-- One line of a draining read: delivered and, unless it is uncorrectable, zeroed (R298). -/
def Chip.drain (c : Chip) (n l : Nat) : Chip × List Byte × Bool :=
  let (d, data, bad) := c.readRecord n l l false
  (if bad then d else d.writeRecord n l (List.replicate 64 0), data, bad)

/-- A clear of a wing's slice starts (R299). -/
def Chip.startClear (c : Chip) (n : Nat) : Chip := c.setFlag (Reg.memAnnexCtrl n) 1 true

/-- A clear of every slice starts (R299). -/
def Chip.startClears (c : Chip) : Chip :=
  (List.range 16).foldl (fun d n => if d.fld (Reg.memAnnexSize n) 18 0 = 0 then d else d.startClear n) c

/-- Some slice is being cleared (R299). -/
def Chip.clearing (c : Chip) : Bool := (List.range 16).any fun n => c.flag (Reg.memAnnexCtrl n) 1

/-- A clear of a wing's slice ends: every line of it is zero, with fresh check symbols (R299). -/
def annexClearDone (n : Nat) (c : Chip) : Chip :=
  if c.flag (Reg.memAnnexCtrl n) 1 then
    ({ c with
      mem := c.mem.filter fun p => !c.inAnnex n p.1
      recErr := c.recErr.filter fun p =>
        !(decide (p.1 / 64 / 2 ^ 30 = n) && c.inAnnex n (stackBase n + p.1 / 64 % 2 ^ 30 * 64)) }).setFlag (Reg.memAnnexCtrl n) 1 false
  else c

/-- ANNEX_CLEAR_DONE. -/
def execAnnexClearDone (n : Wing) (s : State) : Host.Outcome State Fault Refusal := onChip (annexClearDone n.val) s

end Sys2Proof.Machine
end

