-- ==== Sys2Proof/Machine/Training.lean ====
section
/-! DEFINITION. The training step: the gradient table and its rounds (R314), contribution headers (R315, R317), the vote and its
outcome (R319 to R324), and the combine operations of the cascade that it shares with the census (R356). -/

namespace Sys2Proof.Machine

/-- The step counter (R331). -/
def Chip.stepCount (c : Chip) : Nat := c.fld Reg.stepCounter 47 0

/-! ### The gradient table -/

/-- An entry of the gradient table (R314): first annex block address, blocks, round, tensor and first element. -/
structure GradEntry where
  start  : Nat
  blocks : Nat
  round  : Nat
  tensor : Nat
  elem0  : Nat
  deriving DecidableEq, Repr

/-- Entry i of the table, as a read delivers it (R288); none where its version is not 1. DEDUCED (log 128). -/
def Chip.gradEntry (c : Chip) (i : Nat) : Option GradEntry :=
  let a := c.fld Reg.stepGtab 43 4 * 16 + 16 * i
  let w0 := (c.readWord a).toNat
  let w1 := (c.readWord (a + 8)).toNat
  if bits w0 63 56 = 1 then
    some { start := bits w0 27 0 * 0x10000, blocks := bits w0 49 32 + 1, round := bits w0 55 52, tensor := bits w1 23 0,
           elem0 := bits w1 63 24 }
  else none

/-- The table's entries (R332). -/
def Chip.gradTable (c : Chip) : List GradEntry := (List.range (c.fld Reg.stepGtabLen 23 0)).filterMap c.gradEntry

/-- The entry of the round in force that holds a whole source range (R315). -/
def Chip.gradFor (c : Chip) (a len : Nat) : Option GradEntry :=
  c.gradTable.find? fun e => decide (e.round = c.step.round ∧ e.start ≤ a ∧ a + len ≤ e.start + e.blocks * 0x10000)

/-- Every line of an entry's blocks has been read in the round. -/
def Chip.gradRead (c : Chip) (e : GradEntry) : Bool :=
  (List.range (e.blocks * 1024)).all fun k => NMap.get (fun _ => false) c.step.readBlks (e.start / 64 + k)

/-- The round advances once every block of its entries has been read; a round with no entries is passed over while a later one
has some (R314). DEDUCED (log 128). -/
def Chip.advanceRound : Nat → List GradEntry → Chip → Chip
  | 0, _, c => c
  | fuel + 1, es, c =>
    let mine := es.filter fun e => decide (e.round = c.step.round)
    if mine.all c.gradRead && (!mine.isEmpty || es.any fun e => decide (c.step.round < e.round)) then
      Chip.advanceRound fuel es { c with step := { c.step with round := c.step.round + 1, readBlks := [] } }
    else c

/-- Lines of the annex that a contribution transfer has read are noted, and the round advances when it is complete (R314). -/
def Chip.noteRead (c : Chip) (a len : Nat) : Chip :=
  let c := { c with step := { c.step with
    readBlks := (List.range (len / 64)).foldl (fun m k => NMap.set (fun _ => false) m (a / 64 + k) true) c.step.readBlks } }
  Chip.advanceRound 16 c.gradTable c

/-- DRAINING_READ: a line of the annex delivered and zeroed under its lock (R298), and noted in its round (R314). -/
def drainingRead (n l : Nat) (c : Chip) : Chip :=
  if c.up && lineOk l && c.inAnnex n (stackBase n + l * 64) then
    let (d, data, bad) := c.drain n l
    (({ d with lineOut := data, linePoison := bad }).freeSlot n l [.drain]).noteRead (stackBase n + l * 64) 64
  else c

/-- DRAINING_READ. -/
def execDrainingRead (n : Wing) (line : Nat) (s : State) : Host.Outcome State Fault Refusal :=
  onChip (drainingRead n.val line) s

/-- The contribution header for a source range (R315). -/
def Chip.contribHeader (c : Chip) (e : GradEntry) (a len : Nat) : List Word :=
  [w64 (c.stepCount + 1 * 2 ^ 48 + b2n (c.flag Reg.stepVote 2) * 2 ^ 56),
   w64 (e.tensor + c.fld Reg.linkIdent 27 16 * 2 ^ 24 + c.step.round * 2 ^ 40),
   w64 ((e.elem0 + (a - e.start) / 4) % 2 ^ 40), w64 (len / 4), 0, 0, 0, 0]

/-- A contribution transfer's last packet has been written: SENT rises (R315). -/
def Chip.countSent (c : Chip) : Chip := c.setFld Reg.stepCount 63 32 ((c.fld Reg.stepCount 63 32 + 1) % 2 ^ 32)

/-! ### Headers received -/

/-- The refuse latch (R317). -/
def Chip.refuseStep (c : Chip) : Chip := c.setFlag Reg.stepVote 3 true

/-- The checks of a contribution header that has been written (R317). -/
def Chip.checkHeader (c : Chip) (hdr : List Word) : Chip :=
  let w0 := cmdHdr hdr 0
  let w1 := cmdHdr hdr 1
  let c := if bits w0 55 48 = 1 then c else (c.raise Reg.stepStatus 1 (Reg.stepCtr 1)).refuseStep
  let c := if bits w0 47 0 = c.stepCount then c else (c.raise Reg.stepStatus 0 (Reg.stepCtr 0)).refuseStep
  let c := if bit w0 56 then
      c.poisonStep.countT c.censusStep (bits w1 23 0) c.step.censusTask fun v => { v with poison := true }
    else c
  c.setFld Reg.stepCount 31 0 ((c.fld Reg.stepCount 31 0 + 1) % 2 ^ 32)
where
  /-- Word k of a header as a number. -/
  cmdHdr (hdr : List Word) (k : Nat) : Nat := (nth 0 hdr k).toNat

/-- CONTRIBUTION_HEADER: a header of 64 bytes is written in a wing store of the owner and checked (R317, R359). -/
def contributionHeader (addr : Nat) (hdr : List Word) (c : Chip) : Chip :=
  match c.up, c.region addr with
  | true, .wingStore _ =>
    if addr % 64 = 0 ∧ hdr.length = 8 then
      (c.store addr (hdr.flatMap fun w => leBytes 8 w.toNat) [] c.step.censusTask).checkHeader hdr
    else c
  | _, _ => c

/-- CONTRIBUTION_HEADER. -/
def execContributionHeader (addr : Nat) (hdr : List Word) (s : State) : Host.Outcome State Fault Refusal :=
  onChip (contributionHeader addr hdr) s

/-! ### Combines -/

/-- The ports that lead to children of the combine tree (R356, R360). -/
def Chip.children (c : Chip) : List Nat := (List.range 32).filter fun p => c.flag Reg.linkTree (32 + p)

/-- The part is the root of the combine tree: ROOT, or a task of one part. DEDUCED (log 85). -/
def Chip.isRoot (c : Chip) : Bool :=
  c.flag Reg.linkTree 5 || (match c.step.censusTask with
    | some t => (match (c.task t).img with | some im => decide (im.parts = 1) | none => false)
    | none => false)

/-- Two vote entries combined (R319). -/
def mergeVote (a b : VoteRec) : VoteRec :=
  { least := min a.least b.least, greatest := max a.greatest b.greatest, poison := a.poison || b.poison, refuse := a.refuse || b.refuse }

/-- This part's vote entry (R319). -/
def Chip.ownVote (c : Chip) : VoteRec :=
  { least := c.stepCount, greatest := c.stepCount, poison := c.flag Reg.stepVote 2, refuse := c.flag Reg.stepVote 3 }

/-- A final record goes to every child (R356). -/
def Chip.sendDown (c : Chip) (r : CombineRec) : Chip :=
  if c.children.isEmpty then c else { c with step := { c.step with outDown := c.step.outDown ++ [r] } }

/-- A record goes to the parent (R356). -/
def Chip.sendUp (c : Chip) (r : CombineRec) : Chip := { c with step := { c.step with outUp := c.step.outUp ++ [r] } }

/-- The vote combined once this part's entry and every child's record are there: at the root it is final, else it goes up. -/
def Chip.tryVote (c : Chip) : Chip :=
  if c.step.voted && c.children.all fun p => (NMap.find c.step.childVote p).isSome then
    let v := c.step.childVote.foldl (fun v p => mergeVote v p.2) c.ownVote
    let c := { c with step := { c.step with childVote := [] } }
    if c.isRoot then
      let d := c.sendDown (.vote v)
      { d with step := { d.step with combined := some v } }
    else c.sendUp (.vote v)
  else c

/-- The AMAX records of step t combined once every child's record is there and this part's own counts are complete (R73, R356). -/
def Chip.tryAmax (c : Chip) (t : Nat) : Chip :=
  if c.step.waitSteps.contains t && c.stepDrained t && c.children.all fun p => (NMap.find c.step.childAmax (32 * t + p)).isSome then
    let es := (c.step.childAmax.filter fun p => decide (p.1 / 32 = t)).foldl (fun acc p => mergeAmax acc p.2) (c.ownAmax t)
    if c.isRoot then (amaxCombine t es c).sendDown (.amax t es)
    else
      let c := c.sendUp (.amax t es)
      { c with step := { c.step with childAmax := c.step.childAmax.filter fun p => decide (p.1 / 32 ≠ t) } }
  else c

/-- A combine record arrives (R356): from a child it waits for the others, from the parent it is final and goes on down. -/
def combineRecord (src : CombineFrom) (r : CombineRec) (c : Chip) : Chip :=
  if !c.up then c
  else match src, r with
    | .child p, .vote v =>
      if c.children.contains p then { c with step := { c.step with childVote := NMap.put c.step.childVote p v } }.tryVote else c
    | .child p, .amax t es =>
      if c.children.contains p then
        { c with step := { c.step with childAmax := NMap.put c.step.childAmax (32 * t + p) es } }.tryAmax t
      else c
    | .parent, .vote v =>
      if c.isRoot then c
      else
        let d := c.sendDown (.vote v)
        { d with step := { d.step with combined := some v } }
    | .parent, .amax t es => if c.isRoot then c else (amaxCombine t es c).sendDown (.amax t es)

/-- COMBINE_RECORD. -/
def execCombineRecord (src : CombineFrom) (r : CombineRec) (s : State) : Host.Outcome State Fault Refusal :=
  onChip (combineRecord src r) s

/-! ### The vote -/

/-- The training task: the census task where it runs training steps (R71). -/
def Chip.trainTask (c : Chip) : Option Nat :=
  match c.step.censusTask with
  | some t => match (c.task t).img with | some im => if im.training then some t else none | none => none
  | none => none

/-- The outcome words: the word address of every wing whose EN is 1 (R335). -/
def Chip.outWords (c : Chip) : List Nat :=
  ((List.range 16).filter fun n => c.flag (Reg.stepOut n) 0).map fun n => c.fld (Reg.stepOut n) 43 3 * 8

/-- VOTE_SUBMIT: the part's entry is submitted once RECEIVED and SENT are as expected, and every outcome word is emptied (R319). A part
with no training task submits none. DEDUCED (log 128). -/
def voteSubmit (c : Chip) : Chip :=
  if c.trainTask.isSome && !c.step.voted && !c.halted &&
      decide (c.fld Reg.stepCount 31 0 = c.fld Reg.stepExpect 31 0 ∧ c.fld Reg.stepCount 63 32 = c.fld Reg.stepExpect 63 32) then
    let c := { c with step := { c.step with voted := true } }
    let c := c.outWords.foldl (fun d a => (d.setFull (d.home a) false).serveAll [d.home a]) c
    c.tryVote
  else c

/-- VOTE_SUBMIT. -/
def execVoteSubmit (s : State) : Host.Outcome State Fault Refusal := onChip voteSubmit s

/-- The outcome of a combined record: 1 commit, 2 skip, 3 refuse (R320). -/
def outcomeOf (v : VoteRec) : Nat :=
  if v.refuse ∨ v.least ≠ v.greatest then 3 else if v.poison then 2 else 1

/-- The census records of a step that is skipped or refused, written with SKIPPED (R73, R76, R322): for every tensor known to
take part. Its counts are then done with. DEDUCED (log 86). -/
def Chip.writeSkipped (c : Chip) : Chip :=
  let t := c.censusStep
  let es := (c.step.childAmax.filter fun p => decide (p.1 / 32 = t)).foldl (fun acc p => mergeAmax acc p.2) (c.ownAmax t)
  es.foldl (fun d e =>
    if e.tensor < d.tensors then
      let v := d.counts t e.tensor
      let d := d.setCounts t e.tensor { v with combined := true, skipped := true, gamax := 0,
                                                scale := if v.takesPart then v.scale else d.scaleOf e.tensor t }
      censusRecordWrite t e.tensor d
    else d) c

/-- OUTCOME_DECIDE: the outcome of the combined record at the edge after it arrives (R320 to R323). -/
def outcomeDecide (c : Chip) : Chip :=
  match c.step.combined with
  | none => c
  | some v =>
    let o := outcomeOf v
    let w := w64 (o + c.stepCount * 2 ^ 16)
    let skips := c.fld Reg.stepVote 15 8
    let c := c.wr Reg.stepVote (w64 (o + skips * 2 ^ 8 + c.stepCount * 2 ^ 16))
    let c := c.wr Reg.stepCount 0
    let c := { c with step := { c.step with combined := none, voted := false, round := 0, readBlks := [] } }
    let c := c.outWords.foldl (fun d a => (d.setWord (d.home a) w).fillTag (d.home a)) c
    if o = 1 then
      let c := match c.trainTask with
        | some t => c.modTask t fun s =>
            { s with commitTick := some (c.elapsed t), commitOver := c.fld (Reg.taskPerf t) 63 48 }
        | none => c
      ((c.setFld Reg.stepVote 15 8 0).setFld Reg.stepCounter 47 0 ((c.stepCount + 1) % 2 ^ 48)).advanceCensus
    else if o = 2 then
      let c := c.writeSkipped
      (c.setFld Reg.stepVote 15 8 (min (skips + 1) 255)).raise Reg.stepStatus 3 (Reg.stepCtr 3)
    else
      let c := c.writeSkipped.raise Reg.stepStatus 4 (Reg.stepCtr 4)
      c.faultTier3 { tier := 3, level := 3, wing := 0, source := 0x0F, gallery := 0, unit := 0,
                     task := c.step.censusTask.getD 0, verdict := 0, detail := c.stepCount % 2 ^ 32 }

/-- OUTCOME_DECIDE. -/
def execOutcomeDecide (s : State) : Host.Outcome State Fault Refusal := onChip outcomeDecide s

/-- SKIP_LIMIT: SKIPS has reached the limit, and the task stops (R324). A limit of 0 behaves as 1 (R331). -/
def skipLimit (c : Chip) : Chip :=
  match c.trainTask with
  | none => c
  | some t =>
    if max (c.fld Reg.stepCtrl 7 0) 1 ≤ c.fld Reg.stepVote 15 8 ∧ (c.task t).stopReq = none ∧ c.stoppable t = true then
      (c.raise Reg.stepStatus 5 (Reg.stepCtr 5)).stopTask t 0x15
    else c

/-- SKIP_LIMIT. -/
def execSkipLimit (s : State) : Host.Outcome State Fault Refusal := onChip skipLimit s

end Sys2Proof.Machine
end

