-- ==== Sys2Proof/Machine/Operands.lean ====
section
/-! DEFINITION. Operand forms: the fields of gallery, matrix, vector and DMA command words, which words are valid, and the
elements that operands in memory hold (R56 to R61, R155, R158). -/

namespace Sys2Proof.Machine

/-! ### Gallery commands (R155) -/

/-- OP of a gallery command. -/
def gOp (w0 : Word) : Nat := wbits w0 3 0
/-- PLANE of an MVM or WRITE. -/
def gPlane (w0 : Word) : Plane := planeOf (wbits w0 4 4)
/-- CONSUME of an MVM. -/
def gConsume (w0 : Word) : Bool := w0.getLsbD 5
/-- BANDS of an MVM. -/
def gBands (w0 : Word) : Nat := wbits w0 15 8
/-- SLOT of an MVM. -/
def gSlot (w0 : Word) : Nat := wbits w0 24 16
/-- IN of an MVM. -/
def gIn (w0 : Word) : Nat := wbits w0 47 32
/-- OUT of an MVM. -/
def gOut (w0 : Word) : Nat := wbits w0 63 48
/-- W of a WRITE. -/
def gW (w0 : Word) : Nat := wbits w0 15 8
/-- SRC of a WRITE: bits [63:20] hold the local address. -/
def gSrc (w0 : Word) : Nat := wbits w0 63 20
/-- DUE of a gallery command. -/
def gDue (w1 : Word) : Nat := wbits w1 47 0

/-- The 131,072 bytes from SRC lie wholly in the populated local memory of one stack, outside its annex slice and the
Catalogue backing (R158). -/
def Chip.srcOk (c : Chip) (a : Nat) : Bool :=
  let e := a + 131071
  let ab := c.fld (Reg.memAnnex (a / 0x1000000000)) 43 16 * 0x10000
  let al := c.fld (Reg.memAnnexSize (a / 0x1000000000)) 18 0 * 0x10000
  decide (a % 4096 = 0 ∧ e < 0x10000000000 ∧ a / 0x1000000000 = e / 0x1000000000 ∧ e % 0x1000000000 < stackBytes) &&
    !decide (ab ≤ e ∧ a < ab + al) && !c.inBacking a && !c.inBacking e

/-- A gallery command is valid on entry (R158). SLOT is not checked for the register path (R165); the budget check of an MVM
is made when it leaves the queue. -/
def Chip.gValid (c : Chip) (regPath : Bool) (w0 w1 : Word) : Bool :=
  decide (wbits w1 55 48 = 1 ∧ wbits w1 63 56 = 0) &&
  (if gOp w0 = 1 then
    decide (wbits w0 7 6 = 0 ∧ wbits w0 31 25 = 0 ∧ gIn w0 % 16 = 0 ∧ gOut w0 % 16 = 0 ∧ gIn w0 ≤ 0xFE00 ∧ gOut w0 ≤ 0xFC00) &&
      (regPath || decide (gSlot w0 < c.slots))
  else if gOp w0 = 2 then decide (wbits w0 7 5 = 0 ∧ wbits w0 19 16 = 0) && c.srcOk (gSrc w0)
  else decide (gOp w0 = 3 ∧ wbits w0 63 4 = 0))

/-! ### Codes (R56 to R58) -/

/-- The value that an AI8 or AC8 byte drives or writes: 0x80 acts as −127 (R58). -/
def code8 (b : Byte) : Int := if b = 0x80 then -127 else sext 8 b.toNat

/-- Bytes of a list that hold the forbidden code (R58). -/
def badCodes (bs : List Byte) : Nat := (bs.filter fun b => b = 0x80).length

/-! ### Packed blocks (R59, R60) -/

/-- Address of block b of a tensor: BX8 (wide false) or BX16 (wide true). -/
def blockAddr (wide : Bool) (base b : Nat) : Nat :=
  if wide then base + 4096 * (b / 63) + 65 * (b % 63) else base + 1024 * (b / 31) + 33 * (b % 31)

/-- Bytes of a block. -/
def blockBytes (wide : Bool) : Nat := if wide then 65 else 33

/-- Elements from the bytes after a block's exponent. -/
def blockElems (wide : Bool) : List Byte → List Int
  | [] => []
  | [b] => if wide then [] else [sext 8 b.toNat]
  | b :: b' :: bs =>
    if wide then sext 16 (b.toNat + 256 * b'.toNat) :: blockElems wide bs else sext 8 b.toNat :: blockElems wide (b' :: bs)

/-- Exponent of a block. -/
def blockExp : List Byte → Int
  | [] => 0
  | b :: _ => sext 8 b.toNat

/-- Bytes of a block with an exponent and 32 codes. -/
def packBlock (wide : Bool) (e : Int) (qs : List Int) : List Byte :=
  BitVec.ofInt 8 e :: qs.flatMap fun q => leBytes (if wide then 2 else 1) (twos (if wide then 16 else 8) q)

/-- Addresses of the reserved last bytes of the frames that a run of blocks lies in. -/
def frameTails (wide : Bool) (base b n : Nat) : List Nat :=
  ((List.range n).map fun k => if wide then base + 4096 * ((b + k) / 63) + 4095 else base + 1024 * ((b + k) / 31) + 1023).eraseDups

/-! ### Matrix commands (R176) -/

/-- Word k of a command. -/
def cmdWord (ws : List Word) (k : Nat) : Word := nth 0 ws k

/-- OP. -/
def mOp (ws : List Word) : Nat := wbits (cmdWord ws 0) 3 0
/-- ACC_BASE of a PASS or FLUSH. -/
def mBase (ws : List Word) : Nat := wbits (cmdWord ws 0) 34 24
/-- Vectors or entries: NVEC + 1. -/
def mCount (ws : List Word) : Nat := wbits (cmdWord ws 0) 46 36 + 1
/-- STAT of a PASS. -/
def mStat (ws : List Word) : Nat := wbits (cmdWord ws 0) 5 4
/-- VFMT of a PASS: the stream is BX16. -/
def mVwide (ws : List Word) : Bool := (cmdWord ws 0).getLsbD 6
/-- ACC of a PASS. -/
def mAcc (ws : List Word) : Bool := (cmdWord ws 0).getLsbD 7
/-- PFMT of a PASS. -/
def mPfmt (ws : List Word) : Nat := wbits (cmdWord ws 0) 9 8
/-- CHUNK of a PASS. -/
def mChunk (ws : List Word) : Nat := wbits (cmdWord ws 0) 63 48
/-- The address in word 1: VSRC, TSRC of a LOAD, or OUT. -/
def mAddr (ws : List Word) : Nat := wbits (cmdWord ws 1) 43 0
/-- VSTRIDE of a PASS. -/
def mVstride (ws : List Word) : Nat := wbits (cmdWord ws 1) 63 44
/-- TSRC of a passing PASS. -/
def mTsrc (ws : List Word) : Nat := wbits (cmdWord ws 2) 43 0
/-- TBLK of a passing PASS. -/
def mTblk (ws : List Word) : Nat := wbits (cmdWord ws 2) 63 44
/-- SFMT of a LOAD. -/
def mSfmt (ws : List Word) : Nat := wbits (cmdWord ws 0) 11 4
/-- W of a LOAD. -/
def mW (ws : List Word) : Nat := wbits (cmdWord ws 0) 19 12
/-- HALF of a LOAD. -/
def mHalf (ws : List Word) : Nat := wbits (cmdWord ws 0) 20 20
/-- TBLK of a LOAD. -/
def mLblk (ws : List Word) : Nat := wbits (cmdWord ws 2) 31 0
/-- OUTFMT of a FLUSH. -/
def mOutfmt (ws : List Word) : Nat := wbits (cmdWord ws 0) 15 8
/-- TENSOR of a FLUSH. -/
def mTensor (ws : List Word) : Nat := wbits (cmdWord ws 2) 23 0
/-- OSTRIDE of a FLUSH. -/
def mOstride (ws : List Word) : Nat := wbits (cmdWord ws 2) 63 32

/-- DUE in the last word of a matrix, vector or DMA command. -/
def lastDue (w : Word) : Nat := wbits w 47 0
/-- Tick budget in the last word: BUDGET + 1. -/
def lastBudget (w : Word) : Nat := wbits w 59 56 + 1
/-- VER and the reserved bits of a command's last word. -/
def lastOk (w : Word) : Bool := decide (wbits w 55 48 = 1 ∧ wbits w 63 60 = 0)

/-- Size in bytes of one value that a FLUSH writes; 0 for the block formats (R174). -/
def flushSize (fmt : Nat) : Nat :=
  if fmt = 0 then 16 else if fmt = 5 ∨ fmt = 9 then 4 else if fmt = 6 then 2 else 0

/-- The alignment that R177 asks of a tensor: 1,024 bytes for BX8, 4,096 for BX16 and AC8, 64 otherwise. -/
def alignOf (fmt : Nat) : Nat := if fmt = 3 then 1024 else if fmt = 4 ∨ fmt = 2 then 4096 else 64

/-! ### Global addresses (R5, R353) -/

/-- The local address of a global address on this part: bits [63:56] zero and bits [55:44] the part's logical identity. -/
def Chip.ownLocal (c : Chip) (a : Nat) : Option Nat :=
  if a / 2 ^ 44 = c.fld Reg.linkIdent 27 16 then some (a % 2 ^ 44) else none

/-- Every 64-byte line of a range satisfies a test of its region. -/
def Chip.linesAre (c : Chip) (a n : Nat) (f : Region → Bool) : Bool := (linesOf a n).all fun p => f (c.region p.1)

/-! ### Vector commands and instructions (R197, R202) -/

/-- PROG. -/
def vProg (ws : List Word) : Nat := wbits (cmdWord ws 1) 43 0
/-- ARGS. -/
def vArgs (ws : List Word) : Nat := wbits (cmdWord ws 2) 43 0

/-- OP of a vector instruction. -/
def vOp (w : Word) : Nat := wbits w 7 0
/-- TYPE. -/
def vType (w : Word) : Nat := wbits w 10 8
/-- ZM. -/
def vZm (w : Word) : Bool := w.getLsbD 11
/-- MASK. -/
def vMask (w : Word) : Nat := wbits w 14 12
/-- VD. -/
def vVd (w : Word) : Nat := wbits w 20 16
/-- VA. -/
def vVa (w : Word) : Nat := wbits w 25 21
/-- VB. -/
def vVb (w : Word) : Nat := wbits w 30 26
/-- SR. -/
def vSr (w : Word) : Nat := wbits w 35 32
/-- CSLOT. -/
def vCslot (w : Word) : Nat := wbits w 39 36
/-- CE. -/
def vCe (w : Word) : Bool := w.getLsbD 40
/-- Bits [hi:lo] of IMM, whose bit 0 is instruction bit 41. -/
def vImm (w : Word) (hi lo : Nat) : Nat := wbits w (41 + hi) (41 + lo)

/-- The operations whose TYPE an instruction names: an operation with its types (R197). -/
def vTypes (op : Nat) : List Nat :=
  if op = 0x01 ∨ op = 0x02 ∨ (0x08 ≤ op ∧ op ≤ 0x0E) ∨ (0x18 ≤ op ∧ op ≤ 0x1B) ∨ op = 0x28 ∨ op = 0x30 ∨ op = 0x31 then [0, 1, 2, 3, 4]
  else if 0x10 ≤ op ∧ op ≤ 0x13 then [0, 1]
  else if (0x20 ≤ op ∧ op ≤ 0x24) then [2, 3, 4]
  else if op = 0x2C then [0, 1, 2]
  else []

/-- An instruction that may not name an odd VD: a wide one (R202), and one whose results are wide, an int32 RSUM and a CVT into int48
(R197, R198). DEDUCED (log 22). -/
def vPair (w : Word) : Bool :=
  decide (vType w = 4 ∨ (vOp w = 0x28 ∧ vImm w 3 0 = 0x0A) ∨ (vOp w = 0x2C ∧ vType w = 2))

/-- An instruction is valid (R202): no reserved field, OP, type or format code, an even VD for a pair, and the rules of a VLD
with WIDTH 3. DEDUCED: a type that the table does not give an operation is reserved to it. -/
def vOk (w : Word) : Bool :=
  let op := vOp w
  let t := vType w
  !w.getLsbD 15 && !w.getLsbD 31 && decide (t ≤ 4) &&
  (if op = 0x00 ∨ op = 0x38 ∨ op = 0x3C ∨ op = 0x3D ∨ op = 0x3E then true
   else (vTypes op).contains t && (!vPair w || decide (vVd w % 2 = 0)) &&
    (if op = 0x28 then decide (vImm w 3 0 ≤ 0x0A)
     else if op = 0x30 then decide (vImm w 1 0 = 3 → t = 4 ∧ vVd w % 4 = 0)
     else if op = 0x31 then decide (vImm w 3 3 = 0)
     else true))

/-! ### DMA commands (R212) -/

/-- FILL. -/
def dFill (ws : List Word) : Bool := (cmdWord ws 0).getLsbD 4
/-- WAITSRC. -/
def dWait (ws : List Word) : Bool := (cmdWord ws 0).getLsbD 5
/-- SIG. -/
def dSig (ws : List Word) : Nat := wbits (cmdWord ws 0) 31 16
/-- LEN. -/
def dLen (ws : List Word) : Nat := wbits (cmdWord ws 0) 63 32
/-- SRC. -/
def dSrc (ws : List Word) : Nat := wbits (cmdWord ws 1) 55 0
/-- DST. -/
def dDst (ws : List Word) : Nat := wbits (cmdWord ws 2) 55 0

end Sys2Proof.Machine
end

