-- ==== Sys2Proof/Machine/Wing.lean ====
section
/-! DEFINITION. A wing's power state (R45 to R47, R442): wake times, what a state loses, and the wake on demand. -/

namespace Sys2Proof.Machine

/-- Wake time of a state in tenths of a microsecond. -/
def wakeTime (st : Nat) : Nat := if st = 0 then 0 else if st = 1 then 2 else if st = 2 then 40 else 120

/-- Wake cost c(s) of a state at a period of p half-microseconds (R45). -/
def wakeCost (st p : Nat) : Nat := ceilDiv (wakeTime st) (5 * p)

/-- An array's register sets and accumulator bank lost, as nap does (R172). -/
def Arr.powerOff (r : Arr) : Arr := { r with fg := none, fgLoad := [], bg := .empty, bgLoad := [], bank := [] }

/-- A vector engine's registers, masks, flags and scalars lost, as nap does (R203). -/
def VecSt.powerOff (v : VecSt) : VecSt := { VecSt.reset with queue := v.queue, run := v.run, guardFailed := v.guardFailed }

/-- A plane unwritten: its codes, CMAX, ages and droop gone (R86, R147). What the plane holds and the cells that failed in it
are kept by others. -/
def PlaneSt.discard (y : PlaneSt) : PlaneSt := { PlaneSt.reset with failed := y.failed }

/-- The holder of a plane's source released, if the plane has one (R254). -/
def Chip.dropPlaneWatch (c : Chip) (y : PlaneSt) : Chip := if y.watched then c.unhold y.srcTile else c

/-- A gallery whose wing enters rest: planes discarded, swaps that wait dropped, rehangs and writes ended (R47, R147). -/
def Chip.restGal (c : Chip) (n g : Nat) : Chip :=
  let x := c.gal n g
  let c := (c.dropPlaneWatch x.planeA).dropPlaneWatch x.planeB
  let c := c.setGal n g { x with
    planeA := x.planeA.discard, planeB := x.planeB.discard, wjob := none, rjob := none, rhOpen := none, rhParts := [],
    rhLeft := [], rhFailed := [], slotStart := none, slotEnd := none, conflict := false, conflictTold := false, swapDone := x.swapAsked }
  let c := if c.flag (Reg.galMode n g) 3 then c.setFlag (Reg.galMode n g) 3 false else c
  let c := if c.flag (Reg.galMode n g) 5 then c.setFlag (Reg.galMode n g) 5 false else c
  (c.wr (Reg.consGain n g 0) 0).wr (Reg.consGain n g 1) 0

/-- The plane tiles of a wing become vacant (R47). -/
def Chip.vacatePlanes (c : Chip) (n : Nat) : Chip :=
  c.cat.foldl (fun d p =>
    if p.2.lkind = 1 ∧ p.2.fenced = false ∧ p.2.state ≠ 0 ∧ p.2.loc / 2 ^ 16 % 16 = n then d.modCat p.1 CatEntry.vacate else d) c

/-- Galleries of a wing that hold any state. -/
def Chip.galsOf (c : Chip) (n : Nat) : List Nat :=
  c.gals.filterMap fun (p : Nat × Gal) => if p.1 / 512 = n then some (p.1 % 512) else none

/-- Wing n enters a state. Nap and rest lose the arrays' sets and banks and the vector engine's state; rest
discards the planes (R45, R47, R172, R203). -/
def Chip.enterState (c : Chip) (n st : Nat) : Chip :=
  let c := c.setFld (Reg.pwrState n) 1 0 st
  let c := c.modWing n fun w => { w with waking := none, wakeAt := none }
  let c := if 2 ≤ st then c.modWing n fun w => { w with mx0 := w.mx0.powerOff, mx1 := w.mx1.powerOff, vec := w.vec.powerOff } else c
  if st = 3 then ((c.galsOf n).foldl (fun d g => d.restGal n g) c).vacatePlanes n else c

/-- State of port a of wing n: 0 down, 1 training, 2 up, 3 low power, 4 fault (R363). -/
def Chip.portState (c : Chip) (n a : Nat) : Nat := c.fld (Reg.bxStatus n a) 2 0

/-- A port in low power begins to wake with its wing (R47, R355). -/
def Chip.wakePort (c : Chip) (n a : Nat) : Chip :=
  if c.portState n a = 3 then c.modPort n a fun x => { x with waking := true } else c

/-- A command reaches a wing that is not in run while no wake is under way: the wing wakes on demand (R46), its ports with it (R355).
DESIGN CHOICE (log 104): in a pause too, since R44 speaks of states that the table sets. -/
def Chip.wakeUp (c : Chip) (n : Nat) : Chip :=
  if c.wingState n ≠ 0 ∧ (c.wing n).waking = none then
    ((c.modWing n fun w => { w with waking := some (c.wingState n) }).wakePort n 0).wakePort n 1
  else c

/-- A wing in run, so that its galleries, arrays and vector engine may start work. -/
def Chip.inRun (c : Chip) (n : Nat) : Bool := decide (c.wingState n = 0)

/-- A wake ends: the wing runs and its held commands may issue (R46). -/
def wakeComplete (n : Nat) (c : Chip) : Chip :=
  if (c.wing n).waking.isSome then
    (c.setFld (Reg.pwrState n) 1 0 0).modWing n fun w => { w with waking := none, wakeAt := none }
  else c

/-- WAKE_COMPLETE. -/
def execWakeComplete (n : Wing) (s : State) : Host.Outcome State Fault Refusal := onChip (wakeComplete n.val) s

end Sys2Proof.Machine
end

