-- ==== Sys2Proof/Machine/Gallery.lean ====
section
/-! DEFINITION. Galleries: the command queue (R155 to R158), MVMs and their results (R97 to R101, R159, R160), the checksum
comparison and its capture (R163, R164, R372), and plane swaps (R103, R142). -/

namespace Sys2Proof.Machine

/-! ### Modes and planes -/

/-- A gallery runs in resident mode (R102). -/
def Chip.resident (c : Chip) (n g : Nat) : Bool := c.flag (Reg.galMode n g) 0

/-- The live plane of a gallery in streaming mode (R102, R109). -/
def Chip.livePlane (c : Chip) (n g : Nat) : Plane := planeOf (c.fld (Reg.galMode n g) 1 1)

/-- The plane that an MVM with a PLANE bit uses (R102). -/
def Chip.mvmPlane (c : Chip) (n g : Nat) (p : Plane) : Plane := if c.resident n g then p else c.livePlane n g

/-- SWAP_PEND (R109). -/
def Chip.swapPend (c : Chip) (n g : Nat) : Bool := c.flag (Reg.galMode n g) 3

/-- RH_SWAP (R109). -/
def Chip.rhSwap (c : Chip) (n g : Nat) : Bool := c.flag (Reg.galMode n g) 5

/-- The phase budget of a plane: 1, 2, 4 or 8 (R106). -/
def Chip.budget (c : Chip) (n g : Nat) : Plane → Nat
  | .A => 2 ^ c.fld (Reg.phaseBudget n g) 1 0
  | .B => 2 ^ c.fld (Reg.phaseBudget n g) 5 4

/-- The code of row r (0 to 511) and column x (0 to 255) of a plane. -/
def PlaneSt.code (y : PlaneSt) (r x : Nat) : Int := NMap.get (fun _ => 0) y.codes (256 * r + x)

/-- The sum of the 32 weight codes of row r in vitrine column j. -/
def PlaneSt.rowSum (y : PlaneSt) (r j : Nat) : Int := sumInt ((List.range 32).map fun k => y.code r (32 * j + k))

/-- The checksum code k[r] that the plane holds (R84). -/
def PlaneSt.sumCode (y : PlaneSt) (r j : Nat) : Int := NMap.get (fun _ => 0) y.sums (8 * r + j)

/-- The remainder e[r] that the checksum code rounded away, as the plane's write stored it (R163). -/
def PlaneSt.sumRest (y : PlaneSt) (r j : Nat) : Int := NMap.get (fun _ => 0) y.rests (8 * r + j)

/-- The code that gallery column x (0 to 263) holds in row r: a weight column, or a checksum column 256 + j (R159). -/
def PlaneSt.colCode (y : PlaneSt) (r x : Nat) : Int := if x < 256 then y.code r x else y.sumCode r (x - 256)

/-- Key of the position of row r and gallery column x. -/
def posKey (r x : Nat) : Nat := 264 * r + x

/-- The sign latch of a position: whether it is set (R82). -/
def PlaneSt.latch (y : PlaneSt) (r x : Nat) : Bool := NMap.get (fun _ => false) y.neg (posKey r x)

/-- Accept band of a cell in millivolts, by its number in its position; its marginal band is twice as wide (R83). -/
def acceptBand (k : Nat) : Nat := if k % 2 = 0 then 3 else 12

/-- The millivolts by which a cell of a plane is off its level: what its last verify measured where it did not end in its accept band
(R88), else a free value within that band (log 2). -/
def PlaneSt.cellDev (y : PlaneSt) (key : Nat) : Int :=
  match NMap.find y.devs key with
  | some d => d
  | none => clampInt (-(acceptBand key : Int)) (acceptBand key) (Config.cellError y.wrote key)

/-- The weight that a position holds, in 64ths of a magnitude unit: the latch's sign, the nominal magnitude and its two cells' deviations,
the major one weighing 16 (R83). -/
def PlaneSt.weight (y : PlaneSt) (r x : Nat) : Int :=
  let k := 2 * posKey r x
  (if y.latch r x then -1 else 1) * (64 * ((y.colCode r x).natAbs : Int) + 16 * y.cellDev k + y.cellDev (k + 1))

/-- Band bound B[i]: the largest CMAX of vitrine row i (R85). -/
def PlaneSt.bandBound (y : PlaneSt) (i : Nat) : Nat := maxOf ((List.range 8).map fun j => y.cmaxOf (8 * i + j))

/-! ### The command queue -/

/-- CMD_BAD, and a task error of the command's task (R158). -/
def Chip.gBad (c : Chip) (n g : Nat) (task : Option Nat) : Chip :=
  (c.raise (Reg.cmdStatus n g) 8 (Reg.cmdCtr n g 0)).taskError? task

/-- A command enters a gallery's queue, which has room for it; an invalid one is discarded (R156, R158). A command wakes a
wing that is not in run (R46, R165). An MVM of a reference-forward task is not performed and stops the task (R79). -/
def Chip.gEnter (c : Chip) (n g : Nat) (task : Option Nat) (w0 w1 : Word) (clk : Nat) : Chip :=
  if c.refFwd task && decide (gOp w0 = 1) then c.taskError? task
  else
  let c := (c.wakeUp n).modWing n fun w =>
    { w with keepAwake := w.keepAwake || task.isNone, busyAt := if task.isNone then c.tick.halfUs else w.busyAt }
  if c.gValid task.isNone w0 w1 then
    let x := c.gal n g
    c.setGal n g { x with cmdQ := x.cmdQ ++ [{ tag := { task := task, due := gDue w1, budget := (Config.galBudget w0 w1).val + 1 },
                                               w0 := w0, w1 := w1, clk := clk, needSwaps := x.swapAsked }] }
  else c.gBad n g task

/-- The first thread of a gallery that waits for room in its queue sends its command (R156). -/
def Chip.gUnpark (c : Chip) (n g : Nat) : Chip :=
  let x := c.gal n g
  if x.cmdQ.length < 16 then
    let parked := x.threads.find? (fun p => match p.2.wait with
      | .queueFull imm _ _ => decide (imm.toNat % 8 = 0)
      | _ => false)
    match parked with
    | some (th, s) =>
      match s.wait with
      | .queueFull _ (w0 :: w1 :: _) clk =>
        (c.setGal n g (x.setThread th { s with wait := ThreadWait.ready })).gEnter n g (c.galTask n g) w0 w1 clk
      | _ => c
    | none => c
  else c

/-- The head of a gallery's queue leaves it, and a parked thread's command may enter. DEDUCED (log 58). -/
def Chip.gPop (c : Chip) (n g : Nat) : Chip := (c.modGal n g fun x => { x with cmdQ := x.cmdQ.tail, histWait := false }).gUnpark n g

/-- A command's due tick has begun: its task runs and its elapsed count has reached DUE. The register path has no due tick
(R165). -/
def Chip.dueBegun (c : Chip) (t : CmdTag) : Bool :=
  match t.task with
  | none => true
  | some k => c.running k && decide (t.due ≤ c.elapsed k) && !c.paused

/-- An MVM command enters the gallery's queue (R156), or that of the gallery which a redirect names for it (R262). -/
def mvm (n g t : Nat) (w0 w1 : Word) (clk : Nat) (c : Chip) : Chip :=
  let g := c.served n g
  if c.galTask n g = some t ∧ c.stoppable t = true ∧ gOp w0 = 1 ∧ (c.gal n g).cmdQ.length < 16 then
    c.gEnter n g (some t) w0 w1 clk
  else c

/-- MVM. -/
def execMvm (n : Wing) (g : GalIx) (t : Slot) (w0 w1 : Word) (clk : Nat) (s : State) : Host.Outcome State Fault Refusal :=
  onChip (mvm n.val g.val t.val w0 w1 clk) s

/-! ### Faults of the gallery's own -/

/-- SAT of a readout tensor raised for forbidden codes, and INVALID_CODE set for each (R58). -/
def Chip.invalidCodes (c : Chip) (tensor step k : Nat) (task : Option Nat) : Chip :=
  if k = 0 then c
  else ((c.setFlag Reg.censusStatus 3 true).countBy (Reg.censusCtr 3) k).countT step tensor task fun v => v.add 0 0 k 0 0

/-- An expiry of group m of a plane: EXPIRED is set, and, once for the plane, its EXP bit and a tier 1 event (R140). The role of a plane
that holds a tile is then moved; one that cannot be moved escalates to tier 2 (R264, R375). -/
def Chip.expiryEvent (c : Chip) (n g : Nat) (p : Plane) (m : Nat) : Chip :=
  let y := (c.gal n g).plane p
  let c := c.raise (Reg.consStatus n) 1 (Reg.consCtr n 1)
  if y.expRaised then c
  else
    let c := c.modGal n g fun x => x.setPlane p { x.plane p with expRaised := true }
    let moves := y.holds.isSome
    let can := moves && c.canMoveRole n g
    let r : FaultRec := { tier := 1, level := 1, wing := n, source := 0x05, gallery := g, unit := 0,
                          task := (c.galTask n g).getD 0, verdict := 0, detail := planeIx p * 2 ^ 8 + m }
    let c := c.raiseFault r can (if moves then some (n, g) else none) (if moves && !can then c.allTasks else []) 0x14
    if moves then
      let c := c.quarantineGal n g
      if can then c.askMove { wing := n, gal := g, tile := none, pausedAt := none, conflict := false }
      else { c with recov := c.recov.map fun x => { x with tier := 2 } }
    else c

/-- A capture for classification: the MVM's input bytes, plane, BANDS, G, j and trigger, when none is held (R372). -/
def Chip.capture (c : Chip) (n g : Nat) (p : Plane) (bands gain j trig : Nat) (inputs : List Byte) (d : Int) (row : Nat) : Chip :=
  if c.flag (Reg.galFltState n g) 7 then c
  else
    let c := c.wr (Reg.galCapInfo n g) (w64 (planeIx p + bands * 2 ^ 8 + gain * 2 ^ 16 + j * 2 ^ 20 + trig * 2 ^ 24))
    let c := (List.range 64).foldl (fun e k =>
      e.wr (Reg.galCap n g k) (w64 (ofLeBytes ((inputs.drop (8 * k)).take 8)))) c
    let c := ((c.setFld (Reg.galFltState n g) 2 0 1).setFlag (Reg.galFltState n g) 7 true).setFld (Reg.galFltState n g) 15 8 0
    let k : GalClass :=
      { step := 1, todo := [], failed := [], checks := [], hard := [], gen := c.fld (Reg.consSrc n g (planeIx p)) 63 48,
        live := c.fld (Reg.galMode n g) 1 1, dval := d, guardRow := row }
    c.modGal n g fun x => { x with cls := some k }

/-! ### MVM -/

/-- Group sums T[0] to T[7] of a band's 64 inputs (R98). -/
def groupSums (band : List Byte) : List Nat :=
  (List.range 8).map fun m => ((List.range 8).map fun k => (code8 (nth 0 band (8 * m + k))).natAbs).foldl (· + ·) 0

/-- The largest sum of n phases of a band's group sums (R98). -/
def worstPhase (t : List Nat) (n : Nat) : Nat :=
  maxOf ((List.range n).map fun p => ((t.drop (8 / n * p)).take (8 / n)).foldl (· + ·) 0)

/-- LSB(G) in product units (R91). -/
def lsb (gain : Nat) : Nat := 2 ^ (8 - gain)

/-- Full scale FS(G) (R93). -/
def fullScale (gain : Nat) : Nat := 511 * lsb gain

/-- Phases that the detector of a band wants (R98). -/
def wantPhases (bound gain : Nat) (band : List Byte) : Nat :=
  let t := groupSums band
  if t.all fun v => v == 0 then 0
  else ([1, 2, 4].find? fun n => decide (bound * worstPhase t n ≤ fullScale gain)).getD 8

/-- The readout settings that the census step of a boundary uses: an MVM at slot 0 read its inputs before the edge (R94, R97). -/
def Chip.stepAt (c : Chip) (slot : Nat) (x : Gal) : Gal × Nat :=
  if slot = 0 ∧ c.step.stepEdge = c.tick.edges ∧ c.tick.edges ≠ 0 then
    ({ x with gainSet := x.gainOld, readSet := x.readOld }, (c.censusStep + 2 ^ 48 - 1) % 2 ^ 48)
  else (x, c.censusStep)

/-- The head MVM leaves the queue at a boundary, if its slots fit there (R97, R103, R105, R144, R156, R160): the conditions of R156, no swap
ahead of it, its plane neither in a refresh slot nor in a compiled rewrite, and fewer than two MVMs that hold results. -/
def Chip.mvmLeaves (c : Chip) (n g slot : Nat) (q : GCmd) (p : Plane) : Bool :=
  let x := c.gal n g
  let b := c.tick.edgeClk + 64 * slot
  decide (slot < c.slots) && c.inRun n && !c.paused && !c.halted &&
  (match q.tag.task with
   | none => true
   | some t => c.running t && decide (q.tag.due < c.elapsed t ∨ (q.tag.due = c.elapsed t ∧ gSlot q.w0 ≤ slot))) &&
  decide (q.clk + 16 ≤ b ∧ x.mvmFree ≤ b) &&
  decide (x.swapDue = [] ∧ x.swapSeq ≤ x.swapDone ∧ q.needSwaps ≤ x.swapDone) &&
  decide ((x.mvms.filter fun m => m.ended).length < 2) &&
  !(c.resident n g &&
    ((match x.rjob with | some j => decide (j.plane = p) | none => false) ||
     (match x.wjob with | some j => decide (j.plane = p) | none => false)))

/-- Each row group's drive gain code in force with its droop (R138, R139). -/
def Chip.driveOf (c : Chip) (n g : Nat) (p : Plane) : List (Nat × Nat) :=
  (List.range 8).map fun m =>
    (c.fld (Reg.consGain n g (planeIx p)) (8 * m + 7) (8 * m), NMap.get (fun _ => 0) ((c.gal n g).plane p).droop m)

/-- An MVM starts: its inputs are read, its bands' phases chosen, and its slots reserved (R97 to R101, R153, R154).
DEDUCED (log 53). -/
def Chip.mvmBegin (c : Chip) (n g slot : Nat) (q : GCmd) (p : Plane) : Chip :=
  let bands := gBands q.w0
  let base := galStoreBase n g + gIn q.w0
  let ranges := (List.range 8).map fun i => (bit bands i, base + 64 * i)
  let (c, bytes) := ranges.foldl (fun (d, bs) (on, a) =>
    if on then
      let (d, b) := d.useRange (.gallery n g) a 64 q.tag.task
      (d, bs ++ b)
    else (d, bs ++ List.replicate 64 0)) (c, ([] : List Byte))
  let c := if gConsume q.w0 then
      let words := ranges.flatMap fun r => if r.1 then (List.range 8).map fun k => r.2 + 8 * k else []
      (words.foldl (fun d a => d.setFull a false) c).serveAll words
    else c
  let (x', step) := c.stepAt slot (c.gal n g)
  let y := x'.plane p
  let gain := c.gainOf x' p step
  let tensor := if x'.gainCounts p then x'.readTensor p else noTensor
  let c := c.invalidCodes tensor step (badCodes bytes) q.tag.task
  let c := if y.written then c else c.raise (Reg.galMode n g) 8 (Reg.modeCtr n g 0)
  let c := if c.anyExpired n y && y.holds.isNone && !y.expRaised then
      c.expiryEvent n g p (((List.range 8).find? fun m => c.groupPast n y m 4 1).getD 0) else c
  let budget := c.budget n g p
  let wants := (List.range 8).map fun i =>
    if y.written && bit bands i then wantPhases (y.bandBound i) gain ((bytes.drop (64 * i)).take 64) else 0
  let runs := wants.map fun w => min w budget
  let slots := maxOf runs
  let c := if wants.any (fun w => decide (budget < w)) then c.raise (Reg.phaseStat n g) 16 (Reg.phaseCtr n g 0) else c
  let c := c.setFld (Reg.phaseStat n g) 15 0
    (maxOf wants + slots * 2 ^ 4 + bitsOf 8 (fun i => decide (nth 0 runs i = 0)) * 2 ^ 8)
  let b := c.tick.edgeClk + 64 * slot
  let pl := planeIx p
  (c.modGal n g fun x => { x with
    mvmFree := b + 64 * budget,
    mvms := x.mvms ++ [{ tag := q.tag, plane := p, bands := bands, runs := runs, inputs := bytes, out := gOut q.w0, gain := gain,
                         step := step, tensor := tensor, noSlot := decide (slots = 0), ended := false, held := [],
                         coef := x.coef.filter fun e => decide (e.1 / 4096 = pl), chk := c.rd (Reg.chkCtrl n g),
                         drive := c.driveOf n g p }] }).gPop n g

/-- The MVM at the head of a gallery's queue reaches a slot boundary (R156). Its budget is checked against S as it leaves the queue (R158).
A history that is not yet complete holds it and sets HIST_WAIT, once for the wait (R74). -/
def mvmStart (n g slot : Nat) (c : Chip) : Chip :=
  match (c.gal n g).cmdQ with
  | [] => c
  | q :: _ =>
    if gOp q.w0 ≠ 1 then c
    else
      let p := c.mvmPlane n g (gPlane q.w0)
      let x := c.gal n g
      if c.mvmLeaves n g slot q p then
        let (x', step) := c.stepAt slot x
        if c.slots < c.budget n g p then (c.gBad n g q.tag.task).gPop n g
        else if c.slots < slot + c.budget n g p then c
        else if x'.gainCounts p && !c.histReady step then
          if x.histWait then c else (c.modGal n g fun x => { x with histWait := true }).histWait
        else c.mvmBegin n g slot q p
      else c

/-- MVM_START. -/
def execMvmStart (n : Wing) (g : GalIx) (slot : Nat) (s : State) : Host.Outcome State Fault Refusal :=
  onChip (mvmStart n.val g.val slot) s

/-- The slice of a vitrine that converts its column col: the lower-numbered of the two active ones takes columns 0 to 16, the other 17 to
32 (R90, R111). -/
def VitSt.sliceFor (t : VitSt) (col : Nat) : Nat :=
  if col ≤ 16 then (if t.spare = 0 then 1 else 0) else (if t.spare = 2 then 1 else 2)

/-- Where a column conversion is made: the key of its slice, the draw of that slice's trims, the key of its column path, and the draw and
number of the conversion. -/
structure ConvAt where
  slice : Nat
  trims : Nat
  path  : Nat
  draw  : Nat
  conv  : Nat
  deriving DecidableEq, Repr

/-- One column conversion of a charge in units of 2^-54 product unit (R91, R115): its column path's offset and gain, the charge noise, the
slice's gain, offset, noise and nonlinearity, one rounding and the clamp. Answers the code and whether it saturated. The slice's parts keep
the limits "until next trim"; R115 limits the noise only in rms and the column path not at all, so that they are free. -/
def convert (gain : Nat) (charge : Int) (k : ConvAt) : Int × Bool :=
  let eg := clampInt (-838) 838 (Config.sliceGain k.trims k.slice)
  let eo := clampInt (-16384) 16384 (Config.sliceOffset k.trims k.slice)
  let inl := clampInt (-32768) 32768 (Config.sliceInl k.draw k.conv)
  let q := (charge + Config.columnOffset k.path * 2 ^ 38) * (2 ^ 20 + Config.columnGain k.path) + Config.chargeNoise k.draw k.conv * 2 ^ 58
  let x := roundEven (q * (2 ^ 20 + eg) * 2 ^ gain + (eo + Config.sliceNoise k.draw k.conv + inl) * 2 ^ 86) (2 ^ 102)
  (clampInt (-511) 511 x, decide (511 < x.natAbs))

/-- The charge that input r of an MVM puts on gallery column x, in units of 2^-54 product unit: the input with its group's drive gain (R139)
times the weight with its droop (R136). The droop of a cell is the accumulator's but for a free deviation within the limits of R139. -/
def Mvm.charge (m : Mvm) (y : PlaneSt) (place r x : Nat) : Int :=
  let d := nth (0, 0) m.drive (r % 64 / 8)
  let left : Int := 2 ^ 36 - (d.2 : Int) * (4096 + clampInt (-2334) 1597 (Config.leakSpread (place * 2 ^ 18 + posKey r x)))
  code8 (nth 0 m.inputs r) * (4096 + (d.1 : Int)) * y.weight r x * left

/-- The conversions of gallery column x in band i, one for each phase: codes and saturations (R90, R98). `place` names the gallery's plane, and `conv`
is the draw of the trims that accession set. -/
def Mvm.conversions (m : Mvm) (z : Gal) (conv place draw i x : Nat) : List (Int × Bool) :=
  let run := nth 0 m.runs i
  let y := z.plane m.plane
  let v := if x < 256 then 8 * i + x / 32 else 8 * i + (x - 256)
  let col := if x < 256 then x % 32 else 32
  let t := z.vit v
  let s := t.sliceFor col
  (List.range run).map fun p =>
    let rows := (List.range (64 / run)).map fun k => 64 * i + 64 / run * p + k
    convert m.gain (sumInt (rows.map fun r => m.charge y place r x))
      { slice := place / 2 * 256 + 3 * v + s, trims := NMap.get (fun _ => conv) t.trims s, path := place * 4096 + 33 * v + col, draw := draw,
        conv := (x * 8 + i) * 8 + p }

/-- Offset coefficient o[v][c], in sixteenths of a product unit, of coefficients by index (R123, R133). -/
def Mvm.offset (m : Mvm) (cf : Nat → BitVec 16) (v col : Nat) : Int :=
  sext 16 (cf (planeIx m.plane * 4096 + 264 + 33 * v + col)).toNat

/-- Gain coefficient m[x] (R123, R133). -/
def Mvm.slope (m : Mvm) (cf : Nat → BitVec 16) (x : Nat) : Int := sext 16 (cf (planeIx m.plane * 4096 + x)).toNat

/-- The correction of R124: result[x] from the tree output T of column x. -/
def Mvm.correct (m : Mvm) (cf : Nat → BitVec 16) (x : Nat) (t : Int) : Int :=
  let j := if x < 256 then x / 32 else x - 256
  let col := if x < 256 then x % 32 else 32
  let off := sumInt ((List.range 8).map fun i => ((nth 0 m.runs i : Nat) : Int) * m.offset cf (8 * i + j) col)
  roundEven ((16 * t - off) * (65536 + m.slope cf x)) (2 ^ 20)

/-- E_j, the exact sum of the remainders (R163). -/
def Mvm.restSum (m : Mvm) (y : PlaneSt) (j : Nat) : Int :=
  sumInt ((List.range 512).map fun r =>
    if nth 0 m.runs (r / 64) = 0 then 0 else code8 (nth 0 m.inputs r) * y.sumRest r j)

/-- d[j] and tol[j] of the checksum comparison (R163). -/
def Mvm.compare (m : Mvm) (y : PlaneSt) (result : List Int) (j : Nat) : Int × Int :=
  let rs := (List.range 32).map fun k => nth 0 result (32 * j + k)
  let ck := nth 0 result (256 + j)
  let d := sumInt rs - 32 * ck - m.restSum y j
  let s := sumInt (rs.map fun r => (r.natAbs : Int)) + 32 * (ck.natAbs : Int)
  let n : Int := ((m.runs.foldl (· + ·) 0 : Nat) : Int)
  (d, wbits m.chk 7 0 * (lsb m.gain : Int) * n + wbits m.chk 23 8 * s / 65536 + wbits m.chk 47 32)

/-- One vitrine column's comparison made, skipped or mismatched (R164). -/
def Chip.checkColumn (n g : Nat) (m : Mvm) (y : PlaneSt) (result : List Int) (sat : Nat → Bool) (c : Chip) (j : Nat) : Chip :=
  let c := c.wr (Reg.chkResult n g j) (w64 (twos 32 (nth 0 result (256 + j)) + twos 32 (m.restSum y j) * 2 ^ 32))
  if !m.chk.getLsbD 48 || (List.range 32).any (fun k => sat (32 * j + k)) || sat (256 + j) then
    c.raise (Reg.chkStatus n g) 1 (Reg.chkCtr n g 1)
  else
    let (d, tol) := m.compare y result j
    if (d.natAbs : Int) ≤ tol then c
    else
      let c := c.raise (Reg.chkStatus n g) 0 (Reg.chkCtr n g 0)
      let c := (c.setFld (Reg.chkStatus n g) 10 8 j).setFld (Reg.chkStatus n g) 11 11 (planeIx m.plane)
      let c := c.wr (Reg.chkLast n g)
        (w64 (twos 32 (clampInt (-(2 ^ 31 - 1)) (2 ^ 31 - 1) d) + (min tol (2 ^ 32 - 1)).toNat * 2 ^ 32))
      c.capture n g m.plane m.bands m.gain j 0 m.inputs d 0

/-- The oldest MVM in progress has its results formed and held. -/
def endOldest (words : List (Nat × Word)) : List Mvm → List Mvm
  | [] => []
  | m :: ms => if m.ended then m :: endOldest words ms else { m with ended := true, held := words } :: ms

/-- Results written to the store, each word full as it is written; a word that is still full holds its result (R160). -/
def Chip.writeResults (c : Chip) (n g : Nat) (m : Mvm) (result : List Int) : Chip :=
  let words := (List.range 128).map fun k =>
    (galStoreBase n g + m.out + 8 * k, w64 (twos 32 (nth 0 result (2 * k)) + twos 32 (nth 0 result (2 * k + 1)) * 2 ^ 32))
  let c := c.modGal n g fun x => { x with mvms := endOldest words x.mvms }
  words.foldl (fun d p => d.access { addr := p.1, issuer := .gallery n g, kind := .fill, value := p.2, pars := [], since := d.tick.edges,
                                     task := m.tag.task }) c

/-- The oldest MVM in progress ends: tree, correction, census, comparison and results (R92, R95, R96, R159 to R164). One that
takes no slot writes 256 exact zeros, makes no comparison, and is counted (R86, R99). `bad` tells that a word in the tree or the correction
failed its parity, which the gallery detects as it uses the word (R26, R366, R368). -/
def mvmComplete (n g : Nat) (bad : Bool) (c : Chip) : Chip :=
  match (c.gal n g).mvms.find? (fun m => !m.ended) with
  | none => c
  | some m =>
    let y := (c.gal n g).plane m.plane
    let c := if bad then c.useWords (.gallery n g) (galStoreBase n g + m.out) [1] m.tag.task else c
    if m.noSlot then
      let c := if m.tensor = noTensor then c else c.countT m.step m.tensor m.tag.task fun v => v.add 256 256 0 0 0
      c.writeResults n g m (List.replicate 256 0)
    else
      let draw := c.free
      let place := 2 * galKey n g + planeIx m.plane
      let convs := (List.range 264).map fun x => (List.range 8).map fun i => m.conversions (c.gal n g) c.boot.conv place draw i x
      let trees := convs.map fun bands => sumInt (bands.flatMap fun ks => ks.map fun k => k.1 * (lsb m.gain : Int))
      let result := (List.range 264).map fun x => m.correct (c.coefAt n g m.coef) x (nth 0 trees x)
      let satCol := convs.map fun bands => bands.any fun ks => ks.any fun k => k.2
      let sat := fun x => nth false satCol x
      let c := c.draw
      let c := if satCol.any id then c.raise (Reg.phaseStat n g) 17 (Reg.phaseCtr n g 1) else c
      let c := if m.tensor = noTensor then c else
        let amax := maxOf ((convs.take 256).flatMap fun bands => bands.flatMap fun ks => ks.map fun k =>
          if k.2 then 1022 * lsb m.gain else k.1.natAbs * lsb m.gain)
        c.countT m.step m.tensor m.tag.task fun v =>
          v.add 256 ((result.take 256).filter fun r => r = 0).length ((satCol.take 256).filter id).length 0
            (BitVec.ofNat 32 (fmt32.ofInt (amax : Int) 0).1)
      let c := (List.range 8).foldl (Chip.checkColumn n g m y result sat) c
      c.writeResults n g m result

/-- MVM_COMPLETE. -/
def execMvmComplete (n : Wing) (g : GalIx) (s : State) (bad : Bool := false) : Host.Outcome State Fault Refusal :=
  onChip (mvmComplete n.val g.val bad) s

/-! ### Swaps -/

/-- The tile of a plane leaves state rehang (R252). -/
def Chip.endRehangState (c : Chip) (y : PlaneSt) : Chip :=
  match y.holds with
  | some i => c.modCat i fun e => if e.state = 3 then { e with state := 1 } else e
  | none => c

/-- A rehang is cut off: no new cell begins; cells in progress complete (R142, R143). A refresh slot so cut off has ended (R144). -/
def Gal.cutRehang (x : Gal) (edge : Nat) : Gal :=
  { x with rhOpen := none, rhParts := [], rhLeft := [], rhFailed := [], slotStart := none,
           slotEnd := if x.slotStart.isSome then some (edge + 1) else x.slotEnd,
           rjob := match x.rjob with
             | none => none
             | some j => if j.vits.any (fun p => !p.2.cells.isEmpty) then some { j with aborted := true } else none }

/-- An idle rehang whose groups are all rewritten has completed (R150). -/
def Chip.finishIdle (c : Chip) (n g : Nat) (j : WriteJob) : Chip :=
  ((c.endRehangState ((c.gal n g).plane j.plane)).modGal n g fun x => { x with rjob := none }).countBy (Reg.consCount n) 1

/-- A swap request ends an idle rehang: REHANG_ABORT, unless it had rewritten every group and so completed (R143, R150). -/
def Chip.swapEndsIdle (c : Chip) (n g : Nat) : Chip :=
  match (c.gal n g).rjob with
  | some j =>
    if j.form = .idle ∧ j.aborted = false then
      if j.order = [] then c.finishIdle n g j
      else
        let c := c.raise (Reg.consStatus n) 2 (Reg.consCtr n 2)
        (c.endRehangState ((c.gal n g).plane j.plane)).modGal n g fun x => x.cutRehang c.tick.edges
    else c
  | none => c

/-- A swap is asked, by a command or by SWAP: it waits in SWAP_PEND, and what is issued after it waits for it; one asked while another
waits, or in resident mode, is discarded and sets SWAP_DROP (R103). It ends an idle rehang (R143). Answers whether it was accepted. -/
def Chip.requestSwap (c : Chip) (n g : Nat) : Chip × Bool :=
  if c.resident n g || c.swapPend n g then (c.raise (Reg.galMode n g) 9 (Reg.modeCtr n g 1), false)
  else
    let c := (c.setFlag (Reg.galMode n g) 3 true).modGal n g fun x => { x with swapAsked := x.swapAsked + 1 }
    (c.swapEndsIdle n g, true)

/-- A SWAP command that has left the queue requests its swap; the MVMs behind it wait for that swap, if it is accepted (R156). -/
def Chip.commandSwap (c : Chip) (n g : Nat) : Chip :=
  let (c, ok) := c.requestSwap n g
  if ok then c.modGal n g fun x => { x with swapSeq := x.swapAsked } else c

/-- A SWAP command leaves the queue: it requests its swap at its due tick (R156). -/
def swap (n g : Nat) (c : Chip) : Chip :=
  match (c.gal n g).cmdQ with
  | [] => c
  | q :: _ =>
    if gOp q.w0 = 3 ∧ c.inRun n = true ∧ c.paused = false then
      let d := c.modGal n g fun x => { x with cmdQ := x.cmdQ.tail }
      (if c.dueBegun q.tag then d.commandSwap n g else d.modGal n g fun x => { x with swapDue := x.swapDue ++ [q] }).gUnpark n g
    else c

/-- SWAP. -/
def execSwap (n : Wing) (g : GalIx) (s : State) : Host.Outcome State Fault Refusal := onChip (swap n.val g.val) s

/-- The swaps of a gallery whose due tick has begun are requested, in order (R156). -/
def Chip.promoteSwaps (c : Chip) (n g : Nat) : Chip :=
  let due := (c.gal n g).swapDue.takeWhile fun q => c.dueBegun q.tag
  due.foldl (fun d _ => (d.modGal n g fun x => { x with swapDue := x.swapDue.tail }).commandSwap n g) c

/-- A write to a vitrine of the gallery is outstanding (R17, R103): an active WRITE until it completes, or cells of a rehang. -/
def Gal.swapHeld (x : Gal) : Bool := x.wjob.isSome || x.writing

/-- The tile of a live rehang moves with the codes: the plane it was written into now holds it, the other holds none (R142). -/
def Chip.rehangSwap (c : Chip) (n g : Nat) (j : WriteJob) : Chip :=
  let x := c.gal n g
  let old := x.plane (otherPlane j.plane)
  let new := x.plane j.plane
  let c := match old.holds with
    | some i => c.modCat i fun e =>
        if e.state = 3 ∨ e.state = 1 then { e.bump with state := 1, loc := planeLoc n (c.roleOf n g) j.plane } else e
    | none => c
  let c := c.wr (Reg.consSrc n g (planeIx j.plane)) (c.rd (Reg.consSrc n g (planeIx (otherPlane j.plane))))
  let x := (c.gal n g).setPlane j.plane { new with holds := old.holds, srcTile := old.srcTile, watched := old.watched, moved := old.moved }
  let x := x.setPlane (otherPlane j.plane) { old with holds := none, srcTile := 0, watched := false, moved := false }
  (c.setGal n g { x with rjob := none }).countBy (Reg.consCount n) 1

/-- At the first slot boundary with no MVM in progress and no write outstanding, all 64 vitrines change planes: a rehang's
swap first, then one that was asked (R103, R142). -/
def swapTakeEffect (n g : Nat) (c : Chip) : Chip :=
  let x := c.gal n g
  if c.resident n g || x.swapHeld || x.mvms.any (fun m => !m.ended && !m.noSlot) then c
  else
    let flip := fun (d : Chip) => (d.setFld (Reg.galMode n g) 1 1 (planeIx (otherPlane (c.livePlane n g)))).modGal n g fun x =>
      { x with conflict := false, conflictTold := false }
    if c.rhSwap n g then
      let c := (flip c).setFlag (Reg.galMode n g) 5 false
      match x.rjob with
      | some j => c.rehangSwap n g j
      | none => c
    else if c.swapPend n g && !(x.pendW.any fun q => decide (q.needSwaps ≤ x.swapDone)) then
      ((flip c).setFlag (Reg.galMode n g) 3 false).modGal n g fun x => { x with swapDone := x.swapDone + 1 }
    else c

/-- SWAP_TAKE_EFFECT. -/
def execSwapTakeEffect (n : Wing) (g : GalIx) (s : State) : Host.Outcome State Fault Refusal :=
  onChip (swapTakeEffect n.val g.val) s

/-! ### Stopping -/

/-- At a gallery of a task that stops: its queue, its pending WRITE and its swaps that have not taken effect are discarded;
MVMs and plane writes that have begun go on, and a rehang's swap stays (R470). -/
def Chip.stopGal (c : Chip) (n g : Nat) : Chip :=
  let c := c.modGal n g fun x => { x with cmdQ := [], pendW := [], swapDue := [], swapDone := x.swapAsked, histWait := false }
  if c.swapPend n g then c.setFlag (Reg.galMode n g) 3 false else c

end Sys2Proof.Machine
end

