-- ==== Sys2Proof/Machine/PlaneWrite.lean ====
section
/-! DEFINITION. Plane writes: WRITE commands and their slots (R157), the stream of codes (R161, R162), the write and verify of
each cell (R87 to R89, R375), and a plane write's end (R85, R138). -/

namespace Sys2Proof.Machine

/-! ### WRITE -/

/-- The arena position of a task that holds a source address: its Catalogue index (R259). -/
def Chip.arenaTile (c : Chip) (t a : Nat) : Option Nat :=
  (List.range 16).findSome? fun n =>
    let base := c.fld (Reg.arena n t) 43 17 * 0x20000
    let cnt := c.fld (Reg.arenaIdx n t) 57 32
    if base ≤ a ∧ a < base + 0x20000 * cnt then some (c.fld (Reg.arenaIdx n t) 25 0 + (a - base) / 0x20000) else none

/-- The plane tile that a WRITE of source tile `src` fills: of the gallery role's tiles for that plane, the one whose link
names the source, else the first (R162, R252). `addr` of an image's plane tile is its plane. -/
def Chip.planeTileFor (c : Chip) (t n g : Nat) (p : Plane) (src : Option Nat) : Option Nat :=
  let s := c.task t
  match s.img with
  | none => none
  | some im =>
    let role := (s.gals.zipIdx.find? fun q => decide (q.1.1 = n) && decide (c.served n q.1.2 = g)).map Prod.snd
    let mine := im.tiles.zipIdx.filter fun q => decide (q.1.kind = 1 ∧ q.1.role = role ∧ q.1.addr % 2 = planeIx p)
    match mine.find? (fun q => decide (q.1.link.map (fun l => s.base + l) = src)) with
    | some q => some (s.base + q.2)
    | none => mine.head?.map fun q => s.base + q.2

/-- A tile takes a plane in state streaming, linked to its source; a tile placed anew takes a new generation (R246, R253). A quarantined
tile stays so: R252 lists no way from it to streaming. -/
def CatEntry.takePlane (e : CatEntry) (n g t : Nat) (p : Plane) (link lgen : Nat) : CatEntry :=
  let e' := if e.lkind = 1 ∧ e.loc = planeLoc n g p ∧ e.state ≠ 0 then e
    else { e.bump with lkind := 1, loc := planeLoc n g p, owner := n, task := t, format := 2 }
  { e' with state := if e.state = 5 then 5 else 2, link := link, lgen := lgen }

/-- The sums of the 32 weight codes of each row and vitrine column, by 8 × row + vitrine column. -/
def rowTotals (codes : NMap Int) : NMap Int :=
  codes.foldl (fun m p =>
    let k := 8 * (p.1 / 256) + p.1 % 256 / 32
    NMap.set (fun _ => 0) m k (NMap.get (fun _ => 0) m k + p.2)) []

/-- The sign latches that codes set: those of negative weights and checksum codes (R82). -/
def negOf (codes sums : NMap Int) : NMap Bool :=
  let m := codes.foldl (fun m p => if p.2 < 0 then NMap.put m (posKey (p.1 / 256) (p.1 % 256)) true else m) []
  sums.foldl (fun m p => if p.2 < 0 then NMap.put m (posKey (p.1 / 8) (256 + p.1 % 8)) true else m) m

/-- A plane that every cell of codes has been written into, with its checksum codes and remainders (R84, R163). -/
def PlaneSt.fill (y : PlaneSt) (codes : NMap Int) (devs : NMap Int) (draw : Nat) : PlaneSt :=
  let totals := rowTotals codes
  let sums := (totals.map fun p => (p.1, roundEven p.2 32)).filter fun p => decide (p.2 ≠ 0)
  let rests := (totals.map fun p => (p.1, p.2 - 32 * roundEven p.2 32)).filter fun p => decide (p.2 ≠ 0)
  { y with written := true, codes := codes, sums := sums, rests := rests, neg := negOf codes sums, devs := devs, wrote := draw }

/-- One cell of a position written to its level of a code. The sign latch is set with the major cell (R87). -/
def PlaneSt.putCell (y : PlaneSt) (r x : Nat) (minor : Bool) (new : Int) : PlaneSt :=
  let old := (y.colCode r x).natAbs
  let mag := if minor then 16 * (old / 16) + new.natAbs % 16 else 16 * (new.natAbs / 16) + old % 16
  let neg := if minor then y.latch r x else decide (new < 0)
  let code : Int := (if neg then -1 else 1) * (mag : Int)
  let y := { y with neg := NMap.set (fun _ => false) y.neg (posKey r x) neg }
  if x < 256 then { y with codes := NMap.set (fun _ => 0) y.codes (256 * r + x) code }
  else { y with sums := NMap.set (fun _ => 0) y.sums (8 * r + (x - 256)) code }

/-- The gallery row and column of the k-th cell of vitrine v (R87). -/
def WriteJob.cellAt (j : WriteJob) (v k : Nat) : Nat × Nat :=
  let col := k % 66 / 2
  (64 * (v / 8) + j.rowOf k, if col < 32 then 32 * (v % 8) + col else 256 + v % 8)

/-- The code that cell k of vitrine v is to hold: a weight, or the row's checksum code (R84). -/
def WriteJob.cellCode (j : WriteJob) (v k : Nat) : Int :=
  let base := 256 * (64 * (v / 8) + j.rowOf k) + 32 * (v % 8)
  let col := k % 66 / 2
  if col < 32 then NMap.get (fun _ => 0) j.buf (base + col)
  else roundEven (sumInt ((List.range 32).map fun i => NMap.get (fun _ => 0) j.buf (base + i))) 32

/-- A plane write has begun a cell, given by its place in the plane. -/
def WriteJob.begun (j : WriteJob) (key : Nat) : Bool :=
  let r := key / 2 / 264
  let x := key / 2 % 264
  let v := 8 * (r / 64) + (if x < 256 then x / 32 else x - 256)
  let col := if x < 256 then x % 32 else 32
  match j.order.idxOf? (r % 64 / 8) with
  | some i => decide (i * 528 + r % 8 * 66 + 2 * col + key % 2 < (NMap.get (fun _ => ({ next := 0, cells := [] } : VitProg)) j.vits v).next)
  | none => false

/-- The deviations of a plane's cells once a plane write has ended or been cut off: those of the cells that it wrote are its own (R88). -/
def WriteJob.devsIn (j : WriteJob) (wrote : Nat → Bool) (devs : NMap Int) : NMap Int :=
  j.devs.foldl (fun m p => NMap.put m p.1 p.2) (devs.filter fun p => !wrote p.1)

/-- A live rehang cut off: the cells that it has begun keep the new codes, so that the idle plane holds a mixture (R142). A vitrine
stores the remainder of each row that it has begun (R163). -/
def PlaneSt.mix (y : PlaneSt) (j : WriteJob) : PlaneSt :=
  let z := j.vits.foldl (fun y p =>
    (List.range p.2.next).foldl (fun y k =>
      let at_ := j.cellAt p.1 k
      let y := y.putCell at_.1 at_.2 (decide (k % 2 = 1)) (j.cellCode p.1 k)
      if k % 66 = 0 then
        let total := sumInt ((List.range 32).map fun i => NMap.get (fun _ => 0) j.buf (256 * at_.1 + 32 * (p.1 % 8) + i))
        { y with rests := NMap.set (fun _ => 0) y.rests (8 * at_.1 + p.1 % 8) (total - 32 * roundEven total 32) }
      else y) y) y
  { z with devs := j.devsIn j.begun y.devs }

/-- A verdict written to the log with no fault of its own: tier 0 (R377). -/
def Chip.verdictRecord (c : Chip) (r : FaultRec) : Chip :=
  if c.halted then c else c.logRecord { r with tier := 0 } false

/-- The write-verify record of a cell (R380). -/
def wvRecord (n g v task verdict key : Nat) : FaultRec :=
  { tier := 1, level := 0, wing := n, source := 0x03, gallery := g, unit := v, task := task, verdict := verdict,
    detail := key % 4224 / 66 + key % 66 / 2 * 2 ^ 8 + key % 2 * 2 ^ 16 }

/-- A position that failed before has been written again without failing: verdict TRANSIENT (R375). -/
def Chip.cellTransient (c : Chip) (n g key : Nat) : Chip :=
  (c.verdictRecord (wvRecord n g (key / 4224) ((c.galTask n g).getD 0) 1 key)).setFld (Reg.galFltState n g) 6 4 1

/-- A cell, by its name, lies in a row group that a plane write rewrote. -/
def WriteJob.covers (j : WriteJob) (key : Nat) : Bool := j.order.contains (key % 4224 / 66 / 8)

/-- Positions of a plane that failed before and did not fail in a write of their row group now ended: verdict TRANSIENT each (R375). -/
def Chip.writeVerdicts (c : Chip) (n g : Nat) (j : WriteJob) : Chip :=
  let failed := ((c.gal n g).plane j.plane).failed
  let c := (failed.filter fun k => j.covers k && !j.failed.contains k).foldl (fun d k => d.cellTransient n g k) c
  c.modGal n g fun x => x.setPlane j.plane { x.plane j.plane with failed := ((failed.filter fun k => !j.covers k) ++ j.failed).eraseDups }

/-- A plane write as far as its row groups are complete in every vitrine. -/
def WriteJob.doneOnly (j : WriteJob) : WriteJob := { j with order := j.order.take (j.slowest / 528) }

/-- A rehang that writes plane p is aborted by a WRITE, a swap or a moved source. `flag` tells whether REHANG_ABORT is set:
for a live or idle rehang ended by a write or a swap (R142, R143, R150). -/
def Chip.abortRehang (c : Chip) (n g : Nat) (flag : Bool) : Chip :=
  let x := c.gal n g
  match x.rjob, x.rhOpen with
  | none, none => c
  | none, some p => (c.endRehangState (x.plane p)).modGal n g fun x => x.cutRehang c.tick.edges
  | some j, _ =>
    if j.aborted then c
    else if j.form = .idle ∧ j.order = [] then c.finishIdle n g j
    else
      let c := if flag && decide (j.form ≠ .resident) then c.raise (Reg.consStatus n) 2 (Reg.consCtr n 2) else c
      let c := c.endRehangState (x.plane (if j.form = .live then otherPlane j.plane else j.plane))
      let c := c.writeVerdicts n g j.doneOnly
      let c := c.draw.modGal n g fun x =>
        let y := x.plane j.plane
        x.setPlane j.plane
          { (if j.form = .live then y.mix j else { y with devs := j.devsIn j.begun y.devs }) with wrote := c.free }
      c.modGal n g fun x => x.cutRehang c.tick.edges

/-- A WRITE leaves the queue for a write slot, if one of the two is free (R156, R157). -/
def write (n g : Nat) (c : Chip) : Chip :=
  let x := c.gal n g
  match x.cmdQ with
  | [] => c
  | q :: _ =>
    if gOp q.w0 = 2 ∧ c.inRun n = true ∧ c.paused = false ∧ x.pendW.length + (if x.wjob.isSome then 1 else 0) < 2 then
      (c.modGal n g fun x => { x with pendW := x.pendW ++ [{ q with needSwaps := x.swapAsked }] }).gPop n g
    else c

/-- WRITE. -/
def execWrite (n : Wing) (g : GalIx) (s : State) : Host.Outcome State Fault Refusal := onChip (write n.val g.val) s

/-- A WRITE begins: its plane and weight scale recorded, its source noted with its generation and held, the plane's old tile
vacant and the new one streaming, a rehang of the plane aborted (R157, R162, R252). Its vitrines wait for their first codes: STARVE. -/
def Chip.writeBegin (c : Chip) (n g : Nat) (q : GCmd) : Chip :=
  let p := if c.resident n g then gPlane q.w0 else otherPlane (c.livePlane n g)
  let x := c.gal n g
  let c := match x.rjob, x.rhOpen with
    | some j, _ => if j.plane = p then c.abortRehang n g true else c
    | none, some o => if o = p then c.abortRehang n g false else c
    | none, none => c
  let y := (c.gal n g).plane p
  let src := gSrc q.w0
  let pos := match q.tag.task with | some t => c.arenaTile t src | none => none
  let gen := match pos with | some i => (c.catNow i).gen | none => 0
  let tile := match q.tag.task with | some t => c.planeTileFor t n g p pos | none => none
  let c := c.dropPlaneWatch y
  let c := match y.holds with
    | some i => if tile = some i then c else c.modCat i CatEntry.vacate
    | none => c
  let c := match tile with
    | some i => c.modCat i fun e => e.takePlane n (c.roleOf n g) (q.tag.task.getD 0) p (pos.getD 0) gen
    | none => c
  let (c, held) := match pos with | some i => c.hold i | none => (c, false)
  let c := c.setFld (Reg.streamStatus n g) (23 + 8 * planeIx p) (16 + 8 * planeIx p) (gW q.w0)
  let c := c.wr (Reg.consSrc n g (planeIx p)) (w64 (src + gen * 2 ^ 48))
  let c := c.raise (Reg.streamStatus n g) 32 (Reg.streamCtr n g)
  c.modGal n g fun x =>
    { x.setPlane p { x.plane p with holds := tile, srcTile := pos.getD 0, watched := held, moved := false } with
      pendW := x.pendW.tail,
      wjob := some { form := .stream, plane := p, tag := q.tag, src := src, order := List.range 8, staged := 0, buf := [],
                     vits := [], raised := false, failed := [], devs := [], starved := true, aborted := false } }

/-- The pending WRITE becomes active once no write is active, its due tick has begun and, in streaming mode, no rehang swap
waits and every swap asked before it left the queue has taken effect (R157). -/
def writeActivate (n g : Nat) (c : Chip) : Chip :=
  let x := c.gal n g
  match x.pendW with
  | [] => c
  | q :: _ =>
    if x.wjob.isNone && c.inRun n && c.dueBegun q.tag &&
        (c.resident n g || (!c.rhSwap n g && decide (q.needSwaps ≤ x.swapDone))) then c.writeBegin n g q
    else c

/-- WRITE_ACTIVATE. -/
def execWriteActivate (n : Wing) (g : GalIx) (s : State) : Host.Outcome State Fault Refusal :=
  onChip (writeActivate n.val g.val) s

/-! ### The stream -/

/-- Bytes from a place of a tile on as codes of a plane write's buffer. -/
def putCodes (buf : NMap Int) (at_ : Nat) (bs : List Byte) : NMap Int :=
  (bs.zipIdx).foldl (fun m p => NMap.set (fun _ => 0) m (at_ + p.2) (code8 p.1)) buf

/-- A vitrine's place in a plane write. -/
def WriteJob.vit (j : WriteJob) (v : Nat) : VitProg := NMap.get (fun _ => { next := 0, cells := [] }) j.vits v

/-- A vitrine's place replaced. -/
def WriteJob.setVit (j : WriteJob) (v : Nat) (q : VitProg) : WriteJob :=
  { j with vits := NMap.put j.vits v q }

/-- Address of the place in the staging ring of the k-th row fetched (R161, R166). -/
def Chip.ringAt (c : Chip) (n g k : Nat) : Nat := galStoreBase n g + c.fld (Reg.streamCfg n g) 15 12 * 4096 + k % 16 * 256

/-- Vitrine v of an active WRITE takes its 32 codes of a row position from the ring as its write order reaches them (R161). A code 0x80
sets INVALID_CODE (R58). -/
def Chip.takeCodes (n g v : Nat) (c : Chip) (row : Nat) : Chip :=
  match (c.gal n g).wjob with
  | none => c
  | some j =>
    let (c, bs) := c.useRange (.gallery n g) (c.ringAt n g (8 * row + v / 8) + 32 * (v % 8)) 32 j.tag.task
    let x := c.gal n g
    let tensor := if x.gainCounts j.plane then x.readTensor j.plane else noTensor
    let c := c.invalidCodes tensor c.censusStep (badCodes bs) j.tag.task
    c.modGal n g fun x => { x with wjob := x.wjob.map fun j =>
      { j with buf := putCodes j.buf (256 * (64 * (v / 8) + row) + 32 * (v % 8)) bs } }

/-- Vitrine v of an active WRITE has begun every cell before `next`: it takes the rows between. -/
def Chip.passTo (n g next : Nat) (c : Chip) (v : Nat) : Chip :=
  match (c.gal n g).wjob with
  | none => c
  | some j =>
    let from_ := (j.vit v).next
    if next ≤ from_ then c
    else
      let c := ((List.range 64).filter fun r => decide (from_ ≤ 66 * r ∧ 66 * r < next)).foldl (Chip.takeCodes n g v) c
      c.modGal n g fun x => { x with wjob := x.wjob.map fun j => j.setVit v { j.vit v with next := next } }

/-- Row groups that a plane write has completed between two places of its slowest vitrine restart at the next edge (R138). -/
def Gal.groupsDone (x : Gal) (j : WriteJob) (before after : Nat) : Gal :=
  let ms := (j.order.drop (before / 528)).take (after / 528 - before / 528)
  if ms.isEmpty then x else x.setPlane j.plane { x.plane j.plane with restart := (x.plane j.plane).restart ++ ms }

/-- The codes of the k-th cell's row have been staged (R162). -/
def WriteJob.isStaged (j : WriteJob) (v k : Nat) : Bool := decide (8 * (k / 66) + v / 8 < j.staged)

/-- Some vitrine with cells left finds its next codes not staged (R162). -/
def WriteJob.waits (j : WriteJob) : Bool :=
  (List.range 64).any fun v => decide ((j.vit v).next < j.cellCount) && !j.isStaged v (j.vit v).next

/-- The next tile row of an active WRITE arrives and lands in the staging ring, over the row that lies 16 rows before it (R161, R162): the
vitrines have begun that row by then, since the ring has no other room. Cells that no CELL_VERIFY named are taken as accepted
(DESIGN CHOICE, log 54). The k-th row fetched is row 64 × (k mod 8) + k / 8. -/
def stagedCodesArrive (n g : Nat) (c : Chip) : Chip :=
  match (c.gal n g).wjob with
  | none => c
  | some j =>
    if 512 ≤ j.staged then c
    else
      let row := 64 * (j.staged % 8) + j.staged / 8
      let c := if j.staged < 16 then c
        else ((List.range 8).map fun i => 8 * (j.staged % 8) + i).foldl (Chip.passTo n g (66 * ((j.staged - 16) / 8) + 1)) c
      let (c, bs, ps) := c.fetch (j.src + 256 * row) 256
      let c := c.store (c.ringAt n g j.staged) bs ps j.tag.task
      c.modGal n g fun x =>
        match x.wjob with
        | some k =>
          let k := { k with staged := k.staged + 1 }
          { x with wjob := some { k with starved := k.starved && k.waits } }.groupsDone k j.slowest k.slowest
        | none => x

/-- STAGED_CODES_ARRIVE. -/
def execStagedCodesArrive (n : Wing) (g : GalIx) (s : State) : Host.Outcome State Fault Refusal :=
  onChip (stagedCodesArrive n.val g.val) s

/-! ### Cells -/

/-- A vitrine may begin its next cell. DESIGN CHOICE (log 56). -/
def WriteJob.mayBegin (j : WriteJob) (v : Nat) : Bool :=
  !j.aborted && decide ((j.vit v).next < j.cellCount) && j.isStaged v (j.vit v).next

/-- The target of cell k in millivolts: 64 mV for each level of the major or minor cell (R83). -/
def WriteJob.cellTarget (j : WriteJob) (v k : Nat) : Nat :=
  let c := (j.cellCode v k).natAbs
  64 * (if k % 2 = 0 then c / 16 else c % 16)

/-- The level that a correction pulse drives after a verify: the target less the error found, which is limited to ±64 mV, within the range
of a write pulse (R113, R114). -/
def correctionLevel (target code : Nat) : Nat :=
  (clampInt 0 1023 ((target : Int) - clampInt (-64) 64 ((code : Int) - target))).toNat

/-- The name of cell k of vitrine v, whatever the order it is written in. -/
def WriteJob.cellKey (j : WriteJob) (v k : Nat) : Nat := v * 4224 + j.rowOf k * 66 + k % 66

/-- What a verify finds (R88). -/
inductive VerifyResult where
  | again
  | accept
  | marginal
  | fail
  deriving DecidableEq, Repr

/-- The outcome of a verify of cell k after `pulses` pulses, with a measured error in millivolts (R88). -/
def verifyResult (k pulses err : Nat) : VerifyResult :=
  if err ≤ acceptBand k then .accept
  else if pulses < 3 then .again
  else if err ≤ 2 * acceptBand k then .marginal
  else .fail

/-- WV_MARG of a vitrine set, and MARG_EVENTS (R110). -/
def Chip.cellMarginal (c : Chip) (n g v : Nat) : Chip :=
  let c := c.setFlag (Reg.vitStatus n g v) 24 true
  c.setFld (Reg.vitEvents n g v) 31 0 ((c.fld (Reg.vitEvents n g v) 31 0 + 1) % 2 ^ 32)

/-- WV_FAIL of a vitrine set with the cell's place, and FAIL_EVENTS (R110). -/
def Chip.cellFail (c : Chip) (n g v key : Nat) (p : Plane) : Chip :=
  let s := (Reg.vitStatus n g v)
  let c := ((((c.setFlag s 25 true).setFld s 37 32 (key % 4224 / 66)).setFld s 45 40 (key % 66 / 2)).setFld s 48 48 (key % 2)).setFld
    s 49 49 (planeIx p)
  c.setFld (Reg.vitEvents n g v) 63 32 ((c.fld (Reg.vitEvents n g v) 63 32 + 1) % 2 ^ 32)

/-- What follows from a write-verify failure: the one fault of its plane write, or, for a cell that failed in the write before
too, the verdict HARD and the vitrine's fence (R89, R375). -/
def Chip.cellFault (c : Chip) (n g key : Nat) (again raised : Bool) : Chip :=
  let t := (c.galTask n g).getD 0
  let v := key / 4224
  if again then
    (c.fenceGal n g (BitVec.ofNat 64 (2 ^ v)) (wvRecord n g v t 3 key)).setFld (Reg.galFltState n g) 6 4 3
  else if raised then c
  else c.raiseFault (wvRecord n g v t 0 key) false (some (n, g)) [] 0

/-- A plane write put back where it came from. -/
def Gal.putJob (x : Gal) (isW : Bool) (j : Option WriteJob) : Gal :=
  if isW then { x with wjob := j } else { x with rjob := j }

/-- A verify of a cell in one plane write (R88): `k` is the cell, `pulses` the pulses it has had, `q` the vitrine's place
without the cell. A cell that ends outside its accept band keeps the level that this verify measured. DEDUCED (log 55). -/
def Chip.verifyCell (c : Chip) (n g v : Nat) (isW : Bool) (j : WriteJob) (q : VitProg) (slice k pulses code : Nat) : Chip :=
  let target := j.cellTarget v k
  let err := if code < target then target - code else code - target
  let key := j.cellKey v k
  let r := verifyResult k pulses err
  let j' := match r with
    | .again => j.setVit v { q with cells := q.cells ++ [({ slice := slice, idx := k, pulses := pulses + 1, level := correctionLevel target code } : CellProg)] }
    | _ => j.setVit v q
  let p := j.plane
  let prev := ((c.gal n g).plane p).failed.contains key
  let j' := if r = .fail then { j' with failed := j'.failed ++ [key], raised := true } else j'
  let at_ := j.cellAt v k
  let place := 2 * posKey at_.1 at_.2 + k % 2
  let keeps := fun (m : NMap Int) => match r with
    | .again => m
    | .accept => NMap.del m place
    | .marginal | .fail => NMap.put m place ((code : Int) - target)
  let j' := { j' with devs := keeps j'.devs }
  let kept := if j'.aborted && !(j'.vits.any fun e => !e.2.cells.isEmpty) then none else some j'
  let c := c.modGal n g fun x =>
    let x := (x.putJob isW kept).groupsDone j' j.slowest j'.slowest
    if j'.aborted then x.setPlane p { x.plane p with devs := keeps (x.plane p).devs } else x
  let forget := fun (d : Chip) => d.modGal n g fun x =>
    x.setPlane p { x.plane p with failed := (x.plane p).failed.filter fun e => decide (e ≠ key) }
  let c := match r with
    | .again => c
    | .accept => if prev then forget (c.cellTransient n g key) else c
    | .marginal => let c := c.cellMarginal n g v; if prev then forget (c.cellTransient n g key) else c
    | .fail => (c.cellFail n g v key p).cellFault n g key prev j.raised
  if r ≠ .again ∧ isW = true ∧ q.next < j'.cellCount ∧ j'.isStaged v q.next = false ∧ j'.starved = false then
    (c.modGal n g fun x => { x with wjob := x.wjob.map fun (w : WriteJob) => { w with starved := true } }).raise (Reg.streamStatus n g) 32 (Reg.streamCtr n g)
  else c

/-- A slice's cell in progress in a plane write. -/
def WriteJob.cellOf (j : WriteJob) (v slice : Nat) : Option CellProg := (j.vit v).cells.find? fun e => decide (e.slice = slice)

/-- A verify by a slice in one plane write: of its cell in progress, or of the vitrine's next cell after its initial pulse.
Answers none where the slice has no cell there and may begin none. -/
def Chip.verifyIn (c : Chip) (n g v slice code : Nat) (isW mayStart : Bool) (j : WriteJob) : Option Chip :=
  let q := j.vit v
  match j.cellOf v slice with
  | some e => some (c.verifyCell n g v isW j { q with cells := q.cells.filter fun z => decide (z.slice ≠ slice) } slice e.idx e.pulses code)
  | none =>
    if mayStart && j.mayBegin v then
      let c := if isW && decide (q.next % 66 = 0) then Chip.takeCodes n g v c (q.next / 66) else c
      let j := if isW then ((c.gal n g).wjob).getD j else j
      some (c.verifyCell n g v isW j { q with next := q.next + 1 } slice q.next 1 code)
    else none

/-- A verify conversion of a cell by an active slice (R88). The spare slice takes no cell (R15); a streaming write begins no
cell while cells of a rehang of its plane are in progress (R142). -/
def cellVerify (n g v slice code : Nat) (c : Chip) : Chip :=
  let x := c.gal n g
  let active := decide ((x.vit v).spare ≠ slice)
  let busyR := match x.rjob with | some r => decide (r.cellOf v slice ≠ none) | none => false
  let blocked := match x.wjob, x.rjob with
    | some w, some r => decide (w.plane = r.plane)
    | _, _ => false
  let first := match x.wjob with
    | some j => c.verifyIn n g v slice code true (active && !blocked && !busyR) j
    | none => none
  match first with
  | some d => d
  | none => match x.rjob with
    | some j => (c.verifyIn n g v slice code false active j).getD c
    | none => c

/-- CELL_VERIFY. -/
def execCellVerify (n : Wing) (g : GalIx) (v : VitIx) (slice : Fin 3) (code : BitVec 10) (s : State) :
    Host.Outcome State Fault Refusal := onChip (cellVerify n.val g.val v.val slice.val code.toNat) s

/-! ### The end of a plane write -/

/-- CMAX of the 64 vitrines for a plane's codes (R85). -/
def cmaxAll (codes : NMap Int) : NMap Nat :=
  codes.foldl (fun m p =>
    let v := 8 * (p.1 / 256 / 64) + p.1 % 256 / 32
    NMap.set (fun _ => 0) m v (max (NMap.get (fun _ => 0) m v) p.2.natAbs)) []

/-- A WRITE has written every cell: the plane counts as written, with its CMAX; its groups restart at the next edge; its tile
is resident again (R85, R89, R138, R252). -/
def Chip.streamDone (c : Chip) (n g : Nat) (j : WriteJob) : Chip :=
  let c := c.writeVerdicts n g j
  let c := c.draw.modGal n g fun x =>
    let x := x.groupsDone j j.slowest j.cellCount
    { x.setPlane j.plane { (x.plane j.plane).fill j.buf j.devs c.free with cmax := cmaxAll j.buf } with wjob := none }
  match ((c.gal n g).plane j.plane).holds with
  | some i => c.modCat i fun e => if e.state = 2 then { e with state := 1 } else e
  | none => c

/-- A rehang has written every cell of its groups: they restart at the next edge. A live rehang then asks for its swap
(R141, R142). -/
def Chip.rehangWritten (c : Chip) (n g : Nat) (j : WriteJob) : Chip :=
  let c := c.writeVerdicts n g j
  let c := c.draw.modGal n g fun x =>
    let x := x.groupsDone j j.slowest j.cellCount
    let y := x.plane j.plane
    let y := if j.form = .live then { y.fill j.buf j.devs c.free with cmax := (x.plane (otherPlane j.plane)).cmax }
      else { y with devs := j.devsIn (fun k => j.order.contains (k / 2 / 264 % 64 / 8)) y.devs, wrote := c.free }
    { x.setPlane j.plane y with rjob := some { j with order := [], vits := [], buf := [], failed := [], devs := [] } }
  if j.form = .live then c.setFlag (Reg.galMode n g) 5 true else c

/-- Every cell of a plane write is done (R87): of the active WRITE once its codes have all been staged, else of the rehang.
Cells that no CELL_VERIFY named are taken as accepted. DESIGN CHOICE (log 54). -/
def planeWriteComplete (n g : Nat) (c : Chip) : Chip :=
  let x := c.gal n g
  let rehang := fun (d : Chip) => match x.rjob with
    | some j => if j.aborted ∨ j.order = [] then d else d.rehangWritten n g j
    | none => d
  match x.wjob with
  | some j =>
    let blocked := match x.rjob with | some r => decide (r.plane = j.plane) | none => false
    if j.staged = 512 ∧ blocked = false then
      let c := (List.range 64).foldl (Chip.passTo n g j.cellCount) c
      match (c.gal n g).wjob with
      | some k => c.streamDone n g { k with vits := j.vits }
      | none => c
    else rehang c
  | none => rehang c

/-- PLANE_WRITE_COMPLETE. -/
def execPlaneWriteComplete (n : Wing) (g : GalIx) (s : State) : Host.Outcome State Fault Refusal :=
  onChip (planeWriteComplete n.val g.val) s

end Sys2Proof.Machine
end

