-- ==== Sys2Proof/Machine/Conservator.lean ====
section
/-! DEFINITION. The Conservator of each wing: temperature and droop (R136 to R139), due, late and expired groups (R140),
rehangs (R141 to R147, R255), and its work at a tick edge (R148). -/

namespace Sys2Proof.Machine

/-! ### Temperature (R137) -/

/-- The even wing whose block holds the watch converter of wing n's die (R127). -/
def dieWing (n : Nat) : Nat := n / 2 * 2

/-- The four sensor channels of wing n (R12). -/
def sensors (n : Nat) : List Nat := (List.range 4).map fun k => n % 2 * 4 + k

/-- Age of a channel's last result at the last edge in half microseconds; none where it has no result since accession. -/
def Chip.sensorAge (c : Chip) (n ch : Nat) : Option Nat :=
  (NMap.get (fun _ => none) (c.die (n / 2)).times ch).map fun t => c.tick.halfUs - 2 * t

/-- Some result of wing n's sensors is older than a limit in microseconds, or missing. -/
def Chip.sensorOld (c : Chip) (n limit : Nat) : Bool :=
  (sensors n).any fun ch => match c.sensorAge n ch with | none => true | some a => decide (2 * limit < a)

/-- T_AGE of wing n (R149). -/
def Chip.tAge (c : Chip) (n : Nat) : Nat := c.fld (Reg.consTemp n) 31 16

/-- The code of 105 °C (R127, R137). -/
def hotCode : Nat := (105 + 64) * 16

/-- The wing's temperature code: the highest latest result of its sensors, or 105 °C in a stale episode, from the edge on at which it
begins (R137). DEDUCED (log 106). -/
def Chip.wingTemp (c : Chip) (n : Nat) : Nat :=
  if (c.wing n).stale || c.sensorOld n (4 * c.tAge n) then hotCode else maxOf ((sensors n).map fun ch => c.fld (Reg.watchResult (dieWing n) ch) 11 0)

/-- The stalest of wing n's sensor channels: one without a result first, then the oldest; ties go to the lower channel. -/
def Chip.stalest (c : Chip) (n : Nat) : Nat :=
  let rank := fun ch => match c.sensorAge n ch with | none => 2 ^ 64 | some a => a
  (sensors n).foldl (fun best ch => if rank best < rank ch then ch else best) (n % 2 * 4)

/-- A stale episode begins: TEMP_STALE is set once (R137). -/
def tempStale (n : Nat) (c : Chip) : Chip :=
  if !(c.wing n).stale && decide (c.wingState n ≠ 3) && c.sensorOld n (4 * c.tAge n) then
    (c.modWing n fun w => { w with stale := true }).raise (Reg.consStatus n) 5 (Reg.consCtr n 5)
  else c

/-- TEMP_STALE. -/
def execTempStale (n : Wing) (s : State) : Host.Outcome State Fault Refusal := onChip (tempStale n.val) s

/-! ### Droop (R136, R138, R139) -/

/-- The greatest y below 2^bits with y^den ≤ bound, by trying each bit from the top. -/
def rootBits (bound den : Nat) : Nat → Nat → Nat
  | 0, y => y
  | k + 1, y => if (y + 2 ^ k) ^ den ≤ bound then rootBits bound den k (y + 2 ^ k) else rootBits bound den k y

/-- 2^(k / den) in units of 2^−24, rounded down, for k < den. -/
def fracPow (k den : Nat) : Nat := rootBits (2 ^ k * 2 ^ (24 * den)) den 25 0

/-- The droop of one tick in units of 2^−24 at a temperature code: round_even(λ(T) × period × 2^24) with λ computed with the
given error in units of 1/10,000 (R136, R138). `rate` is RATE85 in units of 2^−40 per µs and `dbl` DOUBLE in 1/16 °C. -/
def droopStep (rate dbl p code : Nat) (err : Int) : Nat :=
  if dbl = 0 then 0
  else
    let x : Int := (code : Int) - (85 + 64) * 16
    let q := x / (dbl : Int)
    let r := (x % (dbl : Int)).toNat
    let num : Int := rate * p * fracPow r dbl * (10000 + err) * 2 ^ q.toNat
    (roundEven num (2 ^ (17 + 24) * 10000 * 2 ^ (-q).toNat)).toNat

/-- The droop of wing n's groups in the tick that this edge ends, whose period is given (R28, R148). The error of λ is a free value within
1 % (log 3). -/
def Chip.droopNow (c : Chip) (n p : Nat) : Nat :=
  droopStep (c.fld (Reg.consInterval n) 63 32) (c.fld (Reg.consTemp n) 39 32) p (c.wingTemp n)
    ((Config.droopError (c.free + n) % 201 : Nat) - 100)

/-- DG of a droop (R139). -/
def driveGain (d : Nat) : Nat := min 255 (roundEven (4096 * d) (2 ^ 24 - d)).toNat

/-- A plane's groups at a tick edge: those that completed restart, the others age and droop (R138). -/
def PlaneSt.atEdge (y : PlaneSt) (step : Nat) : PlaneSt :=
  if !y.written && y.restart.isEmpty then y
  else
    let fresh := fun m => y.restart.contains m
    let age := (List.range 8).foldl (fun a m =>
      NMap.set (fun _ => 0) a m (if fresh m then 0 else if y.written then min (NMap.get (fun _ => 0) a m + 1) 0xFFFFFF
        else NMap.get (fun _ => 0) a m)) y.age
    let droop := (List.range 8).foldl (fun a m =>
      NMap.set (fun _ => 0) a m (if fresh m then 0 else if y.written then min (NMap.get (fun _ => 0) a m + step) 0xFFFFFF
        else NMap.get (fun _ => 0) a m)) y.droop
    { y with age := age, droop := droop, restart := [] }

/-- What was told of a plane's groups is forgotten where it no longer holds, and the expiry event once none is expired (R140). -/
def Chip.forget (c : Chip) (n : Nat) (y : PlaneSt) : PlaneSt :=
  let keep := fun (f : NMap Bool) num den => f.filter fun p => c.groupPast n y p.1 num den
  { y with due := keep y.due 7 8, late := keep y.late 1 1, expired := keep y.expired 4 1, expRaised := y.expRaised && c.anyExpired n y }

/-- A plane's group has a mark. -/
def hasMark (f : NMap Bool) (m : Nat) : Bool := NMap.get (fun _ => false) f m

/-- Group m of a plane is due and not about to restart (R140). -/
def Chip.isDue (c : Chip) (n : Nat) (y : PlaneSt) (m : Nat) : Bool := c.groupPast n y m 7 8 && !y.restart.contains m

/-- Some group of a plane is due and not about to restart. -/
def Chip.anyDue (c : Chip) (n : Nat) (y : PlaneSt) : Bool := (List.range 8).any (c.isDue n y)

/-- The Conservator's work on one gallery at a tick edge: ages, droop and DG (R138, R139). The due episode of a live plane
ends when none of its groups is due (R142). -/
def Chip.consGal (c : Chip) (n g step : Nat) : Chip :=
  let x := c.gal n g
  let x := { x with planeA := c.forget n (x.planeA.atEdge step), planeB := c.forget n (x.planeB.atEdge step) }
  let x := if c.anyDue n (x.plane (c.livePlane n g)) then x else { x with conflict := false, conflictTold := false }
  let dg := fun (y : PlaneSt) => w64 ((List.range 8).foldl (fun v m => v + driveGain (NMap.get (fun _ => 0) y.droop m) * 2 ^ (8 * m)) 0)
  ((c.setGal n g x).wr (Reg.consGain n g 0) (dg x.planeA)).wr (Reg.consGain n g 1) (dg x.planeB)

/-! ### Due, late and expired (R140) -/

/-- The token that a Conservator puts to the Registrar for a conflict (0) or a moved source (1) of a gallery's plane (R231). DESIGN CHOICE
(log 51): bit 0 tells the two apart, and all other bits are free. -/
def consNotice (kind g p : Nat) : Word := (Config.consNoticeBits kind g p &&& ~~~1) ||| w64 (kind % 2)

/-- A plane is in use (R140): it holds a tile, is the live plane in streaming mode, or its gallery runs in resident mode. -/
def Chip.inUse (c : Chip) (n g : Nat) (p : Plane) : Bool :=
  ((c.gal n g).plane p).holds.isSome || c.resident n g || decide (c.livePlane n g = p)

/-- The idle plane of a live rehang is free (R142). -/
def Chip.idleFree (c : Chip) (n g : Nat) : Bool :=
  let x := c.gal n g
  (x.plane (otherPlane (c.livePlane n g))).holds.isNone && x.wjob.isNone && x.pendW.isEmpty && !c.swapPend n g && !c.rhSwap n g

/-- A group has reached a threshold, in a wing whose Conservator runs. -/
def Chip.groupReaches (c : Chip) (n g : Nat) (p : Plane) (m num den : Nat) : Bool :=
  let y := (c.gal n g).plane p
  c.groupPast n y m num den && decide (c.wingState n ≠ 3) && !y.restart.contains m

/-- A group becomes due. A live plane whose idle plane is not free sets CONFLICT, once per due episode, and the Conservator reports it to
the Registrar in queue n (R142, R231). DESIGN CHOICE (log 61). -/
def groupDue (n g : Nat) (p : Plane) (m : Nat) (c : Chip) : Chip :=
  let y := (c.gal n g).plane p
  if c.groupReaches n g p m 7 8 && !hasMark y.due m then
    let c := c.modGal n g fun x => x.setPlane p { x.plane p with due := NMap.put (x.plane p).due m true }
    let ownRehang := match (c.gal n g).rjob with | some j => decide (j.form = .live) | none => false
    if !c.resident n g && decide (c.livePlane n g = p) && !c.idleFree n g && !ownRehang && !(c.gal n g).conflict then
      ((c.modGal n g fun x => { x with conflict := true, conflictTold := false }).raise (Reg.consStatus n) 3 (Reg.consCtr n 3)).putHw n
        (consNotice 0 g (planeIx p))
    else c
  else c

/-- GROUP_DUE. -/
def execGroupDue (n : Wing) (g : GalIx) (p : Plane) (m : Fin 8) (s : State) : Host.Outcome State Fault Refusal :=
  onChip (groupDue n.val g.val p m.val) s

/-- The Registrar, told of a conflict, moves the gallery's role once a group of the live plane is late while the idle plane is
still not free, if RCONF is 1 and the move is possible (R265). -/
def Chip.conflictMove (c : Chip) (n g : Nat) : Chip :=
  let x := c.gal n g
  if x.conflict && x.conflictTold && c.flag Reg.regCtrl 48 && !c.resident n g &&
      ((List.range 8).any fun m => c.groupPast n (x.plane (c.livePlane n g)) m 1 1) && !c.idleFree n g && c.holdsRole n g && c.canMoveRole n g then
    c.askMove { wing := n, gal := g, tile := none, pausedAt := none, conflict := true }
  else c

/-- A group becomes late. In a plane in use it sets LATE (R140). -/
def groupLate (n g : Nat) (p : Plane) (m : Nat) (c : Chip) : Chip :=
  let y := (c.gal n g).plane p
  if c.groupReaches n g p m 1 1 && !hasMark y.late m then
    let c := c.modGal n g fun x => x.setPlane p { x.plane p with late := NMap.put (x.plane p).late m true }
    (if c.inUse n g p then c.raise (Reg.consStatus n) 0 (Reg.consCtr n 0) else c).conflictMove n g
  else c

/-- GROUP_LATE. -/
def execGroupLate (n : Wing) (g : GalIx) (p : Plane) (m : Fin 8) (s : State) : Host.Outcome State Fault Refusal :=
  onChip (groupLate n.val g.val p m.val) s

/-- A group expires. In a plane that holds a tile it sets EXPIRED and raises the plane's tier 1 event, once (R140). -/
def groupExpired (n g : Nat) (p : Plane) (m : Nat) (c : Chip) : Chip :=
  let y := (c.gal n g).plane p
  if c.groupReaches n g p m 4 1 && !hasMark y.expired m then
    let c := c.modGal n g fun x => x.setPlane p { x.plane p with expired := NMap.put (x.plane p).expired m true }
    if y.holds.isSome then c.expiryEvent n g p m else c
  else c

/-- GROUP_EXPIRED. -/
def execGroupExpired (n : Wing) (g : GalIx) (p : Plane) (m : Fin 8) (s : State) : Host.Outcome State Fault Refusal :=
  onChip (groupExpired n.val g.val p m.val) s

/-! ### Rehangs (R141 to R147) -/

/-- The source of plane p still has the generation recorded for it, and a watch (R146, R254, R255). -/
def Chip.sourceOk (c : Chip) (n g : Nat) (p : Plane) : Bool :=
  let y := (c.gal n g).plane p
  y.watched && decide ((c.catNow y.srcTile).gen = c.fld (Reg.consSrc n g (planeIx p)) 63 48)

/-- A plane's source is found moved: SRC_MOVED, and a notice to the Registrar in queue n, once for the plane (R146, R231).
DESIGN CHOICE (log 61). -/
def Chip.srcMoved (c : Chip) (n g : Nat) (p : Plane) : Chip :=
  if ((c.gal n g).plane p).moved then c
  else
    ((c.modGal n g fun x => x.setPlane p { x.plane p with moved := true }).raise (Reg.consStatus n) 4 (Reg.consCtr n 4)).putHw n
      (consNotice 1 g (planeIx p))

/-- A rehang of one form that could start, but for its source and the wing's limit: the plane it refreshes. -/
def Chip.rehangReady (c : Chip) (n g : Nat) (form : WriteForm) (p : Plane) : Bool :=
  let x := c.gal n g
  let y := x.plane p
  c.anyDue n y && x.rjob.isNone && decide (c.wingState n ≠ 3) && !c.halted &&
  match form with
  | .live => !c.resident n g && decide (c.livePlane n g = p) && c.idleFree n g
  | .idle => !c.resident n g && decide (c.livePlane n g ≠ p) && y.holds.isSome && x.wjob.isNone && x.pendW.isEmpty && !c.swapPend n g && !c.rhSwap n g
  | .resident =>
    c.resident n g && (match x.rhOpen with | some o => decide (o = p) | none => true) &&
      (match x.wjob with | some j => decide (j.plane ≠ p) | none => true) &&
      !(x.mvms.any fun m => decide (m.plane = p) && !m.ended && !m.noSlot) &&
      (match x.slotEnd with | some e => decide (e + c.fld (Reg.consCtrl n) 27 24 + 1 ≤ c.tick.edges) | none => true)
  | .stream => false

/-- Rehangs in progress in wing n (R145). -/
def Chip.rehangs (c : Chip) (n : Nat) : Nat := (c.galsOf n).countP fun g => (c.gal n g).rhActive

/-- The largest D among a plane's groups. -/
def PlaneSt.maxDroop (y : PlaneSt) : Nat := maxOf ((List.range 8).map fun m => NMap.get (fun _ => 0) y.droop m)

/-- The rehangs of wing n that could start now, as (droop, gallery, plane). -/
def Chip.candidates (c : Chip) (n : Nat) : List (Nat × Nat × Nat) :=
  (c.galsOf n).flatMap fun g => [Plane.A, Plane.B].filterMap fun p =>
    if (c.gal n g).rhOpen.isNone && ([WriteForm.live, .idle, .resident].any fun f => c.rehangReady n g f p) && c.sourceOk n g p then
      some (((c.gal n g).plane p).maxDroop, g, planeIx p)
    else none

/-- A candidate goes before another: larger D, then lower gallery, then plane A (R145). -/
def candBefore (a b : Nat × Nat × Nat) : Bool :=
  decide (a.1 > b.1 ∨ (a.1 = b.1 ∧ (a.2.1 < b.2.1 ∨ (a.2.1 = b.2.1 ∧ a.2.2 < b.2.2))))

/-- The wing's limit and order let the rehang of gallery g and plane p start: no other plane of its gallery goes before it, and the
galleries that do leave room (R145). -/
def Chip.rehangTurn (c : Chip) (n g : Nat) (p : Plane) : Bool :=
  let ahead := ((c.candidates n).filter fun k => candBefore k (((c.gal n g).plane p).maxDroop, g, planeIx p)).map fun k => k.2.1
  !ahead.contains g && decide (c.rehangs n + ahead.eraseDups.length < max (c.fld (Reg.consCtrl n) 8 0) 1)

/-- The codes that a rehang reads from its source (R141), as codes of a plane. -/
def Chip.readSource (c : Chip) (n g : Nat) (p : Plane) : Chip × NMap Int :=
  let (c, bs) := c.useRange (.gallery n g) (c.fld (Reg.consSrc n g (planeIx p)) 43 0) 131072 (c.galTask n g)
  (c, putCodes [] 0 bs)

/-- The row groups of a plane in descending order of a measure, ties to the lower group. DEDUCED (log 57). -/
def groupsBy (f : Nat → Nat) (ms : List Nat) : List Nat :=
  ms.foldl (fun acc m =>
    let before := acc.takeWhile fun k => decide (f k > f m ∨ (f k = f m ∧ k < m))
    before ++ m :: acc.drop before.length) []

/-- A rehang starts: its job, its codes read, its tile in state rehang (R141). -/
def Chip.rehangBegin (c : Chip) (n g : Nat) (form : WriteForm) (p : Plane) (order : List Nat) (vits : NMap VitProg) : Chip :=
  let (c, buf) := c.readSource n g p
  let src := c.fld (Reg.consSrc n g (planeIx p)) 43 0
  let c := match ((c.gal n g).plane p).holds with
    | some i => c.modCat i fun e => if e.state = 1 then { e with state := 3 } else e
    | none => c
  let j : WriteJob :=
    { form := form, plane := if form = .live then otherPlane p else p, tag := { task := none, due := 0, budget := 1 }, src := src,
      order := order, staged := 512, buf := buf, vits := vits, raised := false, failed := [], devs := [], starved := false, aborted := false }
  c.modGal n g fun x =>
    let j := { j with devs := (x.plane j.plane).devs.filter fun d => j.begun d.1, raised := !x.rhFailed.isEmpty, failed := x.rhFailed }
    { x with rjob := some j }

/-- A rehang of plane p starts if it is ready and its turn has come; a moved source sets SRC_MOVED instead (R145, R146). A resident rehang
that is open then ends: what becomes of it the spec leaves open. DESIGN CHOICE (log 105). -/
def Chip.tryRehang (c : Chip) (n g : Nat) (form : WriteForm) (p : Plane) (order : List Nat) (vits : NMap VitProg) : Chip :=
  if c.rehangReady n g form p then
    if !c.sourceOk n g p then (c.srcMoved n g p).abortRehang n g false
    else if (c.gal n g).rhOpen.isSome || c.rehangTurn n g p then c.rehangBegin n g form p order vits
    else c
  else c

/-- A live rehang starts writing the idle plane (R142). -/
def liveRehangStart (n g : Nat) (c : Chip) : Chip := c.tryRehang n g .live (c.livePlane n g) (List.range 8) []

/-- LIVE_REHANG_START. -/
def execLiveRehangStart (n : Wing) (g : GalIx) (s : State) : Host.Outcome State Fault Refusal :=
  onChip (liveRehangStart n.val g.val) s

/-- An idle rehang starts, group by group from the oldest (R143). -/
def idleRehangStart (n g : Nat) (c : Chip) : Chip :=
  let p := otherPlane (c.livePlane n g)
  c.tryRehang n g .idle p (groupsBy (fun m => NMap.get (fun _ => 0) ((c.gal n g).plane p).age m) (List.range 8)) []

/-- IDLE_REHANG_START. -/
def execIdleRehangStart (n : Wing) (g : GalIx) (s : State) : Host.Outcome State Fault Refusal :=
  onChip (idleRehangStart n.val g.val) s

/-- The groups that a refresh slot of plane p writes: those partly rewritten first, then the others that are due by D (R144). -/
def Gal.slotOrder (x : Gal) (p : Plane) (due : Nat → Bool) : List Nat :=
  let y := x.plane p
  let more := (List.range 8).filter fun m => due m && !x.rhLeft.contains m
  x.rhLeft ++ groupsBy (fun m => NMap.get (fun _ => 0) y.droop m) more

/-- A refresh slot begins on a plane (R144). -/
def refreshSlotStart (n g : Nat) (p : Plane) (c : Chip) : Chip :=
  let x := c.gal n g
  let d := c.tryRehang n g .resident p (x.slotOrder p (c.isDue n (x.plane p))) x.rhParts
  if (d.gal n g).rjob.isSome ∧ x.rjob = none then
    d.modGal n g fun x => { x with rhOpen := some p, rhParts := [], rhLeft := [], slotStart := some c.tick.edges }
  else d

/-- REFRESH_SLOT_START. -/
def execRefreshSlotStart (n : Wing) (g : GalIx) (p : Plane) (s : State) : Host.Outcome State Fault Refusal :=
  onChip (refreshSlotStart n.val g.val p) s

/-- What a refresh slot leaves partly rewritten: the groups that some vitrine has begun, and each vitrine's place in them. -/
def WriteJob.leftOver (j : WriteJob) : List Nat × NMap VitProg :=
  let done := j.slowest / 528
  let far := maxOf (j.vits.map fun p => p.2.next)
  ((j.order.take ((far + 527) / 528)).drop done,
   j.vits.filterMap fun (p : Nat × VitProg) =>
     if p.2.next ≤ 528 * done then none else some (p.1, { p.2 with next := p.2.next - 528 * done, cells := [] }))

/-- Every cell of a plane write is done. -/
def WriteJob.finished (j : WriteJob) : Bool := j.order.isEmpty || decide (j.slowest = j.cellCount)

/-- A refresh slot of a gallery ends at a time given in ticks: the cells that it has begun are done (R144), its plane keeps what it wrote,
and the groups left partly rewritten wait for the next one. -/
def Chip.closeSlot (c : Chip) (n g ends : Nat) (j : WriteJob) : Chip :=
  let k := { j with vits := j.vits.map fun (p : Nat × VitProg) => (p.1, { p.2 with cells := [] }) }
  let c := if j.order.isEmpty then c else c.writeVerdicts n g k.doneOnly
  let (left, parts) := k.leftOver
  c.draw.modGal n g fun x =>
    let x := x.groupsDone k j.slowest k.slowest
    let y := x.plane j.plane
    let y := if j.order.isEmpty then y else { y with devs := j.devsIn j.begun y.devs, wrote := c.free }
    { x.setPlane j.plane y with rjob := none, rhLeft := left, rhParts := parts, rhFailed := k.failed, slotStart := none, slotEnd := some ends }

/-- A refresh slot ends at the RT-th edge after it began, or at the first slot boundary after its groups are rewritten (R144): at the last
edge where that was done before it, else within the tick, so that the next whole tick counts from the edge after. DEDUCED (log 107). -/
def refreshSlotEnd (n g : Nat) (c : Chip) : Chip :=
  let x := c.gal n g
  match x.rjob, x.slotStart with
  | some j, some e =>
    let last := e + c.fld (Reg.consCtrl n) 19 16 + 1
    if j.form ≠ .resident then c
    else if last ≤ c.tick.edges then c.closeSlot n g last j
    else if j.finished then c.closeSlot n g (if (x.plane j.plane).restart.isEmpty then c.tick.edges else c.tick.edges + 1) j
    else c
  | _, _ => c

/-- REFRESH_SLOT_END. -/
def execRefreshSlotEnd (n : Wing) (g : GalIx) (s : State) : Host.Outcome State Fault Refusal :=
  onChip (refreshSlotEnd n.val g.val) s

/-- A rehang completes: an idle one when every group is rewritten, a resident one after the first slot that leaves no group
due; a live one completed at its swap (R150). -/
def rehangComplete (n g : Nat) (c : Chip) : Chip :=
  let x := c.gal n g
  let finish := fun (d : Chip) (p : Plane) => (d.endRehangState (x.plane p)).countBy (Reg.consCount n) 1
  match x.rjob, x.rhOpen with
  | some j, _ =>
    if j.form = .idle ∧ j.order = [] ∧ j.aborted = false then finish (c.setGal n g { x with rjob := none }) j.plane else c
  | none, some p =>
    if c.anyDue n (x.plane p) then c
    else finish (c.setGal n g { x with rhOpen := none, rhParts := [], rhLeft := [], rhFailed := [] }) p
  | none, none => c

/-- REHANG_COMPLETE. -/
def execRehangComplete (n : Wing) (g : GalIx) (s : State) : Host.Outcome State Fault Refusal :=
  onChip (rehangComplete n.val g.val) s

/-- A rehang read finds its source moved: no new cell begins, and SRC_MOVED is set (R255). -/
def movedResponse (n g : Nat) (c : Chip) : Chip :=
  match (c.gal n g).rjob with
  | none => c
  | some j =>
    let p := if j.form = .live then otherPlane j.plane else j.plane
    if j.aborted ∨ j.order = [] ∨ c.sourceOk n g p = true then c else (c.srcMoved n g p).abortRehang n g false

/-- MOVED_RESPONSE. -/
def execMovedResponse (n : Wing) (g : GalIx) (s : State) : Host.Outcome State Fault Refusal :=
  onChip (movedResponse n.val g.val) s

end Sys2Proof.Machine
end

