-- ==== Sys2Proof/Machine/Converter.lean ====
section
/-! DEFINITION. Converter slices and the watch converters: spare rotation (R116, R117), calibration (R118, R119), column
coefficients (R121 to R125), and the watch sequence with its urgent requests and thermal check (R127 to R130, R444). -/

namespace Sys2Proof.Machine

/-! ### Rotation and calibration -/

/-- SPARE_SEL of a wing (R131). -/
def Chip.spareSelNow (c : Chip) (n : Nat) : Nat := c.fld (Reg.spareSel n) 1 0

/-- ROT_SLOTS in force: values below 64 behave as 64 (R131). -/
def Chip.rotSlots (c : Chip) (n : Nat) : Nat := max (c.fld (Reg.convRot n) 15 0) 64

/-- A rotation point: every ROT_SLOTS slots while SPARE_SEL is 3 (R116). One that falls inside the tick in progress counts. -/
def spareRotationPoint (n : Nat) (c : Chip) : Chip :=
  if c.spareSelNow n = 3 ∧ (c.wing n).rotSlot + c.rotSlots n < c.tick.slotCount + c.slots then
    c.modWing n fun w => { w with rotSlot := w.rotSlot + c.rotSlots n, rotCount := w.rotCount + 1 }
  else c

/-- SPARE_ROTATION_POINT. -/
def execSpareRotationPoint (n : Wing) (s : State) : Host.Outcome State Fault Refusal := onChip (spareRotationPoint n.val) s

/-- Slice k of vitrine v has a cell write in progress (R116). -/
def Gal.sliceBusy (x : Gal) (v k : Nat) : Bool :=
  (match x.wjob with | some j => (j.cellOf v k).isSome | none => false) ||
  (match x.rjob with | some j => (j.cellOf v k).isSome | none => false)

/-- The slice that a vitrine's spare index is to move to, if any: the next one after a rotation point not yet carried out, or
the one that SPARE_SEL fixes (R116, R117). -/
def Chip.rotateTo (c : Chip) (n g v : Nat) : Option Nat :=
  let t := (c.gal n g).vit v
  if c.spareSelNow n = 3 then (if t.rotSeen < (c.wing n).rotCount then some ((t.spare + 1) % 3) else none)
  else if t.spare = c.spareSelNow n then none else some (c.spareSelNow n)

/-- A vitrine moves its spare index once its spare is calibrated and the slice that becomes spare has no cell in progress; the
new spare starts its calibration (R116 to R118). A vitrine with a bad slice has stopped rotating (R119). -/
def vitrineRotate (n g v : Nat) (c : Chip) : Chip :=
  let x := c.gal n g
  let t := x.vit v
  match c.rotateTo n g v with
  | some k =>
    if !c.calBusyNow n t && !t.stale && !x.sliceBusy v k then
      c.setGal n g (x.modVit v fun t => { t with
        spare := k, calBusy := true, calRetried := false, calDone := false, fixSeen := NMap.get (fun _ => 0) (c.wing n).fixEnd k,
        rotSeen := (c.wing n).rotCount })
    else c
  | none => c

/-- VITRINE_ROTATE. -/
def execVitrineRotate (n : Wing) (g : GalIx) (v : VitIx) (s : State) : Host.Outcome State Fault Refusal :=
  onChip (vitrineRotate n.val g.val v.val) s

/-- A second failed calibration: the slice is bad, CAL_FAIL and CALF are set, rotation stops, and the verdict is HARD at once,
so the vitrine is fenced (R119, R375). -/
def Chip.calibrationBad (c : Chip) (n g v k : Nat) : Chip :=
  let c := c.modGal n g fun x => x.modVit v fun t => { t with bad := t.bad ||| 2 ^ k, stale := true, calBusy := false }
  let c := (c.raise (Reg.convStatus n) 0 (Reg.convCtr n 0)).raise (Reg.galFlt n g) 2 (Reg.galFltCtr n g 2)
  (c.fenceGal n g (BitVec.ofNat 64 (2 ^ v))
    { tier := 1, level := 0, wing := n, source := 0x04, gallery := g, unit := v, task := (c.galTask n g).getD 0, verdict := 3,
      detail := k }).setFld (Reg.galFltState n g) 6 4 3

/-- A calibration ends: it passes, with new trims (R118), is repeated once with CAL_RETRY, or marks its slice bad (R118, R119). A spare that
SPARE_SEL fixes then begins the next (R117). -/
def calibrationComplete (n g v : Nat) (passed : Bool) (c : Chip) : Chip :=
  let t := (c.gal n g).vit v
  if t.stale || !c.calBusyNow n t then c
  else if passed then
    c.draw.modGal n g fun x => x.modVit v fun t => { t with
      calBusy := false, calRetried := false, calDone := true, fixSeen := NMap.get (fun _ => 0) (c.wing n).fixEnd t.spare,
      trims := NMap.put t.trims t.spare c.free }
  else if t.calRetried then c.calibrationBad n g v t.spare
  else (c.modGal n g fun x => x.modVit v fun t => { t with calBusy := true, calRetried := true }).raise (Reg.convStatus n) 2 (Reg.convCtr n 2)

/-- CALIBRATION_COMPLETE. -/
def execCalibrationComplete (n : Wing) (g : GalIx) (v : VitIx) (passed : Bool) (s : State) : Host.Outcome State Fault Refusal :=
  onChip (calibrationComplete n.val g.val v.val passed) s

/-! ### Column coefficients -/

/-- A coefficient stored under its index (R133). -/
def Gal.putCoef (x : Gal) (i : Nat) (v : Int) : Gal :=
  { x with coef := NMap.put x.coef i (BitVec.ofInt 16 v) }

/-- The coefficients of a measured column: the offset o, and where r − z is positive the gain ratio and m[x] (R123). `old` gives the ratios
measured before. -/
def Gal.measured (x : Gal) (old : Nat → Int) (p : Plane) (v col gain : Nat) (z r : Int) : Gal :=
  let x := x.putCoef (planeIx p * 4096 + 264 + 33 * v + col) (clamp16 (4 * z * (lsb gain : Int)))
  if r - z ≤ 0 then x
  else
    let x := { x with rdiff := NMap.put x.rdiff (rdiffKey p v col) (r - z) }
    let ix := if col < 32 then 32 * (v % 8) + col else 256 + v % 8
    x.putCoef (planeIx p * 4096 + ix) (slopeAt p ix fun k => (NMap.find x.rdiff k).getD (old k))

/-- A write to plane p's cells is outstanding in a vitrine (R121). -/
def Gal.cellsBusy (x : Gal) (p : Plane) (v : Nat) : Bool :=
  (match x.wjob with | some j => decide (j.plane = p) && j.vitBusy v | none => false) ||
  (match x.rjob with | some j => decide (j.plane = p) && j.vitBusy v | none => false)

/-- A sweep's place moves on after a column; a full sweep of a plane ends its age, unless a gain ratio failed (R121, R123,
R125). -/
def VitSt.advanceSweep (t : VitSt) (bad : Bool) (now : Nat) : VitSt :=
  let bad := t.sweepBad || bad
  if t.sweepCol < 32 then { t with sweepCol := t.sweepCol + 1, sweepBad := bad }
  else
    let t := if bad then t else match t.sweepPlane with
      | .A => { t with sweptA := now, agedA := none }
      | .B => { t with sweptB := now, agedB := none }
    { t with sweepCol := 0, sweepPlane := otherPlane t.sweepPlane, sweepBad := false }

/-- An MVM in progress drives a vitrine on plane P in each of its slots, so that it leaves the vitrine no free slot (R121). -/
def Gal.drivesAll (x : Gal) (p : Plane) (v : Nat) : Bool :=
  x.mvms.any fun m => decide (m.plane = p ∧ 0 < maxOf m.runs ∧ nth 0 m.runs (v / 8) = maxOf m.runs) && !m.ended

/-- The spare, calibrated, completes the 8 conversions of the column its sweep has reached (R121, R123). With HOLD set, hardware updates no
coefficient (R126). While an MVM leaves no free slot, no column is completed. DEDUCED (log 108). -/
def columnMeasureDone (n g v : Nat) (p : Plane) (col : Nat) (z r : List Int) (c : Chip) : Chip :=
  let x := c.gal n g
  let t := x.vit v
  if c.calBusyNow n t || !t.calDone || t.stale || x.drivesAll p v || decide (t.sweepPlane ≠ p ∨ t.sweepCol ≠ col ∨ z.length ≠ 4 ∨ r.length ≠ 4) || x.cellsBusy p v ||
      decide (c.wingState n = 3) then c
  else
    let zs := sumInt z
    let rs := sumInt r
    let x := if c.flag (Reg.corrIndex n g) 16 then x else x.measured (c.sweptRatio n g) p v col (c.gainOf x p c.censusStep) zs rs
    c.setGal n g (x.modVit v fun t => t.advanceSweep (decide (rs - zs ≤ 0)) c.tick.slotCount)

/-- COLUMN_MEASURE_DONE. -/
def execColumnMeasureDone (n : Wing) (g : GalIx) (v : VitIx) (p : Plane) (col : Fin 33) (z r : List Int) (s : State) :
    Host.Outcome State Fault Refusal := onChip (columnMeasureDone n.val g.val v.val p col.val z r) s

/-- A vitrine's slots since its last full sweep of a plane cross AGE_LIMIT, in units of 64 slots (R125, R131). A limit raised later may be
crossed again. -/
def coefAged (n g v : Nat) (p : Plane) (c : Chip) : Chip :=
  let t := (c.gal n g).vit v
  let swept := match p with | .A => t.sweptA | .B => t.sweptB
  let told := match p with | .A => t.agedA | .B => t.agedB
  let limit := c.fld (Reg.convRot n) 31 16
  if decide (64 * limit < c.tick.slotCount - swept) && (match told with | some l => decide (l < limit) | none => true) then
    (c.modGal n g fun x => x.modVit v fun t => match p with | .A => { t with agedA := some limit } | .B => { t with agedB := some limit }).raise
      (Reg.convStatus n) 1 (Reg.convCtr n 1)
  else c

/-- COEF_AGED. -/
def execCoefAged (n : Wing) (g : GalIx) (v : VitIx) (p : Plane) (s : State) : Host.Outcome State Fault Refusal :=
  onChip (coefAged n.val g.val v.val p) s

/-! ### Watch converters -/

/-- Number of an urgent source, in the order they are served (R129). -/
def urgentIx : UrgentSrc → Nat
  | .thermal => 0
  | .consEven => 1
  | .consOdd => 2

/-- An urgent request of a source: a second one while its first is pending is merged, takes the channel, and sets URG_MERGE
(R129). -/
def Chip.urgent (c : Chip) (d src ch : Nat) : Chip :=
  let c := if (NMap.find (c.die d).urgent src).isSome then c.raise (Reg.watchStatus (2 * d)) 2 (Reg.watchCtr (2 * d) 2) else c
  c.modDie d fun x => { x with urgent := NMap.put x.urgent src ch }

/-- The Conservator of wing n asks for the stalest of its channels when one is older than T_AGE, once at an edge (R137). -/
def Chip.consAsks (c : Chip) (n src ch : Nat) : Chip :=
  let d := n / 2
  if decide (c.wingState n ≠ 3 ∧ ch = c.stalest n ∧ c.tick.edges ≠ 0 ∧ NMap.get (fun _ => 0) (c.die d).asked src ≠ c.tick.edges) &&
      c.sensorOld n (c.tAge n) then
    (c.modDie d fun x => { x with asked := NMap.put x.asked src c.tick.edges }).urgent d src ch
  else c

/-- The thermal check's request for a channel whose result exceeded WARN (R130). -/
def Chip.thermalAsks (c : Chip) (d ch : Nat) : Chip :=
  if (c.die d).hot.contains ch then (c.modDie d fun x => { x with hot := x.hot.erase ch }).urgent d 0 ch else c

/-- A request is made: by the thermal check, or by a Conservator (R129, R130, R137). -/
def urgentRequest (d : Nat) (src : UrgentSrc) (ch : Nat) (c : Chip) : Chip :=
  match src with
  | .thermal => c.thermalAsks d ch
  | .consEven => c.consAsks (2 * d) 1 ch
  | .consOdd => c.consAsks (2 * d + 1) 2 ch

/-- URGENT_REQUEST. -/
def execUrgentRequest (d : Fin 8) (src : UrgentSrc) (ch : Fin 16) (s : State) : Host.Outcome State Fault Refusal :=
  onChip (urgentRequest d.val src ch.val) s

/-- Nominal millivolts and tolerance in percent of the rail on watch channels 8 to 12 (R438). -/
def rail : Nat → Option (Nat × Nat)
  | 8 => some (800, 3)
  | 9 => some (750, 3)
  | 10 => some (1200, 2)
  | 11 => some (1500, 3)
  | 12 => some (750, 3)
  | _ => none

/-- A supply result compared with its band, widened by 0.2 % and 1 mV (R127, R444): SUPPLY_LOW or SUPPLY_HIGH. -/
def Chip.supplyCheck (c : Chip) (d ch code : Nat) : Chip :=
  match rail ch with
  | none => c
  | some (mv, tol) =>
    let note := fun (d' : Chip) => d'.setFld Reg.pwrStatus 27 8 (d + ch * 2 ^ 4 + code * 2 ^ 8)
    if code * 500000 + 1000000 < mv * 10 * (100 - tol) * 998 then (note c).raise Reg.pwrStatus 0 (Reg.pwrCtr 0)
    else if mv * 10 * (100 + tol) * 1002 + 1000000 < code * 500000 then (note c).raise Reg.pwrStatus 1 (Reg.pwrCtr 1)
    else c

/-- The thermal check of a temperature result (R130): one above WARN that is not its own request's has it ask for the channel. `src` is the
urgent request that the result answers, if any.
DEDUCED (log 60). -/
def Chip.thermalCheck (c : Chip) (d ch code : Nat) (src : Option Nat) : Chip :=
  if 8 ≤ ch ∨ code ≤ c.fld (Reg.watchTherm (2 * d)) 11 0 then
    if ch < 8 ∧ src = some 0 ∧ c.fld (Reg.watchTherm (2 * d)) 27 16 < code then
      (c.raise (Reg.watchStatus (2 * d)) 1 (Reg.watchCtr (2 * d) 1)).faultTier3
        { tier := 3, level := 2, wing := 2 * d + ch / 4, source := 0x0D, gallery := 0, unit := 0, task := 0, verdict := 0, detail := code }
    else c
  else if src = some 0 then
    let c := c.raise (Reg.watchStatus (2 * d)) 0 (Reg.watchCtr (2 * d) 0)
    if c.fld (Reg.watchTherm (2 * d)) 27 16 < code then
      (c.raise (Reg.watchStatus (2 * d)) 1 (Reg.watchCtr (2 * d) 1)).faultTier3
        { tier := 3, level := 2, wing := 2 * d + ch / 4, source := 0x0D, gallery := 0, unit := 0, task := 0, verdict := 0, detail := code }
    else c
  else c.modDie d fun x => { x with hot := x.hot ++ [ch] }

/-- One conversion's result recorded and checked (R128 to R130, R444). -/
def Chip.watchResultIn (c : Chip) (d ch code : Nat) (src : Option Nat) : Chip :=
  let c := c.wr (Reg.watchResult (2 * d) ch) (w64 (code + b2n src.isSome * 2 ^ 15 + c.tickCount * 2 ^ 16))
  let c := c.modDie d fun x => { x with times := NMap.put x.times ch (some ((c.tick.halfUs + 1) / 2 + x.count)) }
  (c.thermalCheck d ch code src).supplyCheck d ch code

/-- A 1 µs boundary of die d's watch converter (R128, R129): an urgent request is converted first, else the entry due; `code`
is what the conversion measures. What the thermal check asks for at a result it has asked for by then (R130). -/
def watchConversion (d code : Nat) (c : Chip) : Chip :=
  if c.up then
    let c := (c.die d).hot.foldl (fun d' ch => d'.thermalAsks d ch) c
    let c := c.modDie d fun x => { x with count := x.count + 1 }
    match (c.die d).urgent with
    | (src, ch) :: rest => (c.modDie d fun x => { x with urgent := rest }).watchResultIn d ch code (some src)
    | [] =>
      if c.flag (Reg.watchCtrl (2 * d)) 8 then
        let pos := c.fld (Reg.watchCtrl (2 * d)) 20 16
        let c := if pos = 0 then c.modDie d fun x => { x with lenNow := c.fld (Reg.watchCtrl (2 * d)) 5 0 } else c
        let c := c.setFld (Reg.watchCtrl (2 * d)) 20 16 (if pos + 1 < (c.die d).lenNow then pos + 1 else 0)
        c.watchResultIn d (c.fld (Reg.watchSeq (2 * d) pos) 3 0) code none
      else c
  else c

/-- WATCH_CONVERSION. -/
def execWatchConversion (d : Fin 8) (code : BitVec 12) (s : State) : Host.Outcome State Fault Refusal :=
  onChip (watchConversion d.val code.toNat) s

end Sys2Proof.Machine
end

