-- ==== Sys2Proof/Machine/Matrix.lean ====
section
/-! DEFINITION. Matrix arrays: accumulators (R65, R66, R69, R70), tiles (R171, R178), PASS with its checks (R173, R179 to R185),
LOAD (R178) and FLUSH (R174, R182), and invalid commands (R177). -/

namespace Sys2Proof.Machine

/-! ### Accumulators -/

/-- The empty accumulator (R66). -/
def Acc.zero : Acc := { acc := 0, ea := 0, sat := false, used := false }

/-- The largest magnitude of an accumulator: int64 where `wide`, else int48 (R66). DESIGN CHOICE (log 100): the most negative code of
the width counts as beyond it. -/
def accLimit (wide : Bool) : Int := if wide then 2 ^ 63 - 1 else 2 ^ 47 - 1

/-- An accumulator that a step would carry beyond its width saturates with the overflowing value's sign (R66). -/
def Acc.checked (wide : Bool) (v e : Int) : Acc :=
  if accLimit wide < v then { acc := accLimit wide, ea := e, sat := true, used := true }
  else if v < -accLimit wide then { acc := -accLimit wide, ea := e, sat := true, used := true }
  else { acc := v, ea := e, sat := false, used := true }

/-- A shifted value and one added to it, both checked (R66): a shift that overflows saturates whatever is added to it. -/
def Acc.addShifted (wide : Bool) (shifted y e : Int) : Acc :=
  if (Acc.checked wide shifted e).sat then Acc.checked wide shifted e else Acc.checked wide (shifted + y) e

/-- One R66 step: chunk sum x with exponent e combined into an accumulator, every shift and addition checked. -/
def Acc.step (wide : Bool) (a : Acc) (x e : Int) : Acc :=
  if a.sat ∨ x = 0 then a
  else if a.acc = 0 then Acc.checked wide x e
  else if a.ea ≤ e then Acc.addShifted wide (x * 2 ^ (e - a.ea).toNat) a.acc a.ea
  else Acc.addShifted wide (a.acc * 2 ^ (a.ea - e).toNat) x e

/-- A partial accumulator combined as R69 does: a saturated one saturates with its sign, an unsaturated zero changes nothing. -/
def Acc.combine (wide : Bool) (a b : Acc) : Acc :=
  if a.sat then a
  else if b.sat then { acc := if b.acc < 0 then -accLimit wide else accLimit wide, ea := b.ea, sat := true, used := true }
  else a.step wide b.acc b.ea

/-- A value with the flags that its conversion raises in the census. -/
structure Rounded where
  code      : Int
  sat       : Bool
  nonfinite : Bool
  deriving DecidableEq, Repr

/-- acc × 2^(ea − s) rounded and clamped to ±q (R70). A saturated accumulator converts as the largest magnitude of its sign. -/
def Acc.toCode (a : Acc) (q s : Int) : Rounded :=
  if a.sat then { code := if a.acc < 0 then -q else q, sat := true, nonfinite := false }
  else
    let x := scaleEven a.acc (a.ea - s)
    { code := clampInt (-q) q x, sat := decide (q < x.natAbs), nonfinite := false }

/-- An accumulator rounded once to binary32 or bfloat16 (R70). A saturated one converts as the largest finite magnitude. -/
def Acc.toFloat (a : Acc) (f : Fmt) : Rounded :=
  if a.sat then { code := ((f.infinity false - 1 + f.zero (decide (a.acc < 0)) : Nat) : Int), sat := true, nonfinite := false }
  else
    let r := (f.ofInt a.acc a.ea).1
    { code := (r : Nat), sat := false, nonfinite := decide (f.infinity false ≤ r % 2 ^ (f.ebits + f.fbits)) }

/-- |acc × 2^ea| as a binary32 amax (R73). DESIGN CHOICE (log 21): one that binary32 does not hold exactly is rounded to
nearest even. -/
def Acc.amax (a : Acc) : Lane := finiteAmax (fmt32.ofInt (a.acc.natAbs : Int) a.ea).1

/-! ### Operands in memory -/

/-- Consecutive blocks of a packed tensor read as an array's operand: the exponent of the first, all elements, and whether the
blocks disagree in exponent (R67). -/
def Chip.readBlocks (c : Chip) (n a : Nat) (wide : Bool) (base b k : Nat) (task : Option Nat) : Chip × Int × List Int × Bool :=
  let (c, bss) := (List.range k).foldl (fun (d, acc) i =>
    let (d, bs) := d.useRange (.array n a) (blockAddr wide base (b + i)) (blockBytes wide) task
    (d, acc ++ [bs])) (c, ([] : List (List Byte)))
  let es := bss.map blockExp
  (c, es.headD 0, bss.flatMap fun bs => blockElems wide (bs.drop 1), es.any fun e => decide (e ≠ es.headD 0))

/-- EXP_MIX in chip.census.status (R67). -/
def Chip.expMix (c : Chip) : Chip := c.raise Reg.censusStatus 1 (Reg.censusCtr 1)

/-- The checksum row: the exact column sums of the 256 data rows (R183). -/
def checksumRow (rows : List (Int × List Int)) : List Int :=
  (List.range 256).map fun k => sumInt (rows.map fun r => nth 0 r.2 k)

/-- A tile of a packed tensor: row r is the 8 blocks from b + 8r on (R178). -/
def Chip.readTile (c : Chip) (n a fmt base b : Nat) (task : Option Nat) : Chip × Tile :=
  let wide := decide (fmt = 4)
  let (c, rows, mix) := (List.range 256).foldl (fun (d, acc, mx) r =>
    let (d, e, q, m) := d.readBlocks n a wide base (b + 8 * r) 8 task
    (if m then d.expMix else d, acc ++ [(e, q)], mx || m)) (c, ([] : List (Int × List Int)), false)
  (c.draw, { fmt := fmt, rows := rows, sum := checksumRow rows, sumExp := Config.checksumExp c.free, mix := mix })

/-- The AC8 gather: cell (x, k) takes code c[256 × HALF + k][x] sign-extended to BX16, every row with exponent W (R178).
DESIGN CHOICE (log 102): the tile's format, and so FG_FMT, is that of the widened elements. -/
def Chip.gatherTile (c : Chip) (n a base half : Nat) (w : Int) (task : Option Nat) : Chip × Tile :=
  let (c, bs) := c.useRange (.array n a) (base + 65536 * half) 65536 task
  let rows := (List.range 256).map fun x => (w, (List.range 256).map fun k => sext 8 (nth 0 bs (256 * k + x)).toNat)
  (c.draw, { fmt := 4, rows := rows, sum := checksumRow rows, sumExp := Config.checksumExp c.free, mix := false })

/-- What an empty foreground set holds is not stated: free elements within a cell's range (R180, log 10). -/
def emptyTile (draw : Nat) : Tile :=
  let v := fun r k => clampInt (-128) 127 (Config.emptySet draw (257 * r + k))
  { fmt := 3, rows := (List.range 256).map fun r => (v r 256, (List.range 256).map fun k => v r k),
    sum := (List.range 256).map fun k => Config.emptySet draw (257 * 256 + k), sumExp := Config.checksumExp draw, mix := false }

/-! ### Invalid commands (R177) -/

/-- The entries of a bank that a command covers. -/
def entriesOf (ws : List Word) : List Nat := (List.range (mCount ws)).map fun i => mBase ws + i

/-- A PASS is valid: its words, alignment and ranges, the chunk order and void rules of R173, and for a held swap a tile or a
LOAD to wait for. -/
def Arr.passOk (r : Arr) (c : Chip) (ws : List Word) : Bool :=
  let passing := decide (mStat ws = 2)
  decide (mOp ws = 1 ∧ mStat ws < 3 ∧ wbits (cmdWord ws 0) 23 10 = 0 ∧ wbits (cmdWord ws 0) 35 35 = 0 ∧
    wbits (cmdWord ws 0) 47 47 = 0 ∧ mPfmt ws ≤ 1 ∧ mBase ws + mCount ws ≤ 2048 ∧ 8 ≤ mVstride ws ∧
    mAddr ws % alignOf (if mVwide ws then 4 else 3) = 0) && lastOk (cmdWord ws 3) &&
  (if passing then
    decide (mTsrc ws % alignOf (if mPfmt ws = 1 then 4 else 3) = 0) &&
      (match c.region (mTsrc ws) with | .wingStore _ => true | _ => false)
   else decide (mPfmt ws = 0 ∧ cmdWord ws 2 = 0)) &&
  (!mAcc ws || (entriesOf ws).all fun e => match NMap.find r.bank e with
    | some b => decide (b.chunk < mChunk ws)
    | none => false) &&
  !(decide (mStat ws = 1) && decide (r.bg = .empty))

/-- A LOAD is valid: its words and alignment, and the background set holds no tile that no swap has consumed. -/
def Arr.loadOk (r : Arr) (ws : List Word) : Bool :=
  decide (mOp ws = 2 ∧ (mSfmt ws = 2 ∨ mSfmt ws = 3 ∨ mSfmt ws = 4) ∧ (mSfmt ws = 2 ∨ mW ws = 0) ∧ wbits (cmdWord ws 0) 63 21 = 0 ∧
    wbits (cmdWord ws 1) 63 44 = 0 ∧ wbits (cmdWord ws 2) 63 32 = 0 ∧ (mSfmt ws ≠ 2 ∨ mLblk ws = 0) ∧
    mAddr ws % alignOf (mSfmt ws) = 0) && lastOk (cmdWord ws 3) &&
  (match r.bg with | .ready _ => false | _ => true)

/-- A FLUSH is valid: its words and alignment, an output stride of at least one vector, and no void entry. -/
def Arr.flushOk (r : Arr) (ws : List Word) : Bool :=
  let f := mOutfmt ws
  decide (mOp ws = 3 ∧ (f = 0 ∨ f = 3 ∨ f = 4 ∨ f = 5 ∨ f = 6 ∨ f = 9) ∧ wbits (cmdWord ws 0) 7 4 = 0 ∧
    wbits (cmdWord ws 0) 23 16 = 0 ∧ wbits (cmdWord ws 0) 35 35 = 0 ∧ wbits (cmdWord ws 0) 63 47 = 0 ∧
    wbits (cmdWord ws 1) 63 44 = 0 ∧ wbits (cmdWord ws 2) 31 24 = 0 ∧ mBase ws + mCount ws ≤ 2048 ∧
    mAddr ws % alignOf f = 0 ∧ (if f = 3 ∨ f = 4 then 8 else 256 * flushSize f) ≤ mOstride ws) && lastOk (cmdWord ws 3) &&
  (entriesOf ws).all fun e => (NMap.find r.bank e).isSome

/-- CMD_BAD and ROW_MISS counters of an array: copy a of the pair of counter blocks (R192). -/
def mxCtr (n a k : Nat) : Nat := if a = 0 then Reg.mxCtr0 n k else Reg.mxCtr1 n k

/-- An invalid command at the head of an array's queue is discarded: CMD_BAD and a task error (R177). -/
def Chip.mBad (c : Chip) (n a : Nat) (q : UCmd) : Chip :=
  ((c.modArr n a fun r => { r with queue := r.queue.tail, stalled := false }).raise (Reg.mxStatus n a) 2 (mxCtr n a 2)).taskError?
    q.tag.task

/-- An array that may work: its wing runs, and it is enabled and not fenced (R188, R190). -/
def Chip.arrayOn (c : Chip) (n a : Nat) : Bool :=
  c.inRun n && !c.halted && c.flag (Reg.mxIdent n a) 8 && !c.flag (Reg.mxIdent n a) 9

/-- A command whose OP is none of PASS, LOAD and FLUSH: invalid whatever else it says (R177). -/
def badOp (ws : List Word) : Bool := decide (mOp ws < 1 ∨ 3 < mOp ws)

/-! ### PASS -/

/-- The products of one vector against a tile: the chunk sums of the 256 data rows and of the checksum row, with the upsets of
the vector's rows (R169, R183). -/
def rowSums (t : Tile) (v : List Int) (upset : Nat → Int) : List Int × Int :=
  ((List.range 256).map fun r => sumInt (((nth (0, []) t.rows r).2.zip v).map fun p => p.1 * p.2) + upset r,
   sumInt ((t.sum.zip v).map fun p => p.1 * p.2) + upset 256)

/-- A capture of an array's PASS and of the LOAD that filled its foreground, when none is held (R372). -/
def Chip.mxCapture (c : Chip) (n a : Nat) (ws : List Word) (diff : Int) : Chip :=
  if c.flag (Reg.wingFlt n) (4 + a) then c
  else
    let cap := fun k => if a = 0 then Reg.mxCap0 n k else Reg.mxCap1 n k
    let c := (List.range 4).foldl (fun d k => d.wr (cap k) (cmdWord ws k)) c
    let c := (List.range 2).foldl (fun d k => d.wr (cap (4 + k)) (cmdWord ((c.wing n).arr a).fgLoad k)) c
    (c.setFlag (Reg.wingFlt n) (4 + a) true).modArr n a fun r => { r with clsStep := 1, dval := diff }

/-- ROW_MISS or COL_MISS with its record in chk.last, and the capture (R185, R194). -/
def Chip.mxMiss (c : Chip) (n a kind row entry : Nat) (diff : Int) (ws : List Word) : Chip :=
  let c := c.raise (Reg.mxStatus n a) kind (mxCtr n a kind)
  let c := c.wr (Reg.mxLast n a)
    (w64 (kind + row * 2 ^ 8 + entry * 2 ^ 18 + twos 32 (clampInt (-(2 ^ 31 - 1)) (2 ^ 31 - 1) diff) * 2 ^ 32))
  c.mxCapture n a ws diff

/-- One vector combined into its bank entry (R66, R172, R173): `sums` are the chunk sums of the 257 rows. -/
def combineEntry (wide : Bool) (old : Option BankEntry) (chunk : Nat) (mix : Bool) (t : Tile) (ev : Int) (sums : List Int) : BankEntry :=
  let accs := match old with | some b => b.accs | none => List.replicate 257 Acc.zero
  { chunk := chunk, mix := mix || (match old with | some b => b.mix | none => false),
    accs := (accs.zip ((t.rows.map Prod.fst ++ [t.sumExp]).zip sums)).map fun p => p.1.step wide p.2.2 (ev + p.2.1) }

/-- ACC_SAT set for each accumulator that a step newly saturates (R66). -/
def Chip.newSats (c : Chip) (old : Option BankEntry) (new : BankEntry) : Chip :=
  let was := match old with | some b => b.accs | none => []
  let k := ((new.accs.zipIdx).filter fun p => p.1.sat && !((nth Acc.zero was p.2).sat)).length
  if k = 0 then c else (c.setFlag Reg.censusStatus 2 true).countBy (Reg.censusCtr 2) k

/-- One vector of a PASS: read, multiplied, checked against the checksum row, and combined. `sg` and `run` carry the running
sums σ and of the rows' chunk sums (R184). DESIGN CHOICE (log 103): DIFF is the checksum row's sum less the data rows', and in the
column check the running sum less σ's product. -/
def Chip.passVector (n a : Nat) (ws : List Word) (task : Option Nat) (t : Tile) (ups : List CellUpset)
    (st : Chip × List Int × List Int) (m : Nat) : Chip × List Int × List Int :=
  let (c, sg, run) := st
  let (c, ev, v, mix) := c.readBlocks n a (mVwide ws) (mAddr ws) (m * mVstride ws) 8 task
  let c := if mix then c.expMix else c
  let (sums, ck) := rowSums t v fun r => sumInt ((ups.filter fun u => decide (u.vec = m ∧ u.row = r)).map CellUpset.diff)
  let entry := mBase ws + m
  let c := if ck = sumInt sums then c else c.mxMiss n a 0 0 entry (ck - sumInt sums) ws
  let old := if mAcc ws then NMap.find ((c.wing n).arr a).bank entry else none
  let new := combineEntry (mVwide ws || decide (t.fmt = 4)) old (mChunk ws) (mix || t.mix) t ev (sums ++ [ck])
  let c := (c.newSats old new).modArr n a fun r => { r with bank := NMap.put r.bank entry new }
  (c, (sg.zip v).map fun p => p.1 + p.2, (run.zip (sums ++ [ck])).map fun p => p.1 + p.2)

/-- The column check of a PASS: for each of the 257 rows, σ against the stationary row and the row's running sum (R184). -/
def Chip.columnCheck (c : Chip) (n a : Nat) (ws : List Word) (t : Tile) (sg run : List Int) : Chip :=
  let want := (List.range 257).map fun r =>
    let row := if r < 256 then (nth (0, []) t.rows r).2 else t.sum
    sumInt ((row.zip sg).map fun p => p.1 * p.2)
  (List.range 257).foldl (fun d r =>
    if nth 0 run r = nth 0 want r then d else d.mxMiss n a 1 r (mBase ws) (nth 0 run r - nth 0 want r) ws) c

/-- The foreground set that a PASS multiplies against, after its held swap or its passing load (R179, R181). -/
def Chip.passTile (c : Chip) (n a : Nat) (q : UCmd) : Chip × Tile :=
  let r := (c.wing n).arr a
  if mStat q.words = 1 then
    match r.bg with
    | .ready t => (c.modArr n a fun r => { r with fg := some t, fgLoad := r.bgLoad, bg := .empty, bgLoad := [] }, t)
    | _ => (c, emptyTile c.free)
  else if mStat q.words = 2 then
    let (c, t) := c.readTile n a (if mPfmt q.words = 1 then 4 else 3) (mTsrc q.words) (mTblk q.words) q.tag.task
    (c.modArr n a fun r => { r with fg := some t, fgLoad := [] }, t)
  else match r.fg with
    | some t => (c, t)
    | none => (c.draw, emptyTile c.free)

/-- A valid PASS runs its stream and leaves the queue (R175). -/
def Chip.passRun (c : Chip) (n a : Nat) (q : UCmd) (ups : List CellUpset) : Chip :=
  let (c, t) := c.passTile n a q
  let (c, sg, run) := (List.range (mCount q.words)).foldl (Chip.passVector n a q.words q.tag.task t ups)
    (c, List.replicate 256 0, List.replicate 257 0)
  (c.columnCheck n a q.words t sg run).modArr n a fun r => { r with queue := r.queue.tail, stalled := false }

/-- Entries that a FLUSH in the flush slot has not read yet overlap those of a PASS (R182). -/
def Arr.trails (r : Arr) (ws : List Word) : Bool :=
  match r.flush with
  | some f => decide (mBase ws < mBase f.words + mCount f.words ∧ mBase f.words < mBase ws + mCount ws)
  | none => false

/-- The PASS at the head of an array's queue. A token vector whose LOAD has not completed waits and sets SWAP_WAIT (R180). The
upsets are the arithmetic errors that the array makes in it. -/
def pass (n a : Nat) (ups : List CellUpset) (c : Chip) : Chip :=
  let r := (c.wing n).arr a
  match r.queue with
  | [] => c
  | q :: _ =>
    if badOp q.words ∧ c.arrayOn n a = true then c.mBad n a q
    else if mOp q.words ≠ 1 ∨ c.arrayOn n a = false ∨ r.trails q.words = true then c
    else if !r.passOk c q.words then c.mBad n a q
    else if mStat q.words = 1 ∧ r.bg = .loading then
      if r.stalled then c else (c.modArr n a fun r => { r with stalled := true }).raise (Reg.mxStatus n a) 3 (mxCtr n a 3)
    else c.passRun n a q ups

/-- PASS. -/
def execPass (n : Wing) (a : Fin 2) (upsets : List CellUpset) (s : State) : Host.Outcome State Fault Refusal :=
  onChip (pass n.val a.val upsets) s

/-! ### LOAD -/

/-- A LOAD at the head of the queue moves into the load slot, once that is free, and starts writing the background set (R175,
R178). -/
def load (n a : Nat) (c : Chip) : Chip :=
  let r := (c.wing n).arr a
  match r.queue with
  | [] => c
  | q :: rest =>
    if badOp q.words ∧ c.arrayOn n a = true then c.mBad n a q
    else if mOp q.words ≠ 2 ∨ c.arrayOn n a = false ∨ r.load.isSome = true then c
    else if r.loadOk q.words then c.modArr n a fun r => { r with queue := rest, load := some q, bg := .loading }
    else c.mBad n a q

/-- LOAD. -/
def execLoad (n : Wing) (a : Fin 2) (s : State) : Host.Outcome State Fault Refusal := onChip (load n.val a.val) s

/-- The LOAD in the load slot finishes: the background set holds its tile (R178). -/
def loadComplete (n a : Nat) (c : Chip) : Chip :=
  match ((c.wing n).arr a).load with
  | none => c
  | some q =>
    if c.arrayOn n a then
      let (c, t) := if mSfmt q.words = 2 then
          c.gatherTile n a (mAddr q.words) (mHalf q.words) (sext 8 (mW q.words)) q.tag.task
        else c.readTile n a (mSfmt q.words) (mAddr q.words) (mLblk q.words) q.tag.task
      c.modArr n a fun r => { r with load := none, bg := .ready t, bgLoad := q.words.take 2, stalled := false }
    else c

/-- LOAD_COMPLETE. -/
def execLoadComplete (n : Wing) (a : Fin 2) (s : State) : Host.Outcome State Fault Refusal :=
  onChip (loadComplete n.val a.val) s

/-! ### FLUSH -/

/-- A FLUSH at the head of the queue moves into the flush slot, once that is free (R175). -/
def flush (n a : Nat) (c : Chip) : Chip :=
  let r := (c.wing n).arr a
  match r.queue with
  | [] => c
  | q :: rest =>
    if badOp q.words ∧ c.arrayOn n a = true then c.mBad n a q
    else if mOp q.words ≠ 3 ∨ c.arrayOn n a = false ∨ r.flush.isSome = true then c
    else if r.flushOk q.words then c.modArr n a fun r => { r with queue := rest, flush := some q }
    else c.mBad n a q

/-- FLUSH. -/
def execFlush (n : Wing) (a : Fin 2) (s : State) : Host.Outcome State Fault Refusal := onChip (flush n.val a.val) s

/-- A raw accumulator record (R174). -/
def Acc.record (x : Acc) : List Byte :=
  leBytes 8 (twos 64 x.acc) ++ leBytes 8 (twos 10 x.ea + b2n x.sat * 2 ^ 16 + b2n (!x.used) * 2 ^ 17)

/-- One accumulator in the output format: its bytes, or for a block format its code, with its census flags (R70, R174). -/
def Acc.convert (x : Acc) (fmt : Nat) (s : Int) : Rounded :=
  if fmt = 5 then x.toFloat fmt32
  else if fmt = 6 then x.toFloat fmtBf
  else if fmt = 9 then x.toCode (2 ^ 31 - 1) s
  else if fmt = 4 then x.toCode 32767 s
  else if fmt = 3 then x.toCode 127 s
  else { code := x.acc, sat := x.sat, nonfinite := false }

/-- The 256 values of an entry written out (R174). Answers the chip with the values written. DEDUCED (log 59). -/
def Chip.flushEntry (c : Chip) (ws : List Word) (k : Nat) (accs : List Acc) (vals : List Rounded) (s : Int) (task : Option Nat) : Chip :=
  let f := mOutfmt ws
  let out := mAddr ws
  if f = 3 ∨ f = 4 then
    let wide := decide (f = 4)
    let b := k * mOstride ws
    let c := (List.range 8).foldl (fun d i =>
      d.store (blockAddr wide out (b + i)) (packBlock wide s (((vals.drop (32 * i)).take 32).map Rounded.code)) [] task) c
    (frameTails wide out b 8).foldl (fun d a => d.store a [0] [] task) c
  else if f = 0 then c.store (out + k * mOstride ws) (accs.flatMap Acc.record) [] task
  else c.store (out + k * mOstride ws)
    (vals.flatMap fun v => leBytes (flushSize f) (twos (8 * flushSize f) v.code)) [] task

/-- A value that is stored as exactly zero: of a float, either zero (R75). -/
def Rounded.isZero (v : Rounded) (fmt : Nat) : Bool :=
  if fmt = 5 then decide (v.code % 2 ^ 31 = 0) else if fmt = 6 then decide (v.code % 2 ^ 15 = 0) else decide (v.code = 0)

/-- The values of a FLUSH's entry counted for its tensor; its amax is over the elements stored as finite (R73, R75, R174). -/
def Chip.flushCount (c : Chip) (ws : List Word) (e : BankEntry) (vals : List Rounded) (task : Option Nat) : Chip :=
  let amax := ((e.accs.zip vals).map fun p => if p.2.nonfinite then 0 else p.1.amax).foldl amaxOf 0
  c.countT c.censusStep (mTensor ws) task fun v =>
    { v.add 256 (vals.filter fun r => r.isZero (mOutfmt ws)).length (vals.filter Rounded.sat).length
        (vals.filter Rounded.nonfinite).length amax with expMix := v.expMix || e.mix }

/-- The FLUSH in the flush slot reads its entries, rounds them once and writes them out (R174, R182). A scale whose history is
not complete holds it and sets HIST_WAIT (R74). -/
def flushBegin (n a : Nat) (c : Chip) : Chip :=
  let r := (c.wing n).arr a
  match r.flush with
  | none => c
  | some q =>
    let f := mOutfmt q.words
    let scaled := decide (f = 3 ∨ f = 4 ∨ f = 9)
    if c.arrayOn n a = false then c
    else if scaled && !c.histReady c.censusStep then
      if r.histWait then c else (c.modArr n a fun r => { r with histWait := true }).histWait
    else
      let s := if scaled then c.scaleOf (mTensor q.words) c.censusStep else 0
      let c := (List.range (mCount q.words)).foldl (fun d k =>
        match NMap.find r.bank (mBase q.words + k) with
        | some e =>
          let accs := e.accs.take 256
          let vals := accs.map fun x => x.convert f s
          (d.flushEntry q.words k accs vals s q.tag.task).flushCount q.words { e with accs := accs } vals q.tag.task
        | none => d) c
      c.modArr n a fun r => { r with flush := none, histWait := false }

/-- FLUSH_BEGIN. -/
def execFlushBegin (n : Wing) (a : Fin 2) (s : State) : Host.Outcome State Fault Refusal := onChip (flushBegin n.val a.val) s

end Sys2Proof.Machine
end

