-- ==== Sys2Proof/Machine/Update.lean ====
section
/-! DEFINITION. The sign-step update (R325 to R328): state blocks, sign records (R318), update records with their learning-rate tables, the
rule, and a run of the Pendun update program. -/

namespace Sys2Proof.Machine

/-- The state of a block of 32 weights (R325): the exponent and elements of MASTER, the step exponent, and for each weight its previous sign
(true for negative) and whether its previous gradient was zero. -/
structure StateBlock where
  e    : Int
  q    : List Int
  sig  : Int
  prev : List Bool
  zero : List Bool
  deriving DecidableEq, Repr

/-- A number from bytes i to i + n − 1 of a list. -/
def numAt (bs : List Byte) (i n : Nat) : Nat := ofLeBytes ((bs.drop i).take n)

/-- The state block that 80 bytes hold (R325). -/
def StateBlock.ofBytes (bs : List Byte) : StateBlock :=
  { e := sext 8 (numAt bs 0 1), q := (List.range 32).map fun i => sext 16 (numAt bs (1 + 2 * i) 2), sig := sext 8 (numAt bs 65 1),
    prev := (List.range 32).map (numAt bs 72 4).testBit, zero := (List.range 32).map (numAt bs 76 4).testBit }

/-- The number whose bit i is item i. -/
def numOfBits : List Bool → Nat
  | [] => 0
  | b :: l => b2n b + 2 * numOfBits l

/-- The 80 bytes of a state block; bytes 66 to 71 are zero (R325). -/
def StateBlock.bytes (b : StateBlock) : List Byte :=
  leBytes 1 (twos 8 b.e) ++ (b.q.flatMap fun x => leBytes 2 (twos 16 x)) ++ leBytes 1 (twos 8 b.sig) ++ leBytes 6 0 ++
    leBytes 4 (numOfBits b.prev) ++ leBytes 4 (numOfBits b.zero)

/-- Address of state block b of a tensor: 51 to a frame of 4,096 bytes (R325). -/
def stateAddr (base b : Nat) : Nat := base + b / 51 * 4096 + 80 * (b % 51)

/-- The sign of a 2-bit sign code (R318). The reserved code 0b10 has no stated sign: free (log 120). -/
def signOf (code : Nat) : Int :=
  if code = 0 then 0 else if code = 1 then 1 else if code = 3 then -1 else clampInt (-1) 1 Config.reservedSign

/-- The sign code that the owner keeps of a final sum (R318). -/
def signCode (g : Int) : Nat := if g = 0 then 0 else if 0 < g then 1 else 3

/-- An update record (R326). -/
structure UpdateRec where
  wtensor : Nat
  ver     : Nat
  smin    : Int
  smax    : Int
  decay   : Nat
  lrtab   : Nat
  lrlen   : Nat
  deriving DecidableEq, Repr

/-- The update record that two words hold (R326). -/
def UpdateRec.ofWords (w0 w1 : Word) : UpdateRec :=
  { wtensor := wbits w0 23 0, ver := wbits w0 31 24, smin := sext 8 (wbits w0 39 32), smax := sext 8 (wbits w0 47 40), decay := wbits w0 63 48,
    lrtab := wbits w1 43 0, lrlen := wbits w1 59 48 }

/-- lr(t) in units of 2^-16: L of the last entry whose FROM is not above t (R326). -/
def lrAt (table : List Word) (t : Nat) : Nat := table.foldl (fun l w => if wbits w 47 0 ≤ t then wbits w 63 48 else l) 0

/-- The smallest f from a start on, within `fuel` steps, at which every value rounds to 15 bits of magnitude (R327). -/
def fitShift (qw : List Int) : Nat → Nat → Nat
  | 0, f => f
  | fuel + 1, f => if qw.all fun x => decide ((roundEven x (2 ^ f)).natAbs ≤ 32767) then f else fitShift qw fuel (f + 1)

/-- The sign-step rule on one block (R327), with the learning rate l and the signs of its gradient sums: the new block, and the saturations
that it counts for the weight tensor. -/
def signStep (l decay : Nat) (smin smax : Int) (signs : List Int) (b : StateBlock) : StateBlock × Nat :=
  let sh := min (b.sig - b.e) 24
  let tstep := scaleEven l sh
  let agrees := ((signs.zip b.prev).zip b.zero).countP fun p => decide (p.1.1 ≠ 0 ∧ p.2 = false ∧ p.1.1 = if p.1.2 then -1 else 1)
  let qw := (b.q.zip signs).map fun p =>
    let x := p.1 * 2 ^ 16
    x - p.2 * tstep - roundEven (x * decay) (2 ^ 24)
  let f := fitShift qw 64 16
  let g := if 127 < b.e + f - 16 then (127 - b.e + 16).toNat else f
  let raw := qw.map fun x => roundEven x (2 ^ g)
  let sig := if 24 ≤ agrees then b.sig + 1 else if agrees ≤ 8 then b.sig - 1 else b.sig
  ({ e := b.e + g - 16, q := raw.map (clampInt (-32767) 32767), sig := clampInt smin smax sig,
     prev := (b.prev.zip signs).map fun p => if p.2 = 0 then p.1 else decide (p.2 < 0), zero := signs.map fun s => decide (s = 0) },
   (if 24 < b.sig - b.e then 32 else 0) + raw.countP fun x => decide (32767 < x.natAbs))

/-- The tile at an address carries FROZEN (R268, R328). -/
def Chip.tileFrozen (c : Chip) (a : Nat) : Bool := match c.tileAt a with | some i => (c.catNow i).frozen | none => false

/-- One block updated: its state block and its sign record read once, its state block written once; a block whose state tile carries FROZEN is
passed over (R328). -/
def Chip.updateBlock (c : Chip) (n : Nat) (r : UpdateRec) (l base signs b : Nat) (task : Option Nat) : Chip :=
  let a := stateAddr base b
  if c.tileFrozen a then c
  else
    let (c, st) := c.useRange (.wing n) a 80 task
    let (c, sg) := c.useRange (.wing n) (signs + 8 * b) 8 task
    let out := signStep l r.decay r.smin r.smax ((List.range 32).map fun i => signOf (ofLeBytes sg / 4 ^ i % 4)) (StateBlock.ofBytes st)
    let c := c.store a out.1.bytes [] task
    if out.2 = 0 then c else c.countT c.censusStep r.wtensor task fun v => v.add 0 0 out.2 0 0

/-- The program at an address of wing n's store is the Pendun update program (R327). -/
def Chip.isUpdate (c : Chip) (n a : Nat) : Bool :=
  let p := Config.updateProgram
  !p.isEmpty && decide (c.region (a + 8 * p.length - 1) = .wingStore n) && c.bytes (c.home a) (8 * p.length) == p.flatMap fun w => leBytes 8 w.toNat

/-- A run of the Pendun update program (R306, R326 to R328), once the part has applied a commit outcome. DESIGN CHOICE (log 120): s0 holds
the address of the update record, s1 that of the tensor's first state block, s2 that of its first sign record, s3 and s4 the first block and
the number of blocks. -/
def Chip.updateRun (c : Chip) (n : Nat) (arg : Nat → Word) (task : Option Nat) : Chip :=
  let at_ := fun k => wbits (arg k) 43 0
  if c.fld Reg.stepVote 1 0 ≠ 1 then c
  else
    let (c, rb) := c.useRange (.wing n) (at_ 0) 16 task
    let r := UpdateRec.ofWords (w64 (numAt rb 0 8)) (w64 (numAt rb 8 8))
    if r.ver ≠ 1 then c
    else
      let (c, lb) := c.useRange (.wing n) r.lrtab (8 * r.lrlen) task
      let t := (c.fld Reg.stepCounter 47 0 + 2 ^ 48 - 1) % 2 ^ 48
      let l := lrAt ((List.range r.lrlen).map fun k => w64 (numAt lb (8 * k) 8)) t
      (List.range (at_ 4)).foldl (fun d k => d.updateBlock n r l (at_ 1) (at_ 2) (at_ 3 + k) task) c

end Sys2Proof.Machine
end

