-- ==== Sys2Proof/Machine/Vector.lean ====
section
/-! DEFINITION. The vector engine: its registers and flags (R195), elements and results of each type (R197 to R200), commands
(R202, R203), and one meaning for each vector instruction (R197 to R201). -/

namespace Sys2Proof.Machine

/-! ### Registers and elements -/

/-- 1,024 lanes of zero. -/
def zeroLanes : List Lane := List.replicate 1024 0

/-- A vector register. -/
def VecSt.reg (x : VecSt) (r : Nat) : List Lane := NMap.get (fun _ => zeroLanes) x.v r

/-- A vector register replaced. -/
def VecSt.setReg (x : VecSt) (r : Nat) (l : List Lane) : VecSt := { x with v := NMap.set (fun _ => zeroLanes) x.v r l }

/-- A mask register; m0 always reads all ones (R195). -/
def VecSt.mask (x : VecSt) (k : Nat) : BitVec 1024 := if k = 0 then BitVec.allOnes 1024 else nth 0 x.m k

/-- A mask register replaced; writes to m0 are discarded (R195). -/
def VecSt.setMask (x : VecSt) (k : Nat) (b : BitVec 1024) : VecSt := if k = 0 then x else { x with m := setAt x.m k b }

/-- A scalar register. -/
def VecSt.scal (x : VecSt) (k : Nat) : Word := nth 0 x.sc k

/-- A scalar register replaced. -/
def VecSt.setScal (x : VecSt) (k : Nat) (v : Word) : VecSt := { x with sc := setAt x.sc k v }

/-- Whether a type is a float type. -/
def isFloat (t : Nat) : Bool := decide (t ≤ 1)

/-- Bits of one element of a type (R197). -/
def elemWidth (t : Nat) : Nat := if t = 1 ∨ t = 3 then 16 else if t = 4 then 64 else 32

/-- The format of a float type. -/
def typeFmt (t : Nat) : Fmt := if t = 1 then fmtBf else fmt32

/-- The elements of one lane: one, or the two of a packed type, low half first. -/
def lanesToElems (t : Nat) (lo hi : Lane) : List Nat :=
  if t = 1 ∨ t = 3 then [lo.toNat % 65536, lo.toNat / 65536] else if t = 4 then [lo.toNat + hi.toNat * 2 ^ 32] else [lo.toNat]

/-- A lane from its elements, as the low and the high register of a pair. -/
def elemsToLanes (t : Nat) : List Nat → Lane × Lane
  | [a] => (BitVec.ofNat 32 a, BitVec.ofNat 32 (if t = 4 then a / 2 ^ 32 else 0))
  | [a, b] => (BitVec.ofNat 32 (a % 65536 + b * 65536), 0)
  | _ => (0, 0)

/-- The elements of a source register, lane by lane. A wide source is the pair from an even register on; what one from an odd
register holds is not stated, and is free (log 10). -/
def VecSt.src (x : VecSt) (draw t r : Nat) : List (List Nat) :=
  if t = 4 then
    if r % 2 = 0 then ((x.reg r).zip (x.reg (r + 1))).map fun p => lanesToElems 4 p.1 p.2
    else (List.range 1024).map fun i => [(Config.vectorOpen draw (2 * i)).toNat + (Config.vectorOpen draw (2 * i + 1)).toNat * 2 ^ 32]
  else (x.reg r).map fun l => lanesToElems t l 0

/-- An element as a float value. -/
def elemFl (t code : Nat) : Fl := (typeFmt t).unpack code

/-- An element as an integer. -/
def elemInt (t code : Nat) : Int := sext (elemWidth t) code

/-- |element × 2^e| as a binary32 amax, 0 where it is not finite (R200, R73, log 21). -/
def elemAmax (t code : Nat) (e : Int) : Lane :=
  if isFloat t then match elemFl t code with
    | .fin _ m q => BitVec.ofNat 32 (fmt32.round false m (q + e) false).1
    | _ => 0
  else BitVec.ofNat 32 (fmt32.ofInt ((elemInt t code).natAbs : Int) e).1

/-! ### Results -/

/-- The result of one element: its code, the flags it raises, whether a conversion clamped it (R198), whether it or its input
is not finite, whether it is stored as zero, and the largest input magnitude (R200). -/
structure ERes where
  code   : Nat
  fl     : FlFlags
  sat    : Bool
  nonfin : Bool
  zero   : Bool
  amax   : Lane
  deriving DecidableEq, Repr

/-- A float result. -/
def floatRes (f : Fmt) (r : Nat × FlFlags) (amax : Lane) : ERes :=
  let mag := r.1 % 2 ^ (f.ebits + f.fbits)
  { code := r.1, fl := r.2, sat := false, nonfin := decide (f.infinity false ≤ mag), zero := decide (mag = 0), amax := amax }

/-- An integer result of w bits, clamped to ±(2^(w − 1) − 1); the clamp raises overflow (R197, R200). -/
def intRes (w : Nat) (x : Int) (amax : Lane) : ERes :=
  let q : Int := 2 ^ (w - 1) - 1
  let y := clampInt (-q) q x
  { code := twos w y, fl := { noFlags with overflow := decide (x ≠ y) }, sat := false, nonfin := false, zero := decide (y = 0), amax := amax }

/-- An element taken as it is: a bitwise result or a load. -/
def rawRes (t code : Nat) (amax : Lane) : ERes :=
  if isFloat t then floatRes (typeFmt t) (code, noFlags) amax
  else { code := code, fl := noFlags, sat := false, nonfin := false, zero := decide (code = 0), amax := amax }

/-- An element that a move or a select passes on: a NaN becomes the canonical one, a signalling one raising invalid (R63). -/
def passRes (t code : Nat) (amax : Lane) : ERes :=
  match isFloat t, elemFl t code with
  | true, .nan s => floatRes (typeFmt t) ((typeFmt t).qnan, { noFlags with invalid := s }) amax
  | _, _ => rawRes t code amax

/-- The larger of two operands' magnitudes. -/
def amax2 (t a b : Nat) : Lane := amaxOf (elemAmax t a 0) (elemAmax t b 0)

/-- A number from a list of bits, the first the least significant. -/
def bitsOfList (l : List Bool) : Nat := l.foldr (fun b acc => b2n b + 2 * acc) 0

/-- The lanes that a mask selects. -/
def maskList (b : BitVec 1024) : List Bool := (List.range 1024).map b.getLsbD

/-- The five flags of a lane's results. -/
def laneFlags (rs : List ERes) : FlFlags := rs.foldl (fun f r => f.or r.fl) noFlags

/-- Flags raised in the lanes given (R200). -/
def VecSt.raiseFlags (x : VecSt) (fs : List FlFlags) : VecSt :=
  let b := fun (g : FlFlags → Bool) => BitVec.ofNat 1024 (bitsOfList (fs.map g))
  let new := [b FlFlags.invalid, b FlFlags.divzero, b FlFlags.overflow, b FlFlags.underflow, b FlFlags.inexact]
  { x with flags := (x.flags.zip new).map (fun p => p.1 ||| p.2) }

/-- A destination register after an instruction: an active lane's result, and of an inactive lane zero or its old value (R199). -/
def mergeLanes (act : List Bool) (zm : Bool) (new old : List Lane) : List Lane :=
  ((act.zip new).zip old).map fun p => if p.1.1 then p.1.2 else if zm then 0 else p.2

/-- Results counted in the census record of a tensor (R200). -/
def countRes (rs : List ERes) (v : TCount) : TCount :=
  v.add rs.length (rs.filter ERes.zero).length (rs.filter ERes.sat).length (rs.filter ERes.nonfin).length
    (rs.foldl (fun a r => amaxOf a r.amax) 0)

/-! ### Programs -/

/-- The engine's state changed. -/
def Chip.modVec (c : Chip) (n : Nat) (f : VecSt → VecSt) : Chip := c.modWing n fun w => { w with vec := f w.vec }

/-- The task of the running program. -/
def VecSt.task (x : VecSt) : Option Nat := match x.run with | some r => r.cmd.tag.task | none => none

/-- A command ends: each flag over all lanes goes into vec.status (R200). -/
def Chip.vEnd (c : Chip) (n : Nat) : Chip :=
  let fs := (c.wing n).vec.flags
  let c := (List.range 5).foldl (fun d k => if nth 0 fs k = 0 then d else d.raise (Reg.vecStatus n) k (Reg.vecCtr n k)) c
  c.modVec n fun x => { x with run := none }

/-- INDEX of vec.fault (R216). -/
def Chip.vIndex (c : Chip) (n : Nat) : Chip :=
  c.setFld (Reg.vecFault n) 63 48 (match (c.wing n).vec.run with | some r => r.pc | none => 0)

/-- An invalid command or instruction: CMD_BAD, and the command and its task stop (R202). -/
def Chip.vBad (c : Chip) (n : Nat) : Chip :=
  let t := (c.wing n).vec.task
  (((c.vIndex n).raise (Reg.vecStatus n) 6 (Reg.vecCtr n 6)).vEnd n).taskError? t

/-- A load or store that is not performed: VFAULT, and the command and its task stop (R201). -/
def Chip.vFault (c : Chip) (n a : Nat) : Chip :=
  let t := (c.wing n).vec.task
  ((((c.vIndex n).setFld (Reg.vecFault n) 43 0 a).raise (Reg.vecStatus n) 5 (Reg.vecCtr n 5)).vEnd n).taskError? t

/-- The next instruction is the one that follows. -/
def Chip.vNext (c : Chip) (n : Nat) : Chip :=
  c.modVec n fun x => { x with run := x.run.map fun r => { r with pc := r.pc + 1, wait := none, histWait := false } }

/-- A branch by a signed count of instructions. DEDUCED (log 22): from the branch's own place. One before the program's first
instruction fetches nothing valid. -/
def Chip.vBranch (c : Chip) (n : Nat) (k : Int) : Chip :=
  match (c.wing n).vec.run with
  | none => c
  | some r =>
    if (r.pc : Int) + k < 0 then c.vBad n
    else c.modVec n fun x => { x with run := some { r with pc := ((r.pc : Int) + k).toNat } }

/-- An address range lies in wing n's own store. -/
def Chip.inOwnStore (c : Chip) (n a len : Nat) : Bool :=
  decide (c.region a = .wingStore n ∧ c.region (a + len - 1) = .wingStore n)

/-- An access of the engine that waits at a word, or that is to be sent again (R221). -/
def Chip.vecWaits (c : Chip) (n : Nat) : Bool :=
  (c.waits ++ c.resends).any fun w => decide (w.issuer = .vec n)

/-- One instruction of the running program: fetched, checked, and performed where it is the operation of this row. An invalid
instruction sets CMD_BAD whichever row was expected (R202). -/
def vRow (n op : Nat) (body : Word → Chip → Chip) (c : Chip) : Chip :=
  match (c.wing n).vec.run with
  | none => c
  | some r =>
    if !c.inRun n || c.halted || c.vecWaits n then c
    else
      let a := vProg r.cmd.words + 8 * r.pc
      if !c.inOwnStore n a 8 then c.vBad n
      else
        let w := c.word (c.home a)
        if !vOk w then c.vBad n
        else if vOp w ≠ op then c
        else body w (c.useRange (.wing n) a 8 r.cmd.tag.task).1

/-- VECTOR_COMMAND. The command at the head of the queue is checked; a valid one sets the engine's state from its arguments and
its program begins (R202, R203). The Pendun update program is carried out as a whole (R327, R328). -/
def vectorCommand (n : Nat) (c : Chip) : Chip :=
  match (c.wing n).vec.run, (c.wing n).vec.queue with
  | none, q :: rest =>
    if !c.inRun n || c.halted then c
    else
      let ws := q.words
      let ok := decide (cmdWord ws 0 = 1 ∧ wbits (cmdWord ws 1) 63 44 = 0 ∧ wbits (cmdWord ws 2) 63 44 = 0 ∧
          vProg ws % 64 = 0 ∧ vArgs ws % 64 = 0) && lastOk (cmdWord ws 3) &&
        c.inOwnStore n (vProg ws) 8 && c.inOwnStore n (vArgs ws) 256
      let c := c.modVec n fun x => { x with queue := rest, run := some { cmd := q, pc := 0, wait := none } }
      if !ok then (c.modVec n fun x => { x with flags := List.replicate 5 0 }).vBad n
      else
        let (c, bs) := c.useRange (.wing n) (vArgs ws) 256 q.tag.task
        let arg := fun k => w64 (ofLeBytes ((bs.drop (8 * k)).take 8))
        let c := c.modVec n fun x => { x with
          v := [], m := List.replicate 8 (BitVec.allOnes 1024), flags := List.replicate 5 0,
          sc := (List.range 16).map arg, cslots := (List.range 16).map fun i => wbits (arg (16 + i)) 23 0 }
        if c.isUpdate n (vProg ws) then (c.updateRun n arg q.tag.task).vEnd n else c
  | _, _ => c

/-- VECTOR_COMMAND. -/
def execVectorCommand (n : Wing) (s : State) : Host.Outcome State Fault Refusal := onChip (vectorCommand n.val) s

/-! ### Writing results -/

/-- Results counted where CE is set, in the tensor of the census slot (R200). -/
def Chip.vCount (c : Chip) (w : Word) (x : VecSt) (rs : List ERes) : Chip :=
  if vCe w then c.countT c.censusStep (nth noTensor x.cslots (vCslot w)) x.task (countRes rs) else c

/-- Results of a lane-wise instruction written: destination lanes, flags and census, for the active lanes. `td` is the type
whose elements the destination holds, and `all` tells that MASK is ignored. -/
def Chip.vWrite (c : Chip) (n : Nat) (w : Word) (td : Nat) (all : Bool) (res : List (List ERes)) : Chip :=
  let x := (c.wing n).vec
  let act := if all then List.replicate 1024 true else maskList (x.mask (vMask w))
  let lanes := res.map fun rs => elemsToLanes td (rs.map ERes.code)
  let y := x.setReg (vVd w) (mergeLanes act (vZm w) (lanes.map Prod.fst) (x.reg (vVd w)))
  let y := if td = 4 then y.setReg (vVd w + 1) (mergeLanes act (vZm w) (lanes.map Prod.snd) (x.reg (vVd w + 1))) else y
  let y := y.raiseFlags ((act.zip res).map fun p => if p.1 then laneFlags p.2 else noFlags)
  ((c.modVec n fun _ => y).vCount w x (((act.zip res).filter Prod.fst).flatMap Prod.snd)).vNext n

/-- A lane-wise instruction on one source. -/
def vMap1 (n : Nat) (f : Nat → Nat → Nat → Nat → ERes) (w : Word) (c : Chip) : Chip :=
  let t := vType w
  let xs := (c.wing n).vec.src c.free t (vVa w)
  c.draw.vWrite n w t false (xs.zipIdx.map fun p => p.1.zipIdx.map fun q => f c.free t (2 * p.2 + q.2) q.1)

/-- A lane-wise instruction on two sources; `f` takes the draw, the type, the element's number and the operands. -/
def vMap2 (n : Nat) (f : Nat → Nat → Nat → Nat → Nat → ERes) (w : Word) (c : Chip) : Chip :=
  let t := vType w
  let xs := (c.wing n).vec.src c.free t (vVa w)
  let ys := (c.wing n).vec.src (c.free + 1) t (vVb w)
  c.draw.draw.draw.vWrite n w t false ((xs.zip ys).zipIdx.map fun p =>
    (p.1.1.zip p.1.2).zipIdx.map fun q => f (c.free + 2) t (2 * p.2 + q.2) q.1.1 q.1.2)

/-- The free value of a result, as an element of a type (log 10). -/
def openElem (t draw i : Nat) : Nat :=
  ((Config.vectorOpen draw i).toNat + (Config.vectorOpen draw (4096 + i)).toNat * 2 ^ 32) % 2 ^ elemWidth t

/-! ### Operations on elements -/

/-- ADD. -/
def elAdd (_ t _ a b : Nat) : ERes :=
  if isFloat t then floatRes (typeFmt t) ((typeFmt t).add (elemFl t a) (elemFl t b)) (amax2 t a b)
  else intRes (elemWidth t) (elemInt t a + elemInt t b) (amax2 t a b)

/-- SUB. -/
def elSub (_ t _ a b : Nat) : ERes :=
  if isFloat t then floatRes (typeFmt t) ((typeFmt t).add (elemFl t a) (elemFl t b).neg) (amax2 t a b)
  else intRes (elemWidth t) (elemInt t a - elemInt t b) (amax2 t a b)

/-- MUL. -/
def elMul (_ t _ a b : Nat) : ERes :=
  if isFloat t then floatRes (typeFmt t) ((typeFmt t).mul (elemFl t a) (elemFl t b)) (amax2 t a b)
  else intRes (elemWidth t) (elemInt t a * elemInt t b) (amax2 t a b)

/-- MIN (`less` true) or MAX. Of two zeros −0 is the lesser. Two NaNs give the canonical one (R63); whether one NaN gives it or the number
is not stated, and is free (log 10). -/
def elMinMax (less : Bool) (_ t _ a b : Nat) : ERes :=
  if isFloat t then
    let x := elemFl t a
    let y := elemFl t b
    match x.cmp y with
    | none =>
      let num := match x, y with
        | .nan _, .nan _ => none
        | .nan _, _ => some b
        | _, _ => some a
      floatRes (typeFmt t) ((match num, Config.minMaxNumber with | some v, true => v | _, _ => (typeFmt t).qnan), sigFlags x y) (amax2 t a b)
    | some o =>
      let aFirst := match o with
        | .lt => less
        | .gt => !less
        | .eq => a.testBit (elemWidth t - 1) == less
      floatRes (typeFmt t) (if aFirst then a else b, noFlags) (amax2 t a b)
  else
    let p := elemInt t a
    let q := elemInt t b
    intRes (elemWidth t) (if less then min p q else max p q) (amax2 t a b)

/-- ABS and NEG: the magnitude, or the value with its sign changed. A NaN becomes the canonical one (R63). -/
def elSign (abs : Bool) (_ t _ a : Nat) : ERes :=
  if isFloat t then
    let h := 2 ^ (elemWidth t - 1)
    match elemFl t a with
    | .nan s => floatRes (typeFmt t) ((typeFmt t).qnan, { noFlags with invalid := s }) 0
    | _ => floatRes (typeFmt t) (if abs then a % h else if a < h then a + h else a - h, noFlags) (elemAmax t a 0)
  else intRes (elemWidth t) (if abs then ((elemInt t a).natAbs : Int) else -elemInt t a) (elemAmax t a 0)

/-- DIV. -/
def elDiv (_ t _ a b : Nat) : ERes := floatRes (typeFmt t) ((typeFmt t).div (elemFl t a) (elemFl t b)) (amax2 t a b)

/-- SQRT. -/
def elSqrt (_ t _ a : Nat) : ERes := floatRes (typeFmt t) ((typeFmt t).sqrt (elemFl t a)) (elemAmax t a 0)

/-- Flags from five bits, in the order of R195. -/
def flagsOf (b : BitVec 5) : FlFlags := ⟨b.getLsbD 0, b.getLsbD 1, b.getLsbD 2, b.getLsbD 3, b.getLsbD 4⟩

/-- The code of 2^x (k 0) or log2 x (k 1): within 1 ulp of the value (R197), by what Kwedin's table gives. An operand with no finite value
of the function takes the table's own code, canonical where that is a NaN (R63). -/
def tableCode (k : Nat) (f : Fmt) (x : Fl) (pick : Nat) : Nat :=
  let open_ := let v := pick % 2 ^ (f.ebits + f.fbits + 1); if f.infinity false < v % 2 ^ (f.ebits + f.fbits) then f.qnan else v
  match k, x with
  | 0, .fin neg m e => match f.exp2Floor neg m e with
    | some r => f.nearUlp r.1 r.2 pick
    | none => open_
  | _, .fin false (m + 1) e =>
    let r := f.log2Floor (m + 1) e
    if r.1 = 0 ∧ r.2.2 then 0 else f.nearUlp r.1 r.2.2 pick + f.zero r.2.1
  | _, _ => open_

/-- EXP2 (k 0) and LOG2 (k 1): Kwedin's tables, which the spec does not give (log 7). A NaN gives the canonical NaN (R63). -/
def elTable (k : Nat) (_ t _ a : Nat) : ERes :=
  match elemFl t a with
  | .nan s => floatRes (typeFmt t) ((typeFmt t).qnan, { noFlags with invalid := s }) 0
  | x =>
    let v := if k = 0 then Config.exp2 t (BitVec.ofNat 32 a) else Config.log2 t (BitVec.ofNat 32 a)
    floatRes (typeFmt t) (tableCode k (typeFmt t) x v.toNat, flagsOf (Config.tableFlags (2 * k + t) (BitVec.ofNat 32 a))) (elemAmax t a 0)

/-- AND, OR and XOR of the elements' bits. -/
def elBits (f : Nat → Nat → Nat) (_ t _ a b : Nat) : ERes := rawRes t (f a b) (amax2 t a b)

/-- A shift by k: left clamps, right is arithmetic and rounds to nearest even; by an amount with no stated meaning the result is
free (R197, log 10). -/
def elShift (left : Bool) (k : Int) (draw t i a : Nat) : ERes :=
  if k < 0 then rawRes t (openElem t draw i) (elemAmax t a 0)
  else
    let s := min k.toNat 128
    intRes (elemWidth t) (if left then elemInt t a * 2 ^ s else roundEven (elemInt t a) (2 ^ s)) (elemAmax t a 0)

/-! ### Control -/

/-- VEND ends the program (R197). -/
def execVVend (n : Wing) (s : State) : Host.Outcome State Fault Refusal :=
  onChip (vRow n.val 0x00 fun _ c => c.vEnd n.val) s

/-- SOP (R197). Codes 6 and 7 have no stated result: free (log 10). -/
def vSopBody (n : Nat) (w : Word) (c : Chip) : Chip :=
  let x := (c.wing n).vec
  let d := vVd w % 16
  let v := x.scal d
  let a := x.scal (vVa w % 16)
  let imm : Word := BitVec.ofInt 64 (sext 20 (vImm w 22 3))
  let k := vImm w 8 3
  let r := match vImm w 2 0 with
    | 0 => v + imm
    | 1 => v + a
    | 2 => v - a
    | 3 => v <<< k
    | 4 => v.sshiftRight k
    | 5 => imm
    | _ => w64 ((Config.vectorOpen c.free 0).toNat + (Config.vectorOpen c.free 1).toNat * 2 ^ 32)
  (c.draw.modVec n fun x => x.setScal d r).vNext n

/-- SOP. -/
def execVSop (n : Wing) (s : State) : Host.Outcome State Fault Refusal := onChip (vRow n.val 0x3C (vSopBody n.val)) s

/-- SLOOP: decrement and branch while the result is not zero (R197). -/
def vSloopBody (n : Nat) (w : Word) (c : Chip) : Chip :=
  let v := (c.wing n).vec.scal (vSr w) - 1
  let c := c.modVec n fun x => x.setScal (vSr w) v
  if v = 0 then c.vNext n else c.vBranch n (sext 23 (vImm w 22 0))

/-- SLOOP. -/
def execVSloop (n : Wing) (s : State) : Host.Outcome State Fault Refusal := onChip (vRow n.val 0x3D (vSloopBody n.val)) s

/-- SBR branches by IMM (R197). -/
def execVSbr (n : Wing) (s : State) : Host.Outcome State Fault Refusal :=
  onChip (vRow n.val 0x3E fun w c => c.vBranch n.val (sext 23 (vImm w 22 0))) s

/-- A result of one mask bit: an element that is zero where the bit is 0 (R200). DESIGN CHOICE (log 119). -/
def maskRes (b : Bool) (amax : Lane) : ERes :=
  { code := b2n b, fl := noFlags, sat := false, nonfin := false, zero := !b, amax := amax }

/-- FLAG: the active lanes whose flag is set, and optionally that flag cleared in them (R197). Codes 5 to 7 name no flag: their
mask is free (log 10). -/
def vFlagBody (n : Nat) (w : Word) (c : Chip) : Chip :=
  let x := (c.wing n).vec
  let k := vImm w 2 0
  let act := x.mask (vMask w)
  let d := vVd w % 8
  let set : BitVec 1024 := if k < 5 then nth 0 x.flags k else BitVec.ofNat 1024 (bitsOfList ((List.range 1024).map fun i => (Config.vectorOpen c.free i).getLsbD 0))
  let keep : BitVec 1024 := if vZm w then 0 else x.mask d &&& ~~~act
  let y := x.setMask d ((set &&& act) ||| keep)
  let y := if vImm w 3 3 = 1 then { y with flags := setAt y.flags k (nth 0 x.flags k &&& ~~~(set &&& act)) } else y
  ((c.draw.modVec n fun _ => y).vCount w x (((maskList act).zip (maskList set)).filterMap fun p => if p.1 then some (maskRes p.2 0) else none)).vNext n

/-- FLAG. -/
def execVFlag (n : Wing) (s : State) : Host.Outcome State Fault Refusal := onChip (vRow n.val 0x38 (vFlagBody n.val)) s

/-! ### Moves and arithmetic -/

/-- MOV. -/
def execVMov (n : Wing) (s : State) : Host.Outcome State Fault Refusal :=
  onChip (vRow n.val 0x01 (vMap1 n.val fun _ t _ a => passRes t a (elemAmax t a 0))) s

/-- A scalar, as a signed integer, converted exactly to a type (R197). A float that cannot hold it exactly has no stated value:
free (log 10). An integer type clamps. -/
def elBcast (t draw i : Nat) (v : Int) : ERes :=
  if isFloat t then
    let r := (typeFmt t).ofInt v 0
    let am := BitVec.ofNat 32 (fmt32.ofInt (v.natAbs : Int) 0).1
    floatRes (typeFmt t) (if r.2.inexact || r.2.overflow then openElem t draw i else r.1, noFlags) am
  else intRes (elemWidth t) v (BitVec.ofNat 32 (fmt32.ofInt (v.natAbs : Int) 0).1)

/-- BCAST, which ignores MASK. -/
def vBcastBody (n : Nat) (w : Word) (c : Chip) : Chip :=
  let t := vType w
  let v := ((c.wing n).vec.scal (vSr w)).toInt
  c.draw.vWrite n w t true (List.replicate 1024
    (List.replicate (if t = 1 ∨ t = 3 then 2 else 1) (elBcast t c.free 0 v)))

/-- BCAST. -/
def execVBcast (n : Wing) (s : State) : Host.Outcome State Fault Refusal := onChip (vRow n.val 0x02 (vBcastBody n.val)) s

/-- ADD. -/
def execVAdd (n : Wing) (s : State) : Host.Outcome State Fault Refusal := onChip (vRow n.val 0x08 (vMap2 n.val elAdd)) s
/-- SUB. -/
def execVSub (n : Wing) (s : State) : Host.Outcome State Fault Refusal := onChip (vRow n.val 0x09 (vMap2 n.val elSub)) s
/-- MUL. -/
def execVMul (n : Wing) (s : State) : Host.Outcome State Fault Refusal := onChip (vRow n.val 0x0A (vMap2 n.val elMul)) s
/-- MIN. -/
def execVMin (n : Wing) (s : State) : Host.Outcome State Fault Refusal := onChip (vRow n.val 0x0B (vMap2 n.val (elMinMax true))) s
/-- MAX. -/
def execVMax (n : Wing) (s : State) : Host.Outcome State Fault Refusal := onChip (vRow n.val 0x0C (vMap2 n.val (elMinMax false))) s
/-- ABS. -/
def execVAbs (n : Wing) (s : State) : Host.Outcome State Fault Refusal := onChip (vRow n.val 0x0D (vMap1 n.val (elSign true))) s
/-- NEG. -/
def execVNeg (n : Wing) (s : State) : Host.Outcome State Fault Refusal := onChip (vRow n.val 0x0E (vMap1 n.val (elSign false))) s
/-- DIV. -/
def execVDiv (n : Wing) (s : State) : Host.Outcome State Fault Refusal := onChip (vRow n.val 0x10 (vMap2 n.val elDiv)) s
/-- SQRT. -/
def execVSqrt (n : Wing) (s : State) : Host.Outcome State Fault Refusal := onChip (vRow n.val 0x11 (vMap1 n.val elSqrt)) s
/-- EXP2. -/
def execVExp2 (n : Wing) (s : State) : Host.Outcome State Fault Refusal := onChip (vRow n.val 0x12 (vMap1 n.val (elTable 0))) s
/-- LOG2. -/
def execVLog2 (n : Wing) (s : State) : Host.Outcome State Fault Refusal := onChip (vRow n.val 0x13 (vMap1 n.val (elTable 1))) s
/-- AND. -/
def execVAnd (n : Wing) (s : State) : Host.Outcome State Fault Refusal := onChip (vRow n.val 0x20 (vMap2 n.val (elBits (· &&& ·)))) s
/-- OR. -/
def execVOr (n : Wing) (s : State) : Host.Outcome State Fault Refusal := onChip (vRow n.val 0x21 (vMap2 n.val (elBits (· ||| ·)))) s
/-- XOR. -/
def execVXor (n : Wing) (s : State) : Host.Outcome State Fault Refusal := onChip (vRow n.val 0x22 (vMap2 n.val (elBits (· ^^^ ·)))) s

/-- A shift instruction: by s[SR], or with IMM[0] by the same lane of VB from 0 to 63 (R197). -/
def vShiftBody (left : Bool) (n : Nat) (w : Word) (c : Chip) : Chip :=
  let t := vType w
  let x := (c.wing n).vec
  let ks : List Int :=
    if vImm w 0 0 = 1 then (x.reg (vVb w)).map fun l => if l.toInt ≤ 63 then l.toInt else -1
    else List.replicate 1024 (x.scal (vSr w)).toInt
  let xs := x.src c.free t (vVa w)
  c.draw.draw.vWrite n w t false ((xs.zip ks).zipIdx.map fun p =>
    p.1.1.zipIdx.map fun q => elShift left p.1.2 (c.free + 1) t (2 * p.2 + q.2) q.1)

/-- SHL. -/
def execVShl (n : Wing) (s : State) : Host.Outcome State Fault Refusal := onChip (vRow n.val 0x23 (vShiftBody true n.val)) s
/-- SHR. -/
def execVShr (n : Wing) (s : State) : Host.Outcome State Fault Refusal := onChip (vRow n.val 0x24 (vShiftBody false n.val)) s

/-- SEL: every lane is written, from VA where the mask is 1, else from VB (R197). An inactive lane raises no flag and counts nowhere
(R199). -/
def vSelBody (n : Nat) (w : Word) (c : Chip) : Chip :=
  let t := vType w
  let x := (c.wing n).vec
  let xs := x.src c.free t (vVa w)
  let ys := x.src (c.free + 1) t (vVb w)
  let act := maskList (x.mask (vMask w))
  let res := (act.zip (xs.zip ys)).map fun p =>
    (p.2.1.zip p.2.2).map fun q => passRes t (if p.1 then q.1 else q.2) (amax2 t q.1 q.2)
  let quiet := (act.zip res).map fun p => if p.1 then p.2 else p.2.map fun r => { r with fl := noFlags }
  let d := c.draw.draw.vWrite n (w &&& ~~~((1 : Word) <<< 40)) t true quiet
  d.vCount w x (((act.zip res).filter Prod.fst).flatMap Prod.snd)

/-- SEL. -/
def execVSel (n : Wing) (s : State) : Host.Outcome State Fault Refusal := onChip (vRow n.val 0x1B (vSelBody n.val)) s

/-! ### Comparison -/

/-- One comparison: its truth and the flags. A signalling NaN raises invalid (R63); whether an ordered comparison of a quiet NaN
does is not stated, and is free (log 10). -/
def elCmp (op draw t i a b : Nat) : Bool × FlFlags :=
  if isFloat t then
    let x := elemFl t a
    let y := elemFl t b
    match x.cmp y with
    | none =>
      let f := sigFlags x y
      (false, if op = 0x18 then f else { f with invalid := f.invalid || (Config.vectorOpen draw i).getLsbD 0 })
    | some o => (match op with | 0x18 => o == .eq | 0x19 => o == .lt | _ => o != .gt, noFlags)
  else
    let p := elemInt t a
    let q := elemInt t b
    (match op with | 0x18 => decide (p = q) | 0x19 => decide (p < q) | _ => decide (p ≤ q), noFlags)

/-- A comparison writes a mask; masked lanes follow ZM (R197). With CE each active lane's bit counts, with the magnitudes of its operands
(R200). What the one bit of a packed lane is where its two elements
differ is not stated, and is free (log 10). -/
def vCmpBody (op n : Nat) (w : Word) (c : Chip) : Chip :=
  let t := vType w
  let x := (c.wing n).vec
  let xs := x.src c.free t (vVa w)
  let ys := x.src (c.free + 1) t (vVb w)
  let act := maskList (x.mask (vMask w))
  let rs := (xs.zip ys).zipIdx.map fun p => (p.1.1.zip p.1.2).zipIdx.map fun q => elCmp op (c.free + 2) t (2 * p.2 + q.2) q.1.1 q.1.2
  let bit1 := rs.zipIdx.map fun p =>
    if p.1.all Prod.fst then true else if p.1.all fun q => !q.1 then false else (Config.vectorOpen (c.free + 3) p.2).getLsbD 0
  let d := vVd w % 8
  let new := ((act.zip bit1).zip (maskList (x.mask d))).map fun p => if p.1.1 then p.1.2 else if vZm w then false else p.2
  let y := (x.setMask d (BitVec.ofNat 1024 (bitsOfList new))).raiseFlags ((act.zip rs).map fun p =>
    if p.1 then p.2.foldl (fun f q => f.or q.2) noFlags else noFlags)
  let counted := ((act.zip bit1).zip (xs.zip ys)).filterMap fun p =>
    if p.1.1 then some (maskRes p.1.2 ((p.2.1 ++ p.2.2).foldl (fun m e => amaxOf m (elemAmax t e 0)) 0)) else none
  ((c.draw.draw.draw.draw.modVec n fun _ => y).vCount w x counted).vNext n

/-- CMPEQ. -/
def execVCmpeq (n : Wing) (s : State) : Host.Outcome State Fault Refusal := onChip (vRow n.val 0x18 (vCmpBody 0x18 n.val)) s
/-- CMPLT. -/
def execVCmplt (n : Wing) (s : State) : Host.Outcome State Fault Refusal := onChip (vRow n.val 0x19 (vCmpBody 0x19 n.val)) s
/-- CMPLE. -/
def execVCmple (n : Wing) (s : State) : Host.Outcome State Fault Refusal := onChip (vRow n.val 0x1A (vCmpBody 0x1A n.val)) s

/-! ### Conversion -/

/-- The code limit of a conversion into an integer format (R70, R197, R198). -/
def cvtLimit (f : Nat) : Int :=
  if f = 4 then 32767 else if f = 9 then 2 ^ 31 - 1 else if f = 0x0A then 2 ^ 47 - 1 else 127

/-- A finite value m × 2^e with its sign as a code at scale s, clamped to ±q; the clamp counts and raises overflow (R70, R198). -/
def codeRes (q : Int) (v : Fl) (s : Int) (amax : Lane) : ERes :=
  match v with
  | .fin neg m e =>
    let x := finToInt neg m e s
    let y := clampInt (-q) q x
    { code := twos 64 y, fl := { noFlags with overflow := decide (x ≠ y) }, sat := decide (x ≠ y), nonfin := false,
      zero := decide (y = 0), amax := amax }
  | _ => { code := 0, fl := { noFlags with invalid := true }, sat := false, nonfin := true, zero := true, amax := 0 }

/-- Export into FP8 (R64): nearest even, with SAT choosing between a NaN or infinity and the largest finite value. An infinity that SAT clamps
counts as a saturation and raises overflow, as each clamp does (R198); one that SAT does not clamp is no overflowing element. DEDUCED
(log 117). -/
def fp8Res (e5 sat : Bool) (v : Fl) (amax : Lane) : ERes :=
  let nan := if e5 then 0x7E else 0x7F
  let sgn := fun (b : Bool) => b2n b * 128
  let ovf := fun (neg : Bool) => if sat then sgn neg + (if e5 then 0x7B else 0x7E) else if e5 then sgn neg + 0x7C else 0x7F
  let mk := fun (code : Nat) (fl : FlFlags) (s nf : Bool) =>
    ({ code := code, fl := fl, sat := s, nonfin := nf, zero := decide (code % 128 = 0), amax := amax } : ERes)
  match v with
  | .nan s => mk nan { noFlags with invalid := s } false true
  | .inf neg => mk (ovf neg) { noFlags with overflow := sat } sat true
  | .fin neg m e =>
    if e5 then
      let r := fmtE5.round false m e false
      if r.1 ≥ 0x7C then mk (ovf neg) { noFlags with overflow := true, inexact := true } true (!sat)
      else mk (sgn neg + r.1) r.2 false false
    else
      let top : Int := Nat.log2 m + e
      let q := max (top - 3) fmtE4.qmin
      let t := (roundAt m e false q)
      let code := (q - fmtE4.qmin).toNat * 8 + t.1
      let tiny := decide (top < fmtE4.qmin + 3)
      if code > 0x7E then mk (ovf neg) { noFlags with overflow := true, inexact := true } true (!sat)
      else if m = 0 then mk (sgn neg) noFlags false false
      else mk (sgn neg + code) { noFlags with underflow := tiny && t.2, inexact := t.2 } false false

/-- A value scaled by 2^e. -/
def Fl.scale (v : Fl) (e : Int) : Fl := match v with | .fin n m q => .fin n m (q + e) | x => x

/-- The value of a source element; an integer is element × 2^0. -/
def elemVal (t code : Nat) : Fl :=
  if isFloat t then elemFl t code else .fin (decide (elemInt t code < 0)) (elemInt t code).natAbs 0

/-- CVT of one element into format f (R198). `own` is the lane's exponent with IMM[5], and s the scalar's scale exponent. DESIGN CHOICE
(log 118): an integer element goes into FP8 as element × 2^0. -/
def elCvt (t f : Nat) (sat : Bool) (own : Option Int) (s : Int) (code : Nat) : ERes :=
  let am := elemAmax t code (own.getD (if (f = 5 ∨ f = 6) ∧ isFloat t = false then s else 0))
  let v := (elemVal t code).scale (own.getD 0)
  if f = 5 ∨ f = 6 then
    let g := if f = 5 then fmt32 else fmtBf
    let v := if isFloat t || own.isSome then v else v.scale s
    floatRes g (g.convert v) am
  else if f = 7 then fp8Res false sat v am
  else if f = 8 then fp8Res true sat v am
  else codeRes (cvtLimit f) v s am

/-- What a converted lane holds. Codes and binary32 land one per lane; bfloat16 from a packed type is packed again; bfloat16 and
FP8 from an unpacked type take the lane's low bits, and what lies above them is not stated. Which of a packed source's two results
a format of one per lane takes is not stated either. Both are free values (log 10). -/
def cvtLanes (t f draw i : Nat) (rs : List ERes) : List ERes :=
  let free := (Config.vectorOpen draw i).toNat
  let one := fun (r : ERes) =>
    if f = 0 then { r with code := free }
    else if f = 6 then { r with code := r.code + free / 65536 * 65536 }
    else if f = 7 ∨ f = 8 then { r with code := r.code + free / 256 * 256 }
    else { r with code := if f = 0x0A then r.code else r.code % 2 ^ 32 }
  match rs with
  | [r] => [one r]
  | [a, b] => if f = 6 ∧ (t = 1 ∨ t = 3) then [a, b] else [one (if Config.cvtHigh t f then b else a)]
  | l => l

/-- The tensor that a conversion with CE counts in; none without CE (R77, R200). -/
def VecSt.cvtTensor (x : VecSt) (w : Word) : Nat := if vCe w then nth noTensor x.cslots (vCslot w) else noTensor

/-- A format with a delayed scale (R72). -/
def isCodeFmt (f : Nat) : Bool := decide ((1 ≤ f ∧ f ≤ 4) ∨ f = 9 ∨ f = 0x0A)

/-- A conversion meets a history that is not complete: it waits, and sets HIST_WAIT once (R74). -/
def Chip.vHistWait (c : Chip) (n : Nat) : Chip :=
  match (c.wing n).vec.run with
  | some r => if r.histWait then c else (c.modVec n fun x => { x with run := some { r with histWait := true } }).histWait
  | none => c

/-- CVT (R198). One of a tensor into its codes waits for the tensor's history (R74); one of an index of TENSORS or more takes s = 0 (R77). A
NaN or infinite input to an integer format sets the step poison (R313). The census counts every element that is converted; the lanes
written are those of `cvtLanes`. -/
def vCvtBody (n : Nat) (w : Word) (c : Chip) : Chip :=
  let t := vType w
  let f := vImm w 3 0
  let x := (c.wing n).vec
  let ten := x.cvtTensor w
  if ten < c.tensors ∧ isCodeFmt f = true ∧ c.histReady c.censusStep = false then c.vHistWait n else
  let s := if c.tensors ≤ ten ∧ ten ≠ noTensor then 0 else sext 8 (x.scal (vSr w)).toNat
  let xs := x.src c.free t (vVa w)
  let es := (x.reg (vVb w)).map BitVec.toInt
  let act := maskList (x.mask (vMask w))
  let rs := (xs.zip es).map fun p =>
    p.1.map (elCvt t f (vImm w 4 4 = 1) (if vImm w 5 5 = 1 then some p.2 else none) s)
  let out := rs.zipIdx.map fun p => cvtLanes t f (c.free + 1) p.2 p.1
  let packed := decide (f = 6 ∧ (t = 1 ∨ t = 3))
  let lanes := out.map fun r => elemsToLanes (if packed then 1 else if f = 0x0A then 4 else 2)
    (if packed then r.map ERes.code else [(r.map ERes.code).headD 0])
  let y := x.setReg (vVd w) (mergeLanes act (vZm w) (lanes.map Prod.fst) (x.reg (vVd w)))
  let y := if f = 0x0A then y.setReg (vVd w + 1) (mergeLanes act (vZm w) (lanes.map Prod.snd) (x.reg (vVd w + 1))) else y
  let y := y.raiseFlags ((act.zip rs).map fun p => if p.1 then laneFlags p.2 else noFlags)
  let c := (c.draw.draw.modVec n fun _ => y).vCount w x (((act.zip rs).filter Prod.fst).flatMap Prod.snd)
  let bad := isCodeFmt f && ((act.zip rs).any fun p => p.1 && p.2.any ERes.nonfin)
  (if bad then c.poisonStep else c).vNext n

/-- CVT. -/
def execVCvt (n : Wing) (s : State) : Host.Outcome State Fault Refusal := onChip (vRow n.val 0x28 (vCvtBody n.val)) s

/-! ### Reduction -/

/-- One level of the Amirriusk tree (R65). -/
def treeLevel {α : Type} (f : α → α → α) : List α → List α
  | a :: b :: l => f a b :: treeLevel f l
  | l => l

/-- The eight levels of the tree over 256 values. -/
def treeSum {α : Type} (f : α → α → α) : Nat → List α → List α
  | 0, l => l
  | k + 1, l => treeSum f k (treeLevel f l)

/-- A float sum of 256 elements in the tree, each node rounded once to binary32, with the flags of its nodes (R68). -/
def floatTree (xs : List Fl) : Fl × FlFlags :=
  let node := fun (a b : Fl × FlFlags) =>
    let r := fmt32.add a.1 b.1
    (fmt32.unpack r.1, (a.2.or b.2).or r.2)
  (treeSum node 8 (xs.map fun x => (x, noFlags))).headD (.fin false 0 0, noFlags)

/-- RSUM of one group of 256 lanes' elements (R197, R68): an int32 group sums exactly to a wide result. DEDUCED (log 22): an
inactive lane adds zero. -/
def groupRes (t : Nat) (xs : List Nat) : ERes :=
  let am := xs.foldl (fun a x => amaxOf a (elemAmax t x 0)) 0
  if isFloat t then
    let r := floatTree (xs.map (elemFl t))
    if t = 1 then
      let q := fmtBf.convert r.1
      let z := floatRes fmtBf q am
      { z with fl := r.2.or q.2 }
    else
      let q := fmt32.convert r.1
      let z := floatRes fmt32 (q.1, r.2) am
      z
  else intRes 64 (sumInt (treeSum (· + ·) 8 (xs.map (elemInt t)))) am

/-- The elements of one group: element k of each of its lanes, zero for an inactive lane. -/
def groupElems (k g : Nat) (xs : List (List Nat)) (act : List Bool) : List Nat :=
  (((xs.zip act).drop (256 * g)).take 256).map fun p => if p.2 then nth 0 p.1 k else 0

/-- RSUM: results in lanes 0, 256, 512 and 768, zero elsewhere (R197). -/
def vRsumBody (n : Nat) (w : Word) (c : Chip) : Chip :=
  let t := vType w
  let x := (c.wing n).vec
  let xs := x.src c.free t (vVa w)
  let act := maskList (x.mask (vMask w))
  let td := if t = 2 then 4 else t
  let zero := rawRes td 0 0
  let res := (List.range 1024).map fun i =>
    if i % 256 = 0 then (List.range (if t = 1 then 2 else 1)).map fun k => groupRes t (groupElems k (i / 256) xs act)
    else List.replicate (if t = 1 then 2 else 1) zero
  c.draw.vWrite n w td false res

/-- RSUM. -/
def execVRsum (n : Wing) (s : State) : Host.Outcome State Fault Refusal := onChip (vRow n.val 0x2C (vRsumBody n.val)) s

/-! ### Loads and stores -/

/-- The address of a VLD or VST as formed: s[SR] + 64 × IMM[22:4] (R201). -/
def vAddr (x : VecSt) (w : Word) : Nat := (x.scal (vSr w) + BitVec.ofInt 64 (64 * sext 19 (vImm w 22 4))).toNat

/-- Bytes that a VLD or VST covers. -/
def vBytes (w : Word) : Nat :=
  match vImm w 1 0 with
  | 0 => 4096
  | 1 => 2048
  | 2 => 1024
  | _ => if vOp w = 0x30 then 16384 else 2048

/-- A region that a VLD may read, or a VST write: with TAG a store, else local memory outside the annex and the backing too; a
VST of WIDTH 0 without TAG may reach the annex (R201, R218, R295, R464). -/
def vRegionOk (w : Word) (r : Region) : Bool :=
  match r with
  | .wingStore _ | .galStore _ _ => true
  | .localMem _ => vImm w 2 2 = 0
  | .annex _ => vOp w = 0x31 && vImm w 2 0 = 0
  | _ => false

/-- The local address of a VLD or VST, where it may be performed (R201). -/
def Chip.vTarget (c : Chip) (x : VecSt) (w : Word) : Option Nat :=
  if vAddr x w % 64 ≠ 0 then none
  else match c.ownLocal (vAddr x w) with
    | some a => if c.linesAre a (vBytes w) (vRegionOk w) then some a else none
    | none => none

/-- Bytes k of lane i of a load, sign-extended to an element of a lane (R201). -/
def loadElem (t width : Nat) (bs : List Byte) : Nat := twos (if t = 4 then 64 else 32) (sext (8 * width) (ofLeBytes bs))

/-- A list cut into pieces of k items. -/
def pieces {α : Type} (k : Nat) : Nat → List α → List (List α)
  | 0, _ => []
  | fuel + 1, l => l.take k :: pieces k fuel (l.drop k)

/-- The lanes of a plain load written (R201). -/
def Chip.vLoadLanes (c : Chip) (n : Nat) (w : Word) (bs : List Byte) : Chip :=
  let t := vType w
  let width := match vImm w 1 0 with | 0 => 4 | 1 => 2 | _ => 1
  let res := (pieces width 1024 bs).map fun l =>
    let v := loadElem t width l
    (lanesToElems t (BitVec.ofNat 32 v) (BitVec.ofNat 32 (v / 2 ^ 32))).map fun a => rawRes t a (elemAmax t a 0)
  c.vWrite n w t false res

/-- The lanes of a load of raw accumulator records written: ACC into the pair, EA into the third register, SAT into the lane's
overflow flag (R201). -/
def Chip.vLoadRaw (c : Chip) (n : Nat) (w : Word) (bs : List Byte) : Chip :=
  let x := (c.wing n).vec
  let recs := (pieces 16 1024 bs).map fun l => (ofLeBytes (l.take 8), ofLeBytes (l.drop 8))
  let res := recs.map fun p =>
    let r := rawRes 4 p.1 (elemAmax 4 p.1 (sext 10 p.2))
    [{ r with fl := { noFlags with overflow := bit p.2 16 } }]
  let act := maskList (x.mask (vMask w))
  let eas := recs.map fun p => BitVec.ofInt 32 (sext 10 p.2)
  let c := c.modVec n fun y => y.setReg (vVd w + 2) (mergeLanes act (vZm w) eas (x.reg (vVd w + 2)))
  c.vWrite n w 4 false res

/-- A load's lanes written from its bytes. -/
def Chip.vLoadDone (c : Chip) (n : Nat) (w : Word) (bs : List Byte) : Chip :=
  if vImm w 1 0 = 3 then c.vLoadRaw n w bs else c.vLoadLanes n w bs

/-- The place that a tagged access of the engine has reached. -/
def Chip.vWait (c : Chip) (n : Nat) : VecWait :=
  match (c.wing n).vec.run with
  | some r => r.wait.getD { line := 0, got := [] }
  | none => { line := 0, got := [] }

/-- The place noted, so that a delivery can move it on. -/
def Chip.setVWait (c : Chip) (n : Nat) (q : VecWait) : Chip :=
  c.modVec n fun x => { x with run := x.run.map fun r => { r with wait := some q } }

/-- A tagged load's lines read in turn, each once its eight words are full (R220). It stops at a line that must wait. -/
def Chip.vLoadLines (n a lines : Nat) (kind : TagKind) (task : Option Nat) : Nat → Chip → Chip
  | 0, c => c
  | fuel + 1, c =>
    let q := c.vWait n
    if q.line ≥ lines then c
    else
      let d := (c.setVWait n q).access
        { addr := c.home (a + 64 * q.line), issuer := .vec n, kind := kind, value := 0, pars := [], since := c.tick.edges, task := task }
      if (d.vWait n).line = q.line then d else Chip.vLoadLines n a lines kind task fuel d

/-- Parity of a tagged load's words checked as they are used (R366). -/
def Chip.vParity (c : Chip) (n a len : Nat) (task : Option Nat) : Chip :=
  let ps := (linesOf a len).flatMap fun p => (List.range (p.2 / 4)).map fun i => c.parAt (c.home p.1 + 4 * i)
  c.useWords (.wing n) a ps task

/-- VLD (R201, R220). Repeated after a wait, it goes on with the line that it had reached. -/
def vVldBody (n : Nat) (w : Word) (c : Chip) : Chip :=
  let x := (c.wing n).vec
  match c.vTarget x w with
  | none => c.vFault n (vAddr x w)
  | some a =>
    let len := vBytes w
    if vImm w 2 2 = 0 then
      let (c, bs) := c.useRange (.wing n) a len x.task
      c.vLoadDone n w bs
    else
      let kind := if vImm w 3 3 = 1 then TagKind.consume else TagKind.read
      let c := Chip.vLoadLines n a (len / 64) kind x.task (len / 64) c
      let q := c.vWait n
      if q.line < len / 64 then c else (c.vParity n a len x.task).vLoadDone n w q.got

/-- VLD. -/
def execVVld (n : Wing) (s : State) : Host.Outcome State Fault Refusal := onChip (vRow n.val 0x30 (vVldBody n.val)) s

/-- A lane's 32 bits as a VST writes them from the low end; of a masked lane zero with ZM, else nothing (R201). -/
def storeByte (zm act : Bool) (l : Lane) (k : Nat) : Option Byte :=
  if act then some (BitVec.ofNat 8 (l.toNat / 256 ^ k)) else if zm then some 0 else none

/-- The bytes that a VST writes, from its address on: none where it writes nothing (R201). The register stored is VA: DEDUCED
(log 22). With WIDTH 3 the lanes' low bytes are packed in blocks with EXP from s[SR + 1]; s16 does not exist, and its byte is
free. A block with no byte to write has no EXP written either. -/
def VecSt.storeBytes (x : VecSt) (w : Word) (draw : Nat) : List (Option Byte) :=
  let act := maskList (x.mask (vMask w))
  let ls := (act.zip (x.reg (vVa w)))
  match vImm w 1 0 with
  | 3 =>
    let e : Byte := if vSr w = 15 then BitVec.ofNat 8 (Config.vectorOpen draw 0).toNat else BitVec.ofNat 8 (x.scal (vSr w + 1)).toNat
    let blocks := (pieces 32 32 ls).map fun b =>
      (if b.any (fun p => p.1 || vZm w) then some e else none) :: b.map fun p => storeByte (vZm w) p.1 p.2 0
    (blocks.take 31).flatten ++ [some 0] ++ (blocks.drop 31).flatten ++ List.replicate 990 none ++ [some 0]
  | width =>
    let k := if width = 0 then 4 else if width = 1 then 2 else 1
    ls.flatMap fun p => (List.range k).map fun i => storeByte (vZm w) p.1 p.2 i

/-- Runs of bytes that are written, as (offset, bytes). -/
def byteRuns (l : List (Option Byte)) : List (Nat × List Byte) :=
  (l.zipIdx.foldl (fun (acc : List (Nat × List Byte)) p => match p.1, acc with
    | none, a => a
    | some b, (o, bs) :: a => if o + bs.length = p.2 then (o, bs ++ [b]) :: a else (p.2, [b]) :: (o, bs) :: a
    | some b, [] => [(p.2, [b])]) []).reverse

/-- The bytes of one line written, of which some may be kept: in local memory one read, merge and write of the line, or none where the line
is uncorrectable (R290). -/
def Chip.storeMask (c : Chip) (a : Nat) (line : List (Option Byte)) (task : Option Nat) : Chip :=
  let merge := fun (old : List Byte) => (line.zip old).map fun p => p.1.getD p.2
  if line.all Option.isNone then c
  else match c.region (c.home a), line.all Option.isSome with
    | .localMem n, false =>
      let h := c.home a
      let l := h % 0x1000000000 / 64
      let c := c.touchWatch h
      if c.lineBad n l then
        let (c, old, bad) := c.readRecord n l l false
        if bad then c else c.writeRecord n l (merge old)
      else c.setBytes h (merge (c.bytes h 64))
    | _, _ => (byteRuns line).foldl (fun d r => d.store (a + r.1) r.2 [] task) c

/-- One 64-byte line of a VST: added to the annex (R296), or its bytes stored. -/
def Chip.vStoreLine (w : Word) (x : VecSt) (a : Nat) (line : List (Option Byte)) (c : Chip) : Chip :=
  match c.region a with
  | .annex m =>
    let adds := (pieces 4 16 line).map fun l => match l with
      | [some b0, some b1, some b2, some b3] => some (BitVec.ofNat 32 (ofLeBytes [b0, b1, b2, b3]))
      | _ => none
    c.accumulate m (a % 0x1000000000 / 64) adds (nth noTensor x.cslots (vCslot w)) x.task
  | _ => c.storeMask a line x.task

/-- A masked lane adds nothing to the annex, whatever ZM holds (R296). -/
def VecSt.annexBytes (x : VecSt) (w : Word) : List (Option Byte) :=
  ((maskList (x.mask (vMask w))).zip (x.reg (vVa w))).flatMap fun p => (List.range 4).map fun i => storeByte false p.1 p.2 i

/-- The 64-bit words that a tagged VST fills, in ascending address: each with the bytes that it does not write kept. -/
def fillWords (c : Chip) (a : Nat) (bs : List (Option Byte)) : List (Nat × Word) :=
  ((pieces 8 (bs.length / 8) bs).zipIdx.filter fun p => p.1.any Option.isSome).map fun p =>
    let old := leBytes 8 (c.word (c.home (a + 8 * p.2))).toNat
    (a + 8 * p.2, w64 (ofLeBytes ((p.1.zip old).map fun q => q.1.getD q.2)))

/-- A tagged store's words filled in turn; it stops at a word that is full (R220). -/
def Chip.vFillWords (n a : Nat) (bs : List (Option Byte)) (task : Option Nat) : Nat → Chip → Chip
  | 0, c => c
  | fuel + 1, c =>
    let q := c.vWait n
    match (fillWords c a bs).drop q.line with
    | [] => c
    | (b, v) :: _ =>
      let d := (c.setVWait n q).fillAccess
        { addr := c.home b, issuer := .vec n, kind := .fill, value := v, pars := [], since := c.tick.edges, task := task }
      if (d.vWait n).line = q.line then d else Chip.vFillWords n a bs task fuel d

/-- VST (R201, R220, R296). Repeated after a wait, it goes on with the word that it had reached. -/
def vVstBody (n : Nat) (w : Word) (c : Chip) : Chip :=
  let x := (c.wing n).vec
  match c.vTarget x w with
  | none => c.vFault n (vAddr x w)
  | some a =>
    let bs := x.storeBytes w c.free
    if vImm w 2 2 = 0 then
      let ann := if vImm w 1 0 = 0 then x.annexBytes w else []
      let c := (List.range (vBytes w / 64)).foldl (fun d i =>
        let b := a + 64 * i
        let src := match d.region b with | .annex _ => ann | _ => bs
        d.vStoreLine w x b ((src.drop (64 * i)).take 64)) c.draw
      c.vNext n
    else
      let c := Chip.vFillWords n a bs x.task 2048 c
      if (fillWords c a bs).length ≤ (c.vWait n).line then c.draw.vNext n else c

/-- VST. -/
def execVVst (n : Wing) (s : State) : Host.Outcome State Fault Refusal := onChip (vRow n.val 0x31 (vVstBody n.val)) s

end Sys2Proof.Machine
end

