-- ==== Sys2Proof/Machine/Link.lean ====
section
/-! DEFINITION. Bluyx: frames with their Reed–Solomon code and CRC (R337 to R342), packets and virtual lanes (R343 to R352), bring-up
and low power (R354, R355), timestamps and the cascade (R353, R356 to R358). -/

namespace Sys2Proof.Machine

/-! ### The code of a frame (R338) -/

/-- Multiplication by α in GF(2^8) with x^8 + x^4 + x^3 + x^2 + 1. -/
def g8x (a : Nat) : Nat := if a ≥ 128 then (2 * a) ^^^ 0x11D else 2 * a

/-- Multiplication in GF(2^8). -/
def g8mul (a b : Nat) : Nat :=
  ((List.range 8).foldl (fun (p : Nat × Nat) i => (if b.testBit i then p.1 ^^^ p.2 else p.1, g8x p.2)) (0, a)).1

/-- α^k. -/
def g8pow : Nat → Nat
  | 0 => 1
  | k + 1 => g8x (g8pow k)

/-- Multiplicative inverse, a^254. -/
def g8inv (a : Nat) : Nat := (List.range 7).foldl (fun (p : Nat × Nat) _ => let q := g8mul p.2 p.2; (g8mul p.1 q, q)) (1, a) |>.1

/-- A polynomial, lowest coefficient first, at a point. -/
def g8eval (p : List Nat) (x : Nat) : Nat := p.foldr (fun c acc => c ^^^ g8mul acc x) 0

/-- The generator polynomial with roots α^0 to α^5, highest coefficient first and its leading 1 left out. -/
def rsGen : List Nat :=
  ((List.range 6).foldl (fun (g : List Nat) i =>
    ((g ++ [0]).zip ((0 : Nat) :: g.map (g8mul (g8pow i)))).map fun (p : Nat × Nat) => p.1 ^^^ p.2) [1]).tail

/-- The six check bytes of 130 information bytes: the remainder of their polynomial times x^6. -/
def rsCheck (info : List Nat) : List Nat :=
  info.foldl (fun r b =>
    let q := b ^^^ r.headD 0
    ((r.tail ++ [0]).zip rsGen).map fun (p : Nat × Nat) => p.1 ^^^ g8mul q p.2) (List.replicate 6 0)

/-- The syndromes of a codeword of 136 bytes, its first byte the highest power. -/
def rsSyndromes (w : List Nat) : List Nat :=
  (List.range 6).map fun i => let a := g8pow i; w.foldl (fun acc b => g8mul acc a ^^^ b) 0

/-- One step of the Berlekamp–Massey search for the error locator: C, B, L, m and b. -/
def bmStep (s : List Nat) (st : List Nat × List Nat × Nat × Nat × Nat) (n : Nat) : List Nat × List Nat × Nat × Nat × Nat :=
  let (c, b, l, m, bb) := st
  let d := (List.range (l + 1)).foldl (fun acc i => acc ^^^ g8mul (nth 0 c i) (if i ≤ n then nth 0 s (n - i) else 0)) 0
  if d = 0 then (c, b, l, m + 1, bb)
  else
    let k := g8mul d (g8inv bb)
    let sh := List.replicate m 0 ++ b.map (g8mul k)
    let len := max c.length sh.length
    let c' := (List.range len).map fun i => nth 0 c i ^^^ nth 0 sh i
    if 2 * l ≤ n then (c', c, n + 1 - l, 1, d) else (c', b, l, m + 1, bb)

/-- A codeword decoded: its bytes and how many were corrected, or none where it cannot be (R338: up to 3 byte errors). -/
def rsDecode (w : List Nat) : Option (List Nat × Nat) :=
  let s := rsSyndromes w
  if s.all fun x => x == 0 then some (w, 0)
  else
    let (c, _, l, _, _) := (List.range 6).foldl (bmStep s) ([1], [1], 0, 1, 1)
    let roots := (List.range 136).filter fun j => g8eval c (g8inv (g8pow (135 - j))) == 0
    if l > 3 ∨ roots.length ≠ l then none
    else
      let om := (List.range 6).map fun i => (List.range (i + 1)).foldl (fun acc k => acc ^^^ g8mul (nth 0 s k) (nth 0 c (i - k))) 0
      let dc := (List.range 3).map fun i => if i % 2 = 0 then nth 0 c (i + 1) else 0
      let fixes := roots.map fun j =>
        let x := g8pow (135 - j)
        let xi := g8inv x
        (j, g8mul x (g8mul (g8eval om xi) (g8inv (g8eval dc xi))))
      let w' := w.zipIdx.map fun p => fixes.foldl (fun v f => if f.1 = p.2 then v ^^^ f.2 else v) p.1
      if (rsSyndromes w').all fun x => x == 0 then some (w', l) else none

/-- The codeword that frame byte i belongs to. -/
def codewordOf (i : Nat) : Nat := (i % 8 + i / 8) % 8

/-- The bytes of codeword k of a frame, in ascending i. -/
def codeword (fr : List Byte) (k : Nat) : List Nat :=
  (fr.zipIdx.filter fun p => decide (codewordOf p.2 = k)).map fun p => p.1.toNat

/-- A frame of 1,088 bytes from eight codewords. -/
def interleave (ws : List (List Nat)) (n : Nat) : List Byte :=
  ((List.range n).foldl (fun (st : List (List Nat) × List Byte) i =>
    let k := codewordOf i
    (setAt st.1 k (nth [] st.1 k).tail, BitVec.ofNat 8 ((nth [] st.1 k).headD 0) :: st.2)) (ws, [])).2.reverse

/-- CRC-32C (polynomial 0x1EDC6F41, reflected, ones in and out) of bytes. -/
def crc32c (bs : List Byte) : Nat :=
  (bs.foldl (fun (r : Nat) b =>
    (List.range 8).foldl (fun r _ => if r % 2 = 1 then (r / 2) ^^^ 0x82F63B78 else r / 2) (r ^^^ b.toNat)) 0xFFFFFFFF) ^^^ 0xFFFFFFFF

/-- The first twelve bytes of a frame header (R339). -/
def frameHdr (seq ack : Nat) (nak lp : Bool) (credit : List Nat) : List Byte :=
  leBytes 12 (seq % 4096 + ack % 4096 * 2 ^ 12 + b2n nak * 2 ^ 24 + b2n lp * 2 ^ 25 +
    (credit.take 7).zipIdx.foldl (fun v p => v + p.1 % 256 * 2 ^ (32 + 8 * p.2)) 0)

/-- A whole frame: units, header with its CRC, and the check bytes of the eight codewords (R337 to R339). -/
def buildFrame (units hdr : List Byte) : List Byte :=
  let info := units ++ hdr ++ leBytes 4 (crc32c (hdr ++ units))
  let ws := (List.range 8).map fun k => let w := codeword info k; w ++ rsCheck w
  interleave ws 1088

/-! ### Packets (R343) -/

/-- Word k of a packet's header. -/
def pWord (p : Packet) (k : Nat) : Word := nth 0 p.header k
/-- KIND. -/
def pKind (p : Packet) : Nat := wbits (pWord p 0) 3 0
/-- VL. -/
def pVl (p : Packet) : Nat := wbits (pWord p 0) 5 4
/-- DCLASS. -/
def pClass (p : Packet) : Nat := wbits (pWord p 0) 6 6
/-- LAST. -/
def pLast (p : Packet) : Bool := (pWord p 0).getLsbD 7
/-- VER. -/
def pVer (p : Packet) : Nat := wbits (pWord p 0) 15 8
/-- DST. -/
def pDst (p : Packet) : Nat := wbits (pWord p 0) 27 16
/-- SRC. -/
def pSrc (p : Packet) : Nat := wbits (pWord p 0) 39 28
/-- NUNITS. -/
def pUnits (p : Packet) : Nat := wbits (pWord p 0) 44 40
/-- FILL. -/
def pFill (p : Packet) : Bool := (pWord p 0).getLsbD 45
/-- WAITSRC. -/
def pWait (p : Packet) : Bool := (pWord p 0).getLsbD 46
/-- CONTRIB. -/
def pContrib (p : Packet) : Bool := (pWord p 0).getLsbD 47
/-- SIG. -/
def pSig (p : Packet) : Nat := wbits (pWord p 0) 63 48
/-- ADDR. -/
def pAddr (p : Packet) : Nat := wbits (pWord p 1) 43 0
/-- XFER. -/
def pXfer (p : Packet) : Nat := wbits (pWord p 2) 23 0
/-- ARG. -/
def pArg (p : Packet) : Word := pWord p 3

/-- A header unit from its fields. -/
def mkPacket (kind vl : Nat) (last : Bool) (ver dst src units : Nat) (fill wait contrib : Bool) (sig addr xfer : Nat) (arg : Word)
    (data : List Byte) : Packet :=
  { header := [w64 (kind + vl * 2 ^ 4 + b2n last * 2 ^ 7 + ver * 2 ^ 8 + dst * 2 ^ 16 + src * 2 ^ 28 + units * 2 ^ 40 +
      b2n fill * 2 ^ 45 + b2n wait * 2 ^ 46 + b2n contrib * 2 ^ 47 + sig * 2 ^ 48), w64 addr, w64 xfer, arg, 0, 0, 0, 0]
    data := data }

/-- A packet's bytes in the unit stream. -/
def packetBytes (p : Packet) : List Byte := ((padTo 8 0 p.header).flatMap fun w => leBytes 8 w.toNat) ++ p.data

/-- The data units that follow a header: none for a READ, whose NUNITS are those it asks for. -/
def dataUnits (p : Packet) : Nat := if pKind p = 2 then 0 else pUnits p

/-- The buffer of a VL and class, in the order of R345. -/
def bufferOf (vl cls : Nat) : Nat := if vl = 3 then 6 else 2 * vl + cls

/-- This part's physical identity (R353). -/
def Chip.phys (c : Chip) : Nat := c.fld Reg.linkIdent 11 0

/-- The cascade version (R354). -/
def Chip.cver (c : Chip) : Nat := c.fld Reg.linkIdent 39 32

/-- STATE of a port set. -/
def Chip.setPortState (c : Chip) (n a x : Nat) : Chip := c.setFld (Reg.bxStatus n a) 2 0 x

/-- The event counter of flag k of a port (R364). -/
def bxCtr (n a k : Nat) : Nat := if a = 0 then Reg.bxCtr0 n k else Reg.bxCtr1 n k

/-- A flag of a port's events set (R364). -/
def Chip.portEvent (c : Chip) (n a k : Nat) : Chip := c.raise (Reg.bxEvents n a) k (bxCtr n a k)

/-! ### Routing (R349, R350) -/

/-- LAST_SRC with NOROUTE (0), HDR_VER (1) or RBAD (2) (R361). -/
def Chip.linkFlag (c : Chip) (k src : Nat) : Chip := (c.setFld Reg.linkStatus 27 16 src).raise Reg.linkStatus k (Reg.linkCtr k)

/-- A packet with no valid route, or a header of another version: discarded, a tier 2 event, and the loaded tasks stop
(R349, R354). -/
def Chip.badRoute (c : Chip) (k : Nat) (p : Packet) : Chip :=
  (c.linkFlag k (pSrc p)).faultTier2
    { tier := 2, level := 3, wing := 0, source := 0x0B, gallery := 0, unit := 0, task := 0, verdict := 0, detail := pDst p }

/-- A packet sent out of the group of its destination's route: its class follows R350, and it is queued at its port. `inPort` is
the port it entered through, none where it starts here. -/
def Chip.routeOut (c : Chip) (p : Packet) (inPort : Option Nat) : Chip :=
  let r := Reg.linkRoute (pDst p)
  if !c.flag r 16 then c.badRoute 0 p
  else
    let out := c.fld r 4 0 + pXfer p % (c.fld r 12 8 + 1)
    let dim := fun (q : Nat) => c.fld (Reg.bxCfg (q / 2) (q % 2)) 2 1
    let cls := match inPort with
      | none => 0
      | some q => if dim q = dim out then pClass p else 0
    let cls := if c.flag (Reg.bxCfg (out / 2) (out % 2)) 3 then 1 else cls
    let h := setBits (pWord p 0).toNat 6 6 cls
    let q : TxPacket := { vl := pVl p, dclass := cls, pkt := { p with header := setAt p.header 0 (w64 h) } }
    c.modPort (out / 2) (out % 2) fun x => { x with txq := x.txq ++ [q] }

/-! ### Sending frames -/

/-- The first packet that waits for a buffer. -/
def PortSt.firstOf (x : PortSt) (b : Nat) : Option TxPacket := x.txq.find? fun q => decide (bufferOf q.vl q.dclass = b)

/-- A buffer has a packet ready and the credits for all its units (R345). -/
def PortSt.ready (x : PortSt) (b : Nat) : Bool :=
  match x.firstOf b with
  | some q => decide (1 + dataUnits q.pkt ≤ nth 0 x.credits b)
  | none => false

/-- The order in which buffers are picked: management, response, collective, request, class 1 before class 0 (R346). -/
def pickOrder : List Nat := [6, 3, 2, 5, 4, 1, 0]

/-- The buffer that sends next: one passed over 64 times while ready, else the first in order (R346). -/
def PortSt.pick (x : PortSt) : Option Nat :=
  match pickOrder.find? fun b => x.ready b && decide (64 ≤ nth 0 x.passed b) with
  | some b => some b
  | none => pickOrder.find? x.ready

/-- An IDLE header unit (R343, R344). -/
def idleUnit (ver : Nat) : List Byte := packetBytes { header := [w64 (ver * 2 ^ 8), 0, 0, 0, 0, 0, 0, 0], data := [] }

/-- The unit stream filled to a frame's 16 units: packets as they are picked, IDLE units where there is nothing to carry. -/
def PortSt.fillStream (ver : Nat) : Nat → PortSt → PortSt
  | 0, x => x
  | fuel + 1, x =>
    if 1024 ≤ x.stream.length then x
    else match x.pick with
      | none => PortSt.fillStream ver fuel { x with stream := x.stream ++ idleUnit ver }
      | some b =>
        match x.firstOf b with
        | none => x
        | some q =>
          PortSt.fillStream ver fuel { x with
            txq := x.txq.erase q
            stream := x.stream ++ packetBytes q.pkt
            credits := setAt x.credits b (nth 0 x.credits b - (1 + dataUnits q.pkt))
            passed := x.passed.zipIdx.map fun p => if p.2 = b then 0 else if x.ready p.2 then p.1 + 1 else 0 }

/-- SEQ of the last frame received good. -/
def PortSt.ack (x : PortSt) : Nat := (x.rxSeq + 4095) % 4096

/-- A new frame: the next 16 units of the stream, held for replay (R337, R340). -/
def PortSt.newFrame (x : PortSt) (ver : Nat) (lp : Bool) : PortSt :=
  let x := PortSt.fillStream ver 16 x
  let units := x.stream.take 1024
  let fr := buildFrame units (frameHdr x.txSeq x.ack x.nakDue lp x.freed)
  { x with stream := x.stream.drop 1024, txSeq := (x.txSeq + 1) % 4096, nakDue := false, lastFrame := fr,
           replay := x.replay ++ [{ seq := x.txSeq, units := units, credit := x.freed, resends := 0 }] }

/-- A held frame sent again, with the credit counts that it carried (R339, R340). -/
def PortSt.sendAgain (x : PortSt) (f : HeldFrame) : PortSt :=
  { x with resend := x.resend.tail, nakDue := false,
           lastFrame := buildFrame f.units (frameHdr f.seq x.ack x.nakDue false f.credit)
           replay := x.replay.map fun h => if h.seq = f.seq then { h with resends := h.resends + 1 } else h }

/-- The tasks whose route entries or combine tree name a port (R340). -/
def Chip.tasksOnPort (c : Chip) (p : Nat) : List Nat :=
  let tree := (!c.flag Reg.linkTree 5 && decide (c.fld Reg.linkTree 4 0 = p)) || c.flag Reg.linkTree (32 + p)
  let routed := fun (d : Nat) =>
    c.flag (Reg.linkRoute d) 16 && decide (c.fld (Reg.linkRoute d) 4 0 ≤ p ∧ p ≤ c.fld (Reg.linkRoute d) 4 0 + c.fld (Reg.linkRoute d) 12 8)
  (c.tasks.filter fun t => c.stoppable t.1 && match t.2.img with
    | some im => decide (1 < im.parts) && (tree || im.xlate.any fun e => decide (e.2 ≠ c.phys) && routed e.2)
    | none => false).map Prod.fst

/-- A link fault (R340): the port goes to its fault state, a tier 2 event that stops the tasks that use the port. DEDUCED (log 123): where
no loaded task uses it, the event names no task and stops every loaded one (R377). -/
def Chip.linkFault (c : Chip) (n a : Nat) : Chip :=
  let ts := c.tasksOnPort (2 * n + a)
  let c := ((c.portEvent n a 2).setPortState n a 4).modPort n a fun x => { x with resend := [], locked := false, retrain := 0 }
  c.faultTier2For { tier := 2, level := 2, wing := n, source := 0x0A, gallery := 0, unit := a, task := ts.headD 0, verdict := 0,
                    detail := 2 * n + a } (if ts.isEmpty then c.allTasks else ts) 0x14

/-- FRAME_SEND: a port that is up sends its next frame: one to be resent, else a new one while fewer than 256 wait for an ACK
(R337, R340). DEDUCED (log 78). -/
def frameSend (n a : Nat) (c : Chip) : Chip :=
  let x := (c.wing n).port a
  if c.portState n a ≠ 2 ∨ x.locked = false ∨ x.farLp = true then c
  else match x.resend with
    | s :: _ =>
      match x.replay.find? fun h => decide (h.seq = s) with
      | none => c.modPort n a fun x => { x with resend := x.resend.tail }
      | some h =>
        if 8 ≤ h.resends then c.linkFault n a
        else (c.modPort n a fun x => x.sendAgain h).portEvent n a 1
    | [] => if x.replay.length < 256 then c.modPort n a fun x => x.newFrame c.cver false else c

/-- FRAME_SEND. -/
def execFrameSend (n : Wing) (a : Fin 2) (s : State) : Host.Outcome State Fault Refusal := onChip (frameSend n.val a.val) s

/-- Every unacknowledged frame is to be resent, in order; a ninth resend is a link fault instead (R340). -/
def Chip.startReplay (c : Chip) (n a : Nat) : Chip :=
  let x := (c.wing n).port a
  if x.replay.any fun h => decide (8 ≤ h.resends) then c.linkFault n a
  else c.modPort n a fun x => { x with resend := x.replay.map HeldFrame.seq }

/-- REPLAY_TIMEOUT: 2 µs without ACK progress while frames are outstanding (R340). -/
def replayTimeout (n a : Nat) (c : Chip) : Chip :=
  if c.portState n a = 2 ∧ ((c.wing n).port a).replay ≠ [] then c.startReplay n a else c

/-- REPLAY_TIMEOUT. -/
def execReplayTimeout (n : Wing) (a : Fin 2) (s : State) : Host.Outcome State Fault Refusal := onChip (replayTimeout n.val a.val) s

/-- A port sends one last frame with LP and enters its low-power state (R355). -/
def Chip.portSleep (c : Chip) (n a : Nat) : Chip :=
  if c.portState n a = 2 then (c.modPort n a fun x => x.newFrame c.cver true).setPortState n a 3 else c

/-! ### Receiving frames -/

/-- Held frames that an ACK covers are let go (R340). -/
def ackFrames (ack : Nat) (l : List HeldFrame) : List HeldFrame :=
  match l.findIdx? fun h => decide (h.seq = ack) with
  | some i => l.drop (i + 1)
  | none => l

/-- The packets that received units complete: a packet needs its header unit and its data units. IDLE units are dropped. -/
def parsePackets : Nat → List Byte → List Packet → List Packet × List Byte
  | 0, bs, acc => (acc, bs)
  | fuel + 1, bs, acc =>
    if bs.length < 64 then (acc, bs)
    else
      let hdr := (pieces 8 8 bs).map fun l => w64 (ofLeBytes l)
      let p : Packet := { header := hdr, data := [] }
      if pKind p = 0 then parsePackets fuel (bs.drop 64) acc
      else
        let len := 64 * dataUnits p
        if bs.length < 64 + len then (acc, bs)
        else parsePackets fuel (bs.drop (64 + len)) (acc ++ [{ p with data := (bs.drop 64).take len }])

/-- The contents of a good frame that carries the SEQ expected: its ACK, credits, LP and units taken in (R339, R340). -/
def PortSt.accept (x : PortSt) (hdr : Nat) (units : List Byte) : PortSt :=
  let counts := (List.range 7).map fun k => bits hdr (39 + 8 * k) (32 + 8 * k)
  let (pkts, rest) := parsePackets 64 (x.rxUnits ++ units) []
  { x with
    rxSeq := (x.rxSeq + 1) % 4096
    replay := ackFrames (bits hdr 23 12) x.replay
    resend := x.resend.filter fun s => (ackFrames (bits hdr 23 12) x.replay).any fun h => decide (h.seq = s)
    credits := ((x.credits.zip counts).zip x.lastCred).map fun p => p.1.1 + (p.1.2 + 256 - p.2) % 256
    lastCred := counts
    farLp := bit hdr 25
    rxUnits := rest
    rxPkts := x.rxPkts ++ pkts }

/-- FRAME_RECEIVE: the eight codewords are decoded, the CRC checked, and the frame accepted, dropped, or discarded until the
replay brings the SEQ that is expected (R338 to R340). DEDUCED (log 79). A frame that arrives after the far end's last one with LP shows that the
far end has woken the link, and this port is up again. DEDUCED (log 122). -/
def frameReceive (n a : Nat) (bytes : List Byte) (c : Chip) : Chip :=
  if bytes.length ≠ 1088 ∨ c.portState n a < 1 ∨ 3 < c.portState n a ∨ ((c.wing n).port a).locked = false then c
  else
    let ds := (List.range 8).map fun k => rsDecode (codeword bytes k)
    let fixed := ds.filterMap id
    let corr := (fixed.filter fun d => decide (d.2 ≠ 0)).length
    let c := if corr = 0 then c else ((c.setFlag (Reg.bxEvents n a) 0 true).countBy (bxCtr n a 0) corr).countBy (Reg.bxSymerr n a)
      (fixed.foldl (fun v d => v + d.2) 0)
    if fixed.length < 8 then c.modPort n a fun x => { x with nakDue := true, badRun := x.badRun + 1 }
    else
      let info := interleave (fixed.map fun d => d.1.take 130) 1040
      let units := info.take 1024
      let hdr := (info.drop 1024).take 12
      let c := c.modPort n a fun x => { x with badRun := 0 }
      if ofLeBytes ((info.drop 1036).take 4) ≠ crc32c (hdr ++ units) then c.modPort n a fun x => { x with nakDue := true }
      else
        let h := ofLeBytes hdr
        if bits h 11 0 ≠ ((c.wing n).port a).rxSeq then c
        else
          let c := c.modPort n a fun x => x.accept h units
          let c := if c.portState n a = 3 && !bit h 25 then c.setPortState n a 2 else c
          if bit h 24 && !((c.wing n).port a).replay.isEmpty then c.startReplay n a else c

/-- FRAME_RECEIVE. -/
def execFrameReceive (n : Wing) (a : Fin 2) (bytes : List Byte) (s : State) : Host.Outcome State Fault Refusal :=
  onChip (frameReceive n.val a.val bytes) s

/-- LOCK_LOSS: eight consecutive frames with a codeword that cannot be corrected: lock is lost and the port retrains (R342). -/
def lockLoss (n a : Nat) (c : Chip) : Chip :=
  if 8 ≤ ((c.wing n).port a).badRun ∧ ((c.wing n).port a).locked = true then
    ((c.portEvent n a 6).setPortState n a 1).modPort n a fun x => { x with locked := false, retrain := 1 }
  else c

/-- LOCK_LOSS. -/
def execLockLoss (n : Wing) (a : Fin 2) (s : State) : Host.Outcome State Fault Refusal := onChip (lockLoss n.val a.val) s

/-- PORT_RETRAIN_DONE: a retrain stage ends; the second stage's failure is a link fault (R342). The frames lost are replayed. -/
def portRetrainDone (n a : Nat) (ok : Bool) (c : Chip) : Chip :=
  let x := (c.wing n).port a
  if x.retrain = 0 then c
  else if ok then
    let c := (c.setPortState n a 2).modPort n a fun x => { x with locked := true, retrain := 0, badRun := 0 }
    if x.replay.isEmpty then c else c.startReplay n a
  else if x.retrain = 1 then c.modPort n a fun x => { x with retrain := 2 }
  else c.linkFault n a

/-- PORT_RETRAIN_DONE. -/
def execPortRetrainDone (n : Wing) (a : Fin 2) (ok : Bool) (s : State) : Host.Outcome State Fault Refusal :=
  onChip (portRetrainDone n.val a.val ok) s

/-! ### Bring-up and low power -/

/-- PORT_BRINGUP: the lanes equalise, deskew and lock (R336, R354). A port in fault comes back only while no task is loaded
(R340). Lanes that do not train at ×8 may give ×4. -/
def portBringup (n a : Nat) (lanes : BitVec 8) (c : Chip) : Chip :=
  let st := c.portState n a
  if c.up = false ∨ c.flag (Reg.bxCfg n a) 0 = false ∨ !(st = 0 ∨ (st = 4 ∧ c.anyLoaded = false)) then c
  else
    let narrow := c.flag (Reg.bxCfg n a) 4
    let train := fun (d : Chip) (width half : Nat) =>
      (((d.setFld (Reg.bxStatus n a) 3 3 width).setFld (Reg.bxStatus n a) 4 4 half).setPortState n a 1).modPort n a fun x =>
        { PortSt.reset with locked := true, txq := x.txq }
    if lanes = 0xFF then train c 0 0
    else if narrow && decide (lanes &&& 0x0F = 0x0F) then train (c.portEvent n a 4) 1 0
    else if narrow && decide (lanes &&& 0xF0 = 0xF0) then train (c.portEvent n a 4) 1 1
    else c.setPortState n a 0

/-- PORT_BRINGUP. -/
def execPortBringup (n : Wing) (a : Fin 2) (lanes : BitVec 8) (s : State) : Host.Outcome State Fault Refusal :=
  onChip (portBringup n.val a.val lanes) s

/-- CAPABILITY_EXCHANGE: the far end's identity, port and versions are learnt; the port is up at the highest common version with
credit counts at zero, or sets NOVER and stays down (R354). DEDUCED (log 23): a sender then holds credits for a whole buffer. -/
def capabilityExchange (n a farId farPort : Nat) (farVset : BitVec 8) (c : Chip) : Chip :=
  if c.portState n a ≠ 1 ∨ ((c.wing n).port a).retrain ≠ 0 then c
  else if !farVset.getLsbD 0 then (c.portEvent n a 3).setPortState n a 0
  else
    let c := ((c.setFld (Reg.bxStatus n a) 15 8 1).setFld (Reg.bxStatus n a) 27 16 farId).setFld (Reg.bxStatus n a) 36 32 farPort
    (c.setPortState n a 2).modPort n a fun x => { x with credits := List.replicate 6 1024 ++ [64] }

/-- CAPABILITY_EXCHANGE. -/
def execCapabilityExchange (n : Wing) (a : Fin 2) (farId : BitVec 12) (farPort : Fin 32) (farVset : BitVec 8) (s : State) :
    Host.Outcome State Fault Refusal :=
  onChip (capabilityExchange n.val a.val farId.toNat farPort.val farVset) s

/-- PORT_WAKE: a packet waits for a port in low power, or whose far end has announced LP: the port wakes on demand (R355). -/
def portWake (n a : Nat) (c : Chip) : Chip :=
  let x := (c.wing n).port a
  if (c.portState n a = 3 ∨ (c.portState n a = 2 ∧ x.farLp = true)) ∧ x.txq ≠ [] ∧ x.waking = false then
    (c.portEvent n a 5).modPort n a fun x => { x with waking := true }
  else c

/-- PORT_WAKE. -/
def execPortWake (n : Wing) (a : Fin 2) (s : State) : Host.Outcome State Fault Refusal := onChip (portWake n.val a.val) s

/-- PORT_WAKE_DONE: the port is up again, and its packets proceed (R355). -/
def portWakeDone (n a : Nat) (c : Chip) : Chip :=
  if ((c.wing n).port a).waking then
    (c.setPortState n a 2).modPort n a fun x => { x with waking := false, farLp := false }
  else c

/-- PORT_WAKE_DONE. -/
def execPortWakeDone (n : Wing) (a : Fin 2) (s : State) : Host.Outcome State Fault Refusal := onChip (portWakeDone n.val a.val) s

/-- PORT_IDLE_LP: with no task loaded, a port that is up and has nothing to carry for 1 ms enters its low-power state (R442). -/
def portIdleLp (n a : Nat) (c : Chip) : Chip :=
  let x := (c.wing n).port a
  if c.anyLoaded = false ∧ x.txq = [] ∧ x.stream = [] ∧ x.rxPkts = [] ∧ x.resend = [] then c.portSleep n a else c

/-- PORT_IDLE_LP. -/
def execPortIdleLp (n : Wing) (a : Fin 2) (s : State) : Host.Outcome State Fault Refusal := onChip (portIdleLp n.val a.val) s

/-- IDLE: a port with nothing ready puts an IDLE unit into its stream (R343, R344). -/
def idle (n a : Nat) (c : Chip) : Chip :=
  let x := (c.wing n).port a
  if c.portState n a = 2 ∧ x.pick = none ∧ x.stream = [] then
    c.modPort n a fun x => { x with stream := idleUnit c.cver }
  else c

/-- IDLE. -/
def execIdle (n : Wing) (a : Fin 2) (s : State) : Host.Outcome State Fault Refusal := onChip (idle n.val a.val) s

/-! ### Packets at their destination -/

/-- A packet leaves the receive buffer, and its units' credits are freed (R339). DEDUCED (log 80). -/
def Chip.takePacket (c : Chip) (n a : Nat) (p : Packet) : Chip :=
  c.modPort n a fun x =>
    if x.rxPkts.contains p then
      let b := bufferOf (pVl p) (pClass p)
      { x with rxPkts := x.rxPkts.erase p, freed := setAt x.freed b ((nth 0 x.freed b + 1 + dataUnits p) % 256) }
    else x

/-- Words that packets of a port's virtual lane wrote and that still wait at their homes. -/
def Chip.linkWaits (c : Chip) (n a vl : Nat) : List Wait := (c.waits ++ c.resends).filter fun w => decide (w.issuer = .link n a vl)

/-- Signals that a port holds until every packet before them is written, applied once that is so (R228, R347). -/
def Chip.flushSigs (c : Chip) (n a : Nat) : Chip :=
  let (d, more) := c.portSigs n a
  d.serveAll more

/-- The signal of a packet, after every packet that arrived earlier on the same port and virtual lane is written (R347). -/
def Chip.linkSignal (c : Chip) (n a vl sig : Nat) : Chip :=
  (c.modPort n a fun x => { x with sigWait := x.sigWait ++ [{ sig := sig, before := c.linkWaits n a vl }] }).flushSigs n a

/-- Packets for this part are written in the order in which they arrived on a virtual lane: none stands before p in the receive buffer (R347). -/
def Chip.packetTurn (c : Chip) (n a : Nat) (p : Packet) : Bool :=
  match ((c.wing n).port a).rxPkts.find? fun q => decide (pVl q = pVl p ∧ 1 ≤ pKind q ∧ pKind q ≤ 5 ∧ (pKind q = 5 ∨ pDst q = c.phys)) with
  | some q => decide (q = p)
  | none => true

/-- Packets for another part leave in the order in which they arrived in a buffer (R347). -/
def Chip.forwardTurn (c : Chip) (n a : Nat) (p : Packet) : Bool :=
  match ((c.wing n).port a).rxPkts.find? fun q =>
      decide (pVl q = pVl p ∧ pClass q = pClass p ∧ 1 ≤ pKind q ∧ pKind q < 5 ∧ pDst q ≠ c.phys) with
  | some q => decide (q = p)
  | none => true

/-- A region that a packet may write or read at its destination (R348). -/
def packetRegion (r : Region) : Bool :=
  match r with
  | .localMem _ | .wingStore _ | .galStore _ _ => true
  | _ => false

/-- A packet fails the destination checks: RBAD, the loaded tasks stop, and no signal of its transfer is ever applied (R348): what follows of a
transfer of WRITE packets is passed over up to its last. -/
def Chip.rbad (c : Chip) (n a : Nat) (p : Packet) : Chip :=
  let c := c.linkFlag 2 (pSrc p)
  let c := if pKind p = 1 ∧ pLast p = false then c.modPort n a fun x => { x with rxBad := x.rxBad ++ [(pSrc p, pXfer p)] } else c
  c.allTasks.foldl (fun d t => d.taskError t) c

/-- The checks of R348 on an address and its units. -/
def Chip.packetOk (c : Chip) (addr units : Nat) : Bool :=
  decide (addr % 64 = 0 ∧ units ≤ 16) && c.linesAre addr (64 * units) packetRegion

/-- Data words set full one by one as they are written (R212, R220). -/
def Chip.linkFill (c : Chip) (n a vl addr : Nat) (data : List Byte) : Chip :=
  (pieces 8 (data.length / 8) data).zipIdx.foldl (fun d p =>
    let b := addr + 8 * p.2
    d.fillAccess { addr := d.home b, issuer := .link n a vl, kind := .fill, value := w64 (ofLeBytes p.1), pars := [],
                   since := d.tick.edges, task := d.taskAt b }) c

/-- Data of a packet written at its address: with tags only in a store, the only memory that has them (R218). -/
def Chip.linkStore (c : Chip) (n a vl addr : Nat) (fill : Bool) (data : List Byte) : Chip :=
  if fill && (c.region addr).isStore then c.linkFill n a vl addr data else c.store addr data [] (c.taskAt addr)

/-- A packet has reached this part with the kind of its row, and its version is the cascade's; a header of another version is
discarded (R354). -/
def Chip.atDest (c : Chip) (n a : Nat) (p : Packet) (kind : Nat) (f : Chip → Chip) : Chip :=
  if c.up = false ∨ c.halted = true ∨ pKind p ≠ kind ∨ p.data.length ≠ 64 * dataUnits p ∨ c.packetTurn n a p = false then c
  else if pVer p ≠ c.cver then (c.takePacket n a p).badRoute 1 p
  else if kind ≠ 5 ∧ pDst p ≠ c.phys then c
  else f (c.takePacket n a p)

/-- WRITE_PACKET (R344, R347, R348, R359). -/
def writePacket (n a : Nat) (p : Packet) (c : Chip) : Chip :=
  c.atDest n a p 1 fun c =>
    if ((c.wing n).port a).rxBad.contains (pSrc p, pXfer p) then
      if pLast p then c.modPort n a fun x => { x with rxBad := x.rxBad.erase (pSrc p, pXfer p) } else c
    else if !c.packetOk (pAddr p) (pUnits p) then c.rbad n a p
    else
      let c := c.linkStore n a (pVl p) (pAddr p) (pFill p) p.data
      let c := if pContrib p then c.checkHeader ((pieces 8 8 p.data).map fun l => w64 (ofLeBytes l)) else c
      if pLast p ∧ pSig p ≠ 0xFFFF then c.linkSignal n a (pVl p) (pSig p) else c

/-- WRITE_PACKET. -/
def execWritePacket (n : Wing) (a : Fin 2) (p : Packet) (s : State) : Host.Outcome State Fault Refusal :=
  onChip (writePacket n.val a.val p) s

/-- Key of a READ packet that is being served. -/
def readKey (p : Packet) : Nat := (pSrc p * 2 ^ 24 + pXfer p) * 2 ^ 44 + pAddr p

/-- The RDATA packet that answers a READ (R344). -/
def Chip.answerRead (c : Chip) (p : Packet) (bs : List Byte) : Chip :=
  c.routeOut (mkPacket 3 1 (pLast p) c.cver (pSrc p) c.phys (pUnits p) (pFill p) false false 0xFFFF (wbits (pArg p) 43 0) (pXfer p) 0 bs) none

/-- A READ with WAITSRC goes on word by word: each is read at its home once it is full, and waits there until it is (R220, R221). -/
def Chip.readWords (n a : Nat) (p : Packet) : Nat → Chip → Chip
  | 0, c => c
  | fuel + 1, c =>
    match NMap.find ((c.wing n).port a).reads (readKey p) with
    | none => c
    | some r =>
      if r.waiting then c
      else if 64 * pUnits p ≤ r.got.length then
        (c.modPort n a fun x => { x with reads := NMap.del x.reads (readKey p) }).answerRead p r.got
      else
        let b := pAddr p + r.got.length
        let c := c.modPort n a fun x => { x with reads := NMap.put x.reads (readKey p) { r with waiting := true } }
        let w : Wait := { addr := c.home b, issuer := .read n a (readKey p), kind := .read, value := 0, pars := [], since := c.tick.edges,
                          task := c.taskAt b }
        Chip.readWords n a p fuel (c.access w)

/-- READ_PACKET returns the units asked for as RDATA to RADDR on SRC (R344), once the port has checked their parity (R366). With WAITSRC each
word of a store is read only when full; repeated after a wait, the command goes on with the word that it had reached. -/
def readPacket (n a : Nat) (p : Packet) (c : Chip) : Chip :=
  let words := 8 * pUnits p + 1
  if c.halted then c
  else if (NMap.find ((c.wing n).port a).reads (readKey p)).isSome then Chip.readWords n a p words c
  else c.atDest n a p 2 fun c =>
    if !c.packetOk (pAddr p) (pUnits p) ∨ pUnits p = 0 then c.rbad n a p
    else if pWait p && (c.region (pAddr p)).isStore then
      Chip.readWords n a p words (c.modPort n a fun x => { x with reads := NMap.put x.reads (readKey p) { got := [], waiting := false } })
    else
      let (c, bs, ps) := c.fetch (pAddr p) (64 * pUnits p)
      (c.useWords (.wing n) (pAddr p) ps (c.taskAt (pAddr p))).answerRead p bs

/-- READ_PACKET. -/
def execReadPacket (n : Wing) (a : Fin 2) (p : Packet) (s : State) : Host.Outcome State Fault Refusal :=
  onChip (readPacket n.val a.val p) s

/-- A remote read's data counted for the DMA command whose destination holds the address; with all of them written the command's
packets are all written (R347). -/
def Chip.countRdata (c : Chip) (p : Packet) : Chip :=
  (List.range 16).foldl (fun d n =>
    let js := (d.wing n).dma
    match js.find? fun j => decide (j.2.xfer % 2 ^ 24 = pXfer p) && decide (j.2.begun = true ∧ j.2.written = false) &&
        decide (dDst j.2.cmd.words % 2 ^ 44 ≤ pAddr p ∧ pAddr p < dDst j.2.cmd.words % 2 ^ 44 + dLen j.2.cmd.words) with
    | some (k, j) =>
      let m := j.moved + p.data.length
      d.modWing n fun w => { w with dma := NMap.put w.dma k { j with moved := m, written := decide (dLen j.cmd.words ≤ m) } }
    | none => d) c

/-- RDATA writes read data at its address (R344). -/
def rdata (n a : Nat) (p : Packet) (c : Chip) : Chip :=
  c.atDest n a p 3 fun c =>
    if !c.packetOk (pAddr p) (pUnits p) then c.rbad n a p
    else (c.linkStore n a (pVl p) (pAddr p) (pFill p) p.data).countRdata p

/-- RDATA. -/
def execRdata (n : Wing) (a : Fin 2) (p : Packet) (s : State) : Host.Outcome State Fault Refusal :=
  onChip (rdata n.val a.val p) s

/-- CONSUME_PACKET raises C of the pair SIG by N; a pair of no loaded task is STRAY (R233, R344). -/
def consumePacket (n a : Nat) (p : Packet) (c : Chip) : Chip :=
  c.atDest n a p 4 fun c =>
    let w := pSig p / 4096
    let i := pSig p % 4096
    if c.pairLive w i then c.consumePair w i (wbits (pArg p) 15 0) else c.stray w

/-- CONSUME_PACKET. -/
def execConsumePacket (n : Wing) (a : Fin 2) (p : Packet) (s : State) : Host.Outcome State Fault Refusal :=
  onChip (consumePacket n.val a.val p) s

/-- MGMT delivers an operation word to Pendun's link firmware through the port's hub queue (R231, R344). -/
def mgmt (n a : Nat) (p : Packet) (c : Chip) : Chip :=
  c.atDest n a p 5 fun c => c.putHw (16 + 2 * n + a) (pArg p)

/-- MGMT. -/
def execMgmt (n : Wing) (a : Fin 2) (p : Packet) (s : State) : Host.Outcome State Fault Refusal :=
  onChip (mgmt n.val a.val p) s

/-- PACKET_FORWARD: a packet for another part leaves through its route's group (R349, R350). IDLE and MGMT are not forwarded. -/
def packetForward (n a : Nat) (p : Packet) (c : Chip) : Chip :=
  if c.up = false ∨ c.halted = true ∨ pKind p = 0 ∨ 5 ≤ pKind p ∨ pDst p = c.phys ∨ c.forwardTurn n a p = false then c
  else
    let c := c.takePacket n a p
    if pVer p ≠ c.cver then c.badRoute 1 p else c.routeOut p (some (2 * n + a))

/-- PACKET_FORWARD. -/
def execPacketForward (n : Wing) (a : Fin 2) (p : Packet) (s : State) : Host.Outcome State Fault Refusal :=
  onChip (packetForward n.val a.val p) s

/-! ### Time and the cascade -/

/-- An event that the tick master's logic puts in queue 52: a start (0), a pause (1) or its end (2), a slip (3) or a loss (4) (R231).
DESIGN CHOICE (log 51). -/
def Chip.tickEvent (c : Chip) (kind t : Nat) : Chip := c.putHw 52 (Config.tickEvent kind t)

/-- A tick-loss fault: SYNC_LOST, an event, and a halt at the next edge (R40, R42, R231). -/
def Chip.tickLost (c : Chip) : Chip :=
  ((c.raise Reg.tickStatus 2 (Reg.tickCtr 2)).tickEvent 4 0).faultTier3
    { tier := 3, level := 3, wing := 0, source := 0x0E, gallery := 0, unit := 0, task := 0, verdict := 0, detail := c.tick.missed }

/-- PERIOD differs from the tick master's (R41). -/
def Chip.periodMis (c : Chip) : Bool :=
  match c.tick.masterP with
  | some p => decide (p ≠ c.fld Reg.tickPeriod 7 0)
  | none => false

/-- An offset of the local edge, in nanoseconds, seen on a part that is not the master: more than 32 sets SYNC_SLEW, more than 250
while a task runs is a tick loss; neither on a part whose period differs while no task runs (R40, R41). -/
def Chip.offsetSeen (c : Chip) (o : Int) : Chip :=
  let c := { c with tick := { c.tick with offset := o } }
  if c.flag Reg.tickCtrl 0 || (c.periodMis && !c.anyRunning) then c
  else
    let c := if 32 < o.natAbs then c.raise Reg.tickStatus 1 (Reg.tickCtr 1) else c
    if 250 < o.natAbs && c.anyRunning then c.tickLost else c

/-- TIMESTAMP_EXCHANGE, times in units of 125 ps (R357). At the PARENT port the offset, with the parent's own, becomes
chip.tick.skew in nanoseconds. DEDUCED (log 24): halves and nanoseconds are rounded to nearest even. -/
def timestampExchange (n a t1 t2 t3 t4 : Nat) (parentOffset : Int) (c : Chip) : Chip :=
  if c.portState n a ≠ 2 then c
  else
    let delay := roundEven (((t4 : Int) - t1) - ((t3 : Int) - t2)) 2
    let offset := roundEven (((t2 : Int) - t1) - ((t4 : Int) - t3)) 2
    let c := (c.setFld (Reg.bxDelay n a) 15 0 (twos 16 delay)).setFld (Reg.bxDelay n a) 47 32 (twos 16 offset)
    if !c.flag Reg.linkTree 5 && decide (c.fld Reg.linkTree 4 0 = 2 * n + a) then
      let total := roundEven (offset + parentOffset) 8
      let c := (c.setFld Reg.tickSkew 15 0 (twos 16 total)).setFld Reg.tickSkew 31 16 (twos 16 (roundEven delay 8))
      c.offsetSeen total
    else c

/-- TIMESTAMP_EXCHANGE. -/
def execTimestampExchange (n : Wing) (a : Fin 2) (t1 t2 t3 t4 : Nat) (parentOffset : Int) (s : State) :
    Host.Outcome State Fault Refusal :=
  onChip (timestampExchange n.val a.val t1 t2 t3 t4 parentOffset) s

/-- TICK_COUNT_ADOPT: a part without a count takes the cascade's so that its next edge carries that number (R358). -/
def tickCountAdopt (count : Nat) (c : Chip) : Chip :=
  if c.up ∧ c.tick.hasCount = false ∧ c.flag Reg.tickCtrl 0 = false then
    let d := c.setFld Reg.tickCount 47 0 ((count + 2 ^ 48 - 1) % 2 ^ 48)
    { d with tick := { d.tick with hasCount := true } }
  else c

/-- TICK_COUNT_ADOPT. -/
def execTickCountAdopt (count : Nat) (s : State) : Host.Outcome State Fault Refusal := onChip (tickCountAdopt count) s

/-- CASCADE_ASSEMBLE: the census of the tree, versions and identities (R353, R354, R356). A duplicate sets DUP_ID; the cascade is
assembled where none is found and exactly one root is the tick master. -/
def cascadeAssemble (x : CascadeCensus) (c : Chip) : Chip :=
  if !c.up then c
  else
    let c := if x.duplicate then c.raise Reg.linkStatus 3 (Reg.linkCtr 3) else c
    (c.setFld Reg.linkIdent 39 32 x.version).setFlag Reg.linkIdent 48 (x.rooted && !x.duplicate)

/-- CASCADE_ASSEMBLE. -/
def execCascadeAssemble (x : CascadeCensus) (s : State) : Host.Outcome State Fault Refusal := onChip (cascadeAssemble x) s

end Sys2Proof.Machine
end

