-- ==== Sys2Proof/Machine/Dma.lean ====
section
/-! DEFINITION. The wing arbiter's held commands (R22, R210, R211), DMA commands (R212, R228, R315, R347), and the tagged accesses
and hub queues that no single unit owns (R221, R224, R232). -/

namespace Sys2Proof.Machine

/-! ### The wing arbiter -/

/-- Commands that an arbiter holds for a unit: at most 64 (R210). -/
def Chip.heldFor (c : Chip) (n : Nat) (u : ArbUnit) : Nat := ((c.wing n).held.filter fun h => decide (h.unit = u)).length

/-- A submitted command is held by the arbiter of wing n, and wakes the wing where it is not in run (R46, R210). -/
def Chip.holdCmd (c : Chip) (n : Nat) (u : ArbUnit) (task : Option Nat) (fromWing fromGal : Nat) (ws : List Word) : Chip :=
  let last := ws.getLastD 0
  let tag : CmdTag := { task := task, due := lastDue last, budget := lastBudget last }
  let h : HeldCmd := { unit := u, tag := tag, wing := fromWing, gal := fromGal, seq := (c.wing n).heldSeq, late := c.dueBegun tag,
                       words := ws }
  (c.wakeUp n).modWing n fun w => { w with held := w.held ++ [h], heldSeq := w.heldSeq + 1 }

/-- The place of a held command in the issue order: due tick, then submitting wing, gallery and submission; one that arrived after
its due tick had begun comes after all that were held with the same due tick (R22, R175, R211). -/
def HeldCmd.key (h : HeldCmd) : List Nat :=
  if h.late then [h.tag.due, 1, h.seq] else [h.tag.due, 0, h.wing, h.gal, h.seq]

/-- Lexicographic order of keys. -/
def keyLt : List Nat → List Nat → Bool
  | a :: as, b :: bs => decide (a < b) || (decide (a = b) && keyLt as bs)
  | [], _ :: _ => true
  | _, [] => false

/-- The held command of a unit that issues next: the first in order whose due tick has begun. -/
def Chip.nextHeld (c : Chip) (n : Nat) (u : ArbUnit) : Option HeldCmd :=
  ((c.wing n).held.filter fun h => decide (h.unit = u) && c.dueBegun h.tag).foldl
    (fun best h => match best with
      | none => some h
      | some b => if keyLt h.key b.key then some h else some b) none

/-- The matrix array of a unit. -/
def unitArr : ArbUnit → Option Nat
  | .mx0 => some 0
  | .mx1 => some 1
  | _ => none

/-- A unit takes another command now: its queue has room, and an array is enabled and not fenced (R175, R190, R202, R212). -/
def Chip.unitRoom (c : Chip) (n : Nat) (u : ArbUnit) : Bool :=
  match u with
  | .mx0 => c.arrayOn n 0 && decide ((c.wing n).mx0.queue.length < 32)
  | .mx1 => c.arrayOn n 1 && decide ((c.wing n).mx1.queue.length < 32)
  | .vec => decide ((c.wing n).vec.queue.length < 32)
  | .dma => decide ((c.wing n).dma.length < 8)

/-- A command issued to its unit. A DMA command takes a free engine slot and the engine's next transfer number. -/
def Chip.issueTo (c : Chip) (n : Nat) (u : ArbUnit) (q : UCmd) : Chip :=
  match u with
  | .mx0 => c.modArr n 0 fun r => { r with queue := r.queue ++ [q] }
  | .mx1 => c.modArr n 1 fun r => { r with queue := r.queue ++ [q] }
  | .vec => c.modVec n fun x => { x with queue := x.queue ++ [q] }
  | .dma => c.modWing n fun w =>
    match (List.range 8).find? fun k => (NMap.find w.dma k).isNone with
    | none => w
    | some k =>
      let j : DmaJob := { cmd := q, xfer := w.xfer, begun := false, moved := 0, written := false, waiting := false, held := none }
      { w with dma := NMap.put w.dma k j, xfer := (w.xfer + 1) % 2 ^ 24 }

/-- The arbiter and unit that a docent's CMD names (R210): none for its own gallery, an array its task does not hold, or a
reserved kind. -/
def Chip.cmdTarget (c : Chip) (n : Nat) (imm : BitVec 8) (task : Option Nat) : Option (Nat × ArbUnit) :=
  match imm.toNat % 8 with
  | 1 => match task with
    | some t => (NMap.find (c.task t).binds (imm.toNat / 8)).map fun p => (p / 2, if p % 2 = 0 then .mx0 else .mx1)
    | none => none
  | 2 => some (n, .vec)
  | 3 => some (n, .dma)
  | _ => none

/-- The first docent thread that waits for a place in an arbiter's holding buffer, in order of wing, gallery and thread.
DESIGN CHOICE (log 25): R210 does not say which of several waiting threads goes first. -/
def Chip.parkedFor (c : Chip) (n : Nat) (u : ArbUnit) : Option (Nat × Nat × Nat) :=
  c.gals.findSome? fun p =>
    (p.2.threads.find? fun q => match q.2.wait with
      | .queueFull imm _ _ => decide (c.cmdTarget (p.1 / 512) imm (c.galTask (p.1 / 512) (p.1 % 512)) = some (n, u))
      | _ => false).map fun q => (p.1 / 512, p.1 % 512, q.1)

/-- A place in a holding buffer freed: a parked thread's command takes it (R210). -/
def Chip.unparkFor (c : Chip) (n : Nat) (u : ArbUnit) : Chip :=
  if c.heldFor n u < 64 then
    match c.parkedFor n u with
    | some (n', g, th) =>
      match ((c.gal n' g).thread th).wait with
      | .queueFull _ ws _ =>
        (c.modThread n' g th fun s => { s with wait := .ready }).holdCmd n u (c.galTask n' g) n' (c.roleOf n' g) ws
      | _ => c
    | none => c
  else c

/-- Held commands issued one after another while the unit has room. -/
def Chip.issueLoop (n : Nat) (u : ArbUnit) : Nat → Chip → Chip
  | 0, c => c
  | fuel + 1, c =>
    if c.unitRoom n u then
      match c.nextHeld n u with
      | none => c
      | some h =>
        let c := (c.modWing n fun w => { w with held := w.held.erase h }).issueTo n u { tag := h.tag, words := h.words }
        Chip.issueLoop n u fuel (c.unparkFor n u)
    else c

/-- COMMAND_ISSUE. None issues in a pause, in a wing that is not in run, or before its due tick (R22, R44, R46). -/
def commandIssue (n : Nat) (u : ArbUnit) (c : Chip) : Chip :=
  if c.inRun n && !c.paused && !c.halted then Chip.issueLoop n u 64 c else c

/-- COMMAND_ISSUE. -/
def execCommandIssue (n : Wing) (u : ArbUnit) (s : State) : Host.Outcome State Fault Refusal := onChip (commandIssue n.val u) s

/-! ### DMA -/

/-- A DMA engine's job replaced. -/
def Chip.setJob (c : Chip) (n k : Nat) (j : DmaJob) : Chip := c.modWing n fun w => { w with dma := NMap.put w.dma k j }

/-- A DMA engine's slot freed, and a parked thread's command may be held. -/
def Chip.endJob (c : Chip) (n k : Nat) : Chip := c.modWing n fun w => { w with dma := NMap.del w.dma k }

/-- Where one side of a COPY lies: a local address of this part, or another part by its physical identity with the local address
there; none where the logical identity has no translation (R353). -/
inductive Side where
  | own (a : Nat)
  | far (phys a : Nat)
  | nowhere
  deriving DecidableEq, Repr

/-- The side that a global address names. DEDUCED (log 87). -/
def Chip.sideOf (c : Chip) (g : Nat) : Side :=
  match c.ownLocal g with
  | some a => .own a
  | none =>
    let r := Reg.linkXlate (g / 2 ^ 44 % 4096)
    if !c.flag r 16 then .nowhere
    else if c.fld r 11 0 = c.phys then .own (g % 2 ^ 44) else .far (c.fld r 11 0) (g % 2 ^ 44)

/-- A source region on this part that a COPY may read, without tags and with them (R212, R218, R295, R464). -/
def dmaSrcOk (wait : Bool) (r : Region) : Bool :=
  match r with
  | .wingStore _ | .galStore _ _ => true
  | .localMem _ | .hostWin _ => !wait
  | _ => false

/-- A destination region on this part that a COPY may write. -/
def dmaDstOk (fill : Bool) (r : Region) : Bool :=
  match r with
  | .wingStore _ | .galStore _ _ => true
  | .localMem _ | .hostWin _ => !fill
  | _ => false

/-- A region is the annex. -/
def isAnnex (r : Region) : Bool := match r with | .annex _ => true | _ => false

/-- A region is a wing store. -/
def isWingStore (r : Region) : Bool := match r with | .wingStore _ => true | _ => false

/-- A COPY's words are valid (R212). -/
def dmaWordsOk (ws : List Word) : Bool :=
  decide (wbits (cmdWord ws 0) 3 0 = 1 ∧ wbits (cmdWord ws 0) 15 6 = 0 ∧ dLen ws % 64 = 0 ∧ 0 < dLen ws ∧
    wbits (cmdWord ws 1) 63 56 = 0 ∧ wbits (cmdWord ws 2) 63 56 = 0 ∧ dSrc ws % 64 = 0 ∧ dDst ws % 64 = 0) && lastOk (cmdWord ws 3)

/-- A COPY's source lies wholly in the annex of this part: a contribution transfer (R315). -/
def Chip.isContrib (c : Chip) (ws : List Word) : Bool :=
  match c.sideOf (dSrc ws) with
  | .own a => c.linesAre a (dLen ws) isAnnex
  | _ => false

/-- A range of another part lies in local memory or a host window there, which carry no tags (R218). -/
def farUntagged (a len : Nat) : Bool := decide (a < 0x10000000000 ∨ 0x80000000000 ≤ a + len)

/-- A COPY may run: its ranges on this part are populated and reachable, not both sides lie on other parts, no tag is asked of a range that
has none, and a contribution has its table entry and lands in a wing store (R212, R218, R348, R359). -/
def Chip.dmaOk (c : Chip) (ws : List Word) : Bool :=
  let len := dLen ws
  dmaWordsOk ws &&
  match c.sideOf (dSrc ws), c.sideOf (dDst ws) with
  | .own a, .own b =>
    if c.isContrib ws then !dWait ws && (c.gradFor a len).isSome && c.linesAre b (len + 64) isWingStore
    else c.linesAre a len (dmaSrcOk (dWait ws)) && c.linesAre b len (dmaDstOk (dFill ws))
  | .own a, .far _ b =>
    if c.isContrib ws then !dWait ws && (c.gradFor a len).isSome && c.linesAre b (len + 64) isWingStore
    else c.linesAre a len (dmaSrcOk (dWait ws)) && !(dFill ws && farUntagged b len)
  | .far _ a, .own b => c.linesAre b len (dmaDstOk (dFill ws)) && !(dWait ws && farUntagged a len)
  | _, _ => false

/-- DMA_BAD: the command is discarded and its task stops with a task error (R212). -/
def Chip.dmaBad (c : Chip) (n k : Nat) (j : DmaJob) : Chip :=
  ((c.endJob n k).raise (Reg.dmaStatus n) 0 (Reg.dmaCtr n)).taskError? j.cmd.tag.task

/-- A WRITE packet sent to another part (R343, R344). -/
def Chip.sendWrite (c : Chip) (vl phys addr xfer sig : Nat) (fill contrib last : Bool) (bs : List Byte) : Chip :=
  c.routeOut (mkPacket 1 vl last c.cver phys c.phys (bs.length / 64) fill false contrib sig addr xfer 0 bs) none

/-- Data sent to another part as WRITE packets of at most 1,024 bytes (R343). -/
def Chip.sendWrites (c : Chip) (vl phys addr xfer sig : Nat) (fill contrib : Bool) (data : List Byte) : Chip :=
  let cnt := (data.length + 1023) / 1024
  (List.range cnt).foldl (fun d i =>
    d.sendWrite vl phys (addr + 1024 * i) xfer sig fill (contrib && decide (i = 0)) (decide (i + 1 = cnt))
      ((data.drop (1024 * i)).take 1024)) c

/-- READ packets sent to another part, each for at most 16 units (R344). -/
def Chip.sendReads (c : Chip) (phys addr raddr xfer len : Nat) (fill wait : Bool) : Chip :=
  let cnt := (len + 1023) / 1024
  (List.range cnt).foldl (fun d i =>
    let m := min 1024 (len - 1024 * i)
    d.routeOut (mkPacket 2 0 (decide (i + 1 = cnt)) d.cver phys d.phys (m / 64) fill wait false 0xFFFF (addr + 1024 * i) xfer
      (w64 (raddr + 1024 * i)) []) none) c

/-- A draining read of a source range: its bytes and the parity states of its words (R298). -/
def Chip.drainRange (c : Chip) (a len : Nat) : Chip × List Byte × List Nat :=
  (List.range (len / 64)).foldl (fun (d, bs, ps) k =>
    let x := a + 64 * k
    let (d, b, bad) := d.drain (x / 0x1000000000) (x % 0x1000000000 / 64)
    (d, bs ++ b, ps ++ List.replicate 16 (if bad then 2 else 0))) (c, ([] : List Byte), ([] : List Nat))

/-- The next word of a COPY that goes word by word: one read already, one drained already, or one read now; none where it must first be
waited for, with WAITSRC. -/
def Chip.nextWord (c : Chip) (a : Nat) (j : DmaJob) : Chip × Option (Word × List Nat) :=
  match j.held with
  | some v => (c, some v)
  | none =>
    if !j.bufPars.isEmpty then (c, some (w64 (ofLeBytes (j.buf.take 8)), j.bufPars.take 2))
    else if dWait j.cmd.words then (c, none)
    else
      let (d, bs, ps) := c.fetch (a + j.moved) 8
      (d, some (w64 (ofLeBytes bs), ps))

/-- A word joins the WRITE packet that is being filled, its parity checked by the port; a full packet, or the last, is sent (R343, R366). -/
def Chip.sendWord (c : Chip) (n k phys a b : Nat) (j : DmaJob) (v : Word × List Nat) : Chip :=
  let ws := j.cmd.words
  let buf := j.buf ++ leBytes 8 v.1.toNat
  let m := j.moved + 8
  let c := c.useWords (.wing n) (a + j.moved) v.2 j.cmd.tag.task
  if buf.length < 1024 ∧ m < dLen ws then c.setJob n k { j with held := none, buf := buf, moved := m }
  else
    (c.sendWrite 0 phys (b + m - buf.length) j.xfer (dSig ws) (dFill ws) false (decide (dLen ws ≤ m)) buf).setJob n k
      { j with held := none, buf := [], moved := m }

/-- One word of a COPY with tags: read once full with WAITSRC, and written, set full with FILL, or sent (R220). The job stops at a word that
must wait, which its home holds (R221). -/
def Chip.copyWord (c : Chip) (n k a : Nat) (dst : Side) (j : DmaJob) : Chip :=
  let ws := j.cmd.words
  let w : Wait := { addr := c.home (a + j.moved), issuer := .dma n k, kind := .read, value := 0, pars := [], since := c.tick.edges,
                    task := j.cmd.tag.task }
  match c.nextWord a j with
  | (c, none) => (c.setJob n k { j with waiting := true }).access w
  | (c, some v) =>
    match dst with
    | .own b =>
      let j := { j with buf := j.buf.drop 8, bufPars := j.bufPars.drop 2 }
      if dFill ws then
        (c.setJob n k { j with waiting := true }).fillAccess { w with addr := c.home (b + j.moved), kind := .fill, value := v.1, pars := v.2 }
      else (c.store (b + j.moved) (leBytes 8 v.1.toNat) v.2 j.cmd.tag.task).setJob n k { j with held := none, moved := j.moved + 8 }
    | .far phys b => c.sendWord n k phys a b j v
    | .nowhere => c

/-- A COPY with tags goes on word by word until it waits or its `len` bytes are moved. -/
def Chip.copyWords (n k a len : Nat) (dst : Side) : Nat → Chip → Chip
  | 0, c => c
  | fuel + 1, c =>
    match NMap.find (c.wing n).dma k with
    | none => c
    | some j =>
      if j.waiting || j.written then c
      else if len ≤ j.moved then c.setJob n k { j with written := true }
      else Chip.copyWords n k a len dst fuel (c.copyWord n k a dst j)

/-- A contribution transfer: the gradient table read on the hub die (R288), the header at DST, the drained payload after it (R315). With FILL on this part, their words are written as they
find theirs empty. -/
def Chip.copyContrib (c : Chip) (n k a : Nat) (j : DmaJob) : Chip :=
  let ws := j.cmd.words
  let len := dLen ws
  match c.gradFor a len with
  | none => c.dmaBad n k j
  | some e =>
    let c := (c.useRange .hub (c.fld Reg.stepGtab 43 4 * 16) (16 * c.fld Reg.stepGtabLen 23 0) j.cmd.tag.task).1
    let hdr := c.contribHeader e a len
    let hb := hdr.flatMap fun w => leBytes 8 w.toNat
    let (c, bs, ps) := c.drainRange a len
    let c := c.noteRead a len
    match c.sideOf (dDst ws) with
    | .own b =>
      if dFill ws then
        Chip.copyWords n k a (len + 64) (.own b) (len / 8 + 9) ((c.checkHeader hdr).setJob n k
          { j with begun := true, buf := hb ++ bs, bufPars := List.replicate 16 0 ++ ps })
      else
        (((c.store b hb [] j.cmd.tag.task).checkHeader hdr).store (b + 64) bs ps j.cmd.tag.task).setJob n k
          { j with begun := true, moved := len, written := true }
    | .far phys b =>
      ((c.useWords (.wing n) a ps j.cmd.tag.task).sendWrites 2 phys b j.xfer (dSig ws) (dFill ws) true (hb ++ bs)).setJob n k
        { j with begun := true, moved := len, written := true }
    | .nowhere => c

/-- A job may begin: those that its engine took before it have begun (R212). -/
def Chip.jobTurn (c : Chip) (n : Nat) (j : DmaJob) : Bool :=
  (c.wing n).dma.all fun p => p.2.begun || decide ((p.2.xfer + 2 ^ 24 - j.xfer) % 2 ^ 24 < 2 ^ 23)

/-- COPY: the command in slot k of a wing's DMA engine is checked as it begins, in issue order, and moves its bytes (R212). Repeated after a
wait, it goes on with the word that it had reached. -/
def copy (n k : Nat) (c : Chip) : Chip :=
  match NMap.find (c.wing n).dma k with
  | none => c
  | some j =>
    let ws := j.cmd.words
    let len := dLen ws
    let start := fun (d : Chip) => if j.begun then d else d.setJob n k { j with begun := true }
    if c.halted || j.waiting || j.written then c
    else if !j.begun && !c.jobTurn n j then c
    else if !j.begun && !c.dmaOk ws then c.dmaBad n k j
    else if c.isContrib ws then
      if j.begun then Chip.copyWords n k 0 (len + 64) (c.sideOf (dDst ws)) (len / 8 + 9) c else c.copyContrib n k (dSrc ws % 2 ^ 44) j
    else match c.sideOf (dSrc ws), c.sideOf (dDst ws) with
      | .own a, .own b =>
        if dWait ws || dFill ws then Chip.copyWords n k a len (.own b) (len / 4 + 2) (start c)
        else
          let (c, bs, ps) := c.fetch a len
          (c.store b bs ps j.cmd.tag.task).setJob n k { j with begun := true, moved := len, written := true }
      | .own a, .far phys b =>
        if dWait ws then Chip.copyWords n k a len (.far phys b) (len / 4 + 2) (start c)
        else
          let (c, bs, ps) := c.fetch a len
          ((c.useWords (.wing n) a ps j.cmd.tag.task).sendWrites 0 phys b j.xfer (dSig ws) (dFill ws) false bs).setJob n k
            { j with begun := true, moved := len, written := true }
      | .far phys a, .own b =>
        if j.begun then c
        else (c.sendReads phys a b j.xfer len (dFill ws) (dWait ws)).setJob n k { j with begun := true }
      | _, _ => c

/-- COPY. -/
def execCopy (n : Wing) (k : Fin 8) (s : State) : Host.Outcome State Fault Refusal := onChip (copy n.val k.val) s

/-- Words of a remote read's data still wait to be filled at their homes (R228). -/
def Chip.fillsWait (c : Chip) (ws : List Word) : Bool :=
  let b := dDst ws % 2 ^ 44
  (c.waits ++ c.resends).any fun w => match w.issuer with
    | .link _ _ _ => decide (b ≤ c.nameOf w.addr ∧ c.nameOf w.addr < b + dLen ws)
    | _ => false

/-- TRANSFER_SIGNAL: every packet of the transfer is written. A transfer that ends on this part has its signal applied here; one
to another part carried it on its last packet. A contribution counts in SENT, and the command is done (R228, R315, R347). -/
def transferSignal (n k : Nat) (c : Chip) : Chip :=
  match NMap.find (c.wing n).dma k with
  | none => c
  | some j =>
    if !j.written || c.halted || c.fillsWait j.cmd.words then c
    else
      let ws := j.cmd.words
      let contrib := c.isContrib ws
      let c := match c.sideOf (dDst ws) with
        | .own _ => if dSig ws = 0xFFFF then c else c.signalPair (dSig ws / 4096) (dSig ws % 4096) 1
        | _ => c
      let c := if contrib then c.countSent else c
      c.endJob n k

/-- TRANSFER_SIGNAL. -/
def execTransferSignal (n : Wing) (k : Fin 8) (s : State) : Host.Outcome State Fault Refusal :=
  onChip (transferSignal n.val k.val) s

/-! ### Waiting accesses -/

/-- TAG_WAIT_RESEND: the accesses that found a full waiting table are sent again, in order (R221). -/
def tagWaitResend (c : Chip) : Chip :=
  c.resends.foldl (fun d w =>
    let d := { d with resends := d.resends.erase w }
    if w.kind = .fill then d.fillAccess w else d.access w) c

/-- TAG_WAIT_RESEND. -/
def execTagWaitResend (s : State) : Host.Outcome State Fault Refusal := onChip tagWaitResend s

/-- FILL_OVERRUN: a fill that has waited a whole tick on a word still full is discarded, sets FILL_OVR at its home's wing, and its
task stops (R224). The edge after the one that follows its arrival is the first that surely lies a period later.
DEDUCED (log 84). -/
def fillOverrun (word : Nat) (c : Chip) : Chip :=
  let a := c.home word
  match (c.waits ++ c.resends).find? fun w =>
      decide (w.kind = .fill ∧ w.addr / 8 = a / 8 ∧ w.since + 2 ≤ c.tick.edges) && c.isFull a with
  | none => c
  | some w =>
    let n := (c.region a).wing
    let c := { c with waits := c.waits.erase w, resends := c.resends.erase w }
    let c := match w.issuer with
      | .gallery _ _ => c.deliver w 0 []
      | .link p a _ => c.flushSigs p a
      | _ => c
    let c := c.raise (Reg.ledgerStatus n) 5 (Reg.ledgerCtr n 5)
    match w.task with
    | some t => c.stopTask t 0x13
    | none => c

/-- FILL_OVERRUN. -/
def execFillOverrun (word : Nat) (s : State) : Host.Outcome State Fault Refusal := onChip (fillOverrun word) s

/-! ### Hub queues -/

/-- QUEUE_PUT: a put to a hub queue; the host ports' submission queues discard at a full queue, all others wait (R231, R232). -/
def queuePut (q : Nat) (tok : Word) (c : Chip) : Chip :=
  if !c.up then c else if q = 48 ∨ q = 49 then c.putHost q tok else c.putHw q tok

/-- QUEUE_PUT. -/
def execQueuePut (q : Fin 64) (tok : Word) (s : State) : Host.Outcome State Fault Refusal := onChip (queuePut q.val tok) s

/-- QUEUE_TAKE: the oldest token is taken; at an empty queue the taker waits (R232). -/
def queueTake (q : Nat) (c : Chip) : Chip :=
  match c.queue q with
  | tok :: _ => { c.dropHead q with taken := tok }
  | [] => if c.up = false ∨ c.takeWait.contains q then c else { c with takeWait := c.takeWait ++ [q] }

/-- QUEUE_TAKE. -/
def execQueueTake (q : Fin 64) (s : State) : Host.Outcome State Fault Refusal := onChip (queueTake q.val) s

end Sys2Proof.Machine
end

