-- ==== Sys2Proof/Machine/Registrar.lean ====
section
/-! DEFINITION. The Registrar: allocations (R234, R266), placement at load (R256 to R260, R189, R219), re-placement in service
(R261 to R265), and loans and prefetches (R271 to R275). -/

namespace Sys2Proof.Machine

/-! ### Placement at load (R256 to R260) -/

/-- A tile recorded at a place, resident or, in a host window, loaned as the image states, with a new generation (R252, R253,
R256). -/
def CatEntry.placed (e : CatEntry) (x : ImageTile) (t loc link lgen : Nat) : CatEntry :=
  { e.bump with
    state := if x.state = 4 ∧ x.kind = 5 then 4 else 1, frozen := x.frozen, pinned := x.pinned || decide (x.kind = 5), fenced := false, lkind := x.kind,
    owner := x.owner.val, qclass := x.qclass, task := t, format := x.format, loc := loc, link := link, lgen := lgen }

/-- Every index of a range is vacant, not FENCED, and in no loaded task's range (R256, R270). -/
def Chip.indicesFree (c : Chip) (t base count : Nat) : Bool :=
  decide (0 < base ∧ base + count ≤ 0x1000000) &&
  !(c.cat.any fun p => decide (base ≤ p.1 ∧ p.1 < base + count) && (decide (p.2.state ≠ 0) || p.2.fenced)) &&
  !(c.tasks.any fun p => decide (p.1 ≠ t ∧ p.2.phase ≠ .empty ∧ base < p.2.base + p.2.count ∧ p.2.base < base + count))

/-- The lowest base of a free run of indices: index 1, or the end of some range in use (R256). DEDUCED (log 29): the lowest. -/
def Chip.freeBase (c : Chip) (t count : Nat) : Option Nat :=
  lowest (((1 :: c.cat.map fun (p : Nat × CatEntry) => p.1 + 1) ++
    c.tasks.map fun (p : Nat × TaskSt) => p.2.base + p.2.count).filter fun b => c.indicesFree t b count)

/-- Physical array k is enabled and not fenced (R3, R191). -/
def Chip.arrayUp (c : Chip) (k : Nat) : Bool := c.flag (Reg.mxIdent (k / 2) (k % 2)) 8 && !c.flag (Reg.mxIdent (k / 2) (k % 2)) 9

/-- Physical array k is enabled, not fenced, and bound by no loaded task (R189). -/
def Chip.arrayFree (c : Chip) (k : Nat) : Bool :=
  c.arrayUp k && !(c.tasks.any fun p => decide (p.2.phase ≠ .empty) && p.2.binds.any fun q => decide (q.2 = k))

/-- The free array that R189 gives logical array l where array l cannot serve it: the lowest of its die, else the lowest. -/
def Chip.bindArray (c : Chip) (taken : NMap Nat) (l : Nat) : Option Nat :=
  let ok := fun k => c.arrayFree k && !(taken.any fun q => decide (q.2 = k))
  match (List.range 4).find? fun i => ok (l / 4 * 4 + i) with
  | some i => some (l / 4 * 4 + i)
  | none => (List.range 32).find? ok

/-- Logical arrays 0 to k − 1 bound: each to its own number where that array is enabled and not fenced, then the others in order to free
arrays (R189). -/
def Chip.bindArrays (c : Chip) (k : Nat) : Option (NMap Nat) :=
  let own : NMap Nat := ((List.range k).filter c.arrayUp).map fun l => (l, l)
  ((List.range k).filter fun l => !c.arrayUp l).foldl (fun m l =>
    m.bind fun m => (c.bindArray m l).map fun p => NMap.put m l p) (some own)

/-- Gallery roles bound in image order, each to the lowest gallery of its wing that holds no tile and is not fenced (R256). -/
def Chip.bindRoles (c : Chip) : List ImageRole → List (Nat × Nat) → Option (List (Nat × Nat))
  | [], acc => some acc
  | r :: rs, acc =>
    let n := r.wing.val
    match (List.range 300).find? fun g => c.galFree n g && c.galUnfenced n g && !acc.contains (n, g) with
    | none => none
    | some g => Chip.bindRoles c rs (acc ++ [(n, g)])

/-- A range of local memory that holds an arena of k positions: the stacks of R257 in order, aligned to 128 KiB (R259). -/
def Chip.arenaPlace (c : Chip) (owner k : Nat) : Option Nat :=
  (stackOrder owner).findSome? fun n => c.freeInStack n 2 (2 * k)

/-- The index, relative to its arena, of tile k of an image; none where no arena holds it (R259). -/
def Image.arenaOf (im : Image) (k : Nat) : Option (Nat × Nat) :=
  im.arenas.zipIdx.findSome? fun q =>
    if q.1.first ≤ k ∧ k < q.1.first + q.1.count then some (q.2, k - q.1.first) else none

/-- The location of tile k of an image (R256, R257): its arena's position, its role's plane or store, the address that it
states, or the first free block of its kind. DEDUCED (log 67). -/
def Chip.tilePlace (c : Chip) (im : Image) (arenas : List Nat) (gals : List (Nat × Nat)) (k : Nat) (x : ImageTile) : Option Nat :=
  match Image.arenaOf im k with
  | some (a, p) => (arenas[a]?).map fun base => base + 0x20000 * p
  | none =>
    match x.kind, x.role with
    | 1, some r => (gals[r]?).map fun ng => planeLoc ng.1 ng.2 (planeOf (x.addr % 2))
    | 2, some r => (gals[r]?).map fun ng => galStoreBase ng.1 ng.2
    | 3, _ => if x.format = 2 then c.firstRun 2 2 256 (wingStoreBase x.owner.val) else c.freeBlock 3 x.owner.val
    | 4, _ =>
      if x.format = 2 then (stackOrder x.owner.val).findSome? fun n => c.freeInStack n 2 2
      else if c.inAnnex (x.addr / 0x1000000000) x.addr then some x.addr
      else c.freeBlock 4 x.owner.val
    | 5, _ | 6, _ => some x.addr
    | _, _ => none

/-- The contents and the tags of a tile that is placed: the image's bytes from its first byte on, every tag as the image states
and empty elsewhere (R219). -/
def Chip.fillTile (c : Chip) (x : ImageTile) (loc : Nat) : Chip :=
  if x.kind = 2 ∨ x.kind = 3 ∨ x.kind = 4 then
    let c := c.store loc x.bytes [] none
    if x.kind = 4 then c
    else
      let h := c.home loc
      let n := if x.kind = 3 ∧ x.format = 2 then 0x20000 else 0x10000
      let c := c.setTags h n false
      x.words.foldl (fun d w => d.setFull (h + w / 8 * 8 % n) true) c
  else c

/-- The generation of the source that an image gives a plane tile, and its index (R246, R256). -/
def Chip.imageLink (c : Chip) (base : Nat) (x : ImageTile) : Nat × Nat :=
  match x.link with
  | some l => (base + l, (c.catNow (base + l)).gen)
  | none => (0, 0)

/-- A tile recorded and its blocks counted; none where its class has no room (R234, R256, R260). An index that the image lists as
vacant stays so: a plane tile's until a WRITE, a block's until an allocation (R252). An arena's positions are placed whatever state the image
lists for them (DESIGN CHOICE, log 116). -/
def Chip.placeTile (t base : Nat) (im : Image) (arenas : List Nat) (gals : List (Nat × Nat)) (c : Chip) (q : ImageTile × Nat) :
    Option Chip :=
  let pos := (Image.arenaOf im q.2).isSome
  let x := if pos then { q.1 with kind := 4, format := 2 } else q.1
  let i := base + q.2
  match c.tilePlace im arenas gals q.2 x with
  | none => none
  | some loc =>
    if x.state = 0 ∧ pos = false then some c
    else if x.kind = 1 then
      let l := c.imageLink base x
      let p := planeOf (loc / 2 ^ 12 % 2)
      some ((c.setCat i ((c.catNow i).placed x t loc l.1 l.2)).modGal (loc / 2 ^ 16 % 16) (loc % 2 ^ 9) fun g =>
        g.setPlane p { g.plane p with holds := some i, srcTile := l.1 })
    else
      let e := (c.catNow i).placed x t loc 0 0
      if c.quotaOf t x.qclass < c.quotaUse t x.qclass + e.blocks then none
      else some (((c.setCat i e).addUse t x.qclass e.blocks).fillTile x loc)

/-- Tiles placed in order; all or nothing (R260). Plane tiles come last, so that they record their sources' generations as placed. -/
def Chip.placeTiles (t base : Nat) (im : Image) (arenas : List Nat) (gals : List (Nat × Nat)) : List (ImageTile × Nat) → Chip → Option Chip
  | [], c => some c
  | q :: qs, c => match c.placeTile t base im arenas gals q with
    | none => none
    | some d => Chip.placeTiles t base im arenas gals qs d

/-- The arenas' places, in image order; two arenas of one wing are refused (R259). A place is held against the next by the
addresses already chosen: its entries are recorded in full with the block tiles. -/
def Chip.placeArenas (c : Chip) (t : Nat) : List ImageArena → List Nat → Chip → Option (List Nat × Chip)
  | [], acc, d => some (acc, d)
  | a :: as, acc, d =>
    if as.any fun b => decide (b.wing = a.wing) then none
    else match d.arenaPlace a.wing.val a.count with
      | none => none
      | some base =>
        let n := a.wing.val
        let d := (d.wr (Reg.arena n t) (w64 base)).wr (Reg.arenaIdx n t)
          (w64 ((c.task t).base + a.first + a.count * 2 ^ 32 + b2n a.double * 2 ^ 60))
        let d := (List.range a.count).foldl (fun e k =>
          e.rawCat ((c.task t).base + a.first + k)
            { (e.cate ((c.task t).base + a.first + k)) with state := 1, lkind := 4, format := 2, loc := base + 0x20000 * k }) d
        Chip.placeArenas c t as (acc ++ [base]) d

/-- One relocation applied (R258): KIND 0 adds the tile's address, 1 writes its gallery number, 2 its index. -/
def Chip.relocate (base : Nat) (c : Chip) (r : Word × Word) : Chip :=
  let a := wbits r.1 43 0
  let (c, bs) := c.useRange .hub a 8 none
  let i := base + wbits r.2 25 0
  let sh := wbits r.1 61 56
  let old := ofLeBytes bs
  let e := c.catNow i
  let v :=
    if wbits r.1 49 48 = 0 then setBits old 43 0 ((bits old 43 0 + e.loc % 2 ^ 44) % 2 ^ 44)
    else if wbits r.1 49 48 = 1 then
      setBits old (sh + 8) sh (if e.lkind = 2 then e.loc % 0x2000000 / 0x10000 else e.loc % 2 ^ 9)
    else if wbits r.1 49 48 = 2 then setBits old (sh + 25) sh i
    else old
  c.store a (leBytes 8 v) [] none

/-- A relocation record with no reserved field set and a tile of the image (R258). -/
def relocOk (count : Nat) (r : Word × Word) : Bool :=
  decide (wbits r.1 49 48 ≠ 3 ∧ wbits r.1 47 44 = 0 ∧ wbits r.1 55 50 = 0 ∧ wbits r.1 63 62 = 0 ∧ wbits r.2 63 26 = 0 ∧
    wbits r.2 25 0 < count)

/-- A plan entry with no reserved field set, of a version and action that exist (R271). -/
def planEntryOk (cycle : Nat) (e : Word × Word) : Bool :=
  decide (wbits e.1 31 0 < cycle ∧ 1 ≤ wbits e.1 35 32 ∧ wbits e.1 35 32 ≤ 3 ∧ wbits e.1 63 62 = 0 ∧ wbits e.2 63 60 = 1)

/-- A plan table that the part accepts: entries sorted by TICK, none with a reserved field (R271). -/
def planOk (cycle : Nat) : List (Word × Word) → Bool
  | [] => true
  | [e] => planEntryOk cycle e
  | e :: f :: rest => planEntryOk cycle e && decide (wbits e.1 31 0 ≤ wbits f.1 31 0) && planOk cycle (f :: rest)

/-- Words stored from an address on. -/
def Chip.storeWords (c : Chip) (a : Nat) (ws : List Word) : Chip := c.store a (ws.flatMap fun w => leBytes 8 w.toNat) [] none

/-- The settings that the image gives its galleries: mode, budgets, gain and readout (R102, R106, R108, R256). -/
def Chip.setRole (c : Chip) (r : ImageRole) (ng : Nat × Nat) : Chip :=
  let (n, g) := ng
  let c := c.setFlag (Reg.galMode n g) 0 r.resident
  let c := (c.setFld (Reg.phaseBudget n g) 1 0 r.budgetA).setFld (Reg.phaseBudget n g) 5 4 r.budgetB
  let c := c.wr (Reg.gain n g) (r.gain &&& w64 0x17f700)
  let c := c.wr (Reg.readout n g) (r.readout &&& w64 0xffffff00ffffff)
  (c.latchGain n g).latchGain n g

/-- Plane tiles that the image lists as vacant take their places in the Catalogue as entries of their task: the WRITE that fills them names them
(R252, R256). -/
def Chip.reservePlanes (c : Chip) (t base : Nat) (im : Image) (gals : List (Nat × Nat)) : Chip :=
  im.tiles.zipIdx.foldl (fun d q =>
    match q.1.kind, q.1.role with
    | 1, some r => if q.1.state ≠ 0 then d else match gals[r]? with
      | some ng => d.setCat (base + q.2) { (d.catNow (base + q.2)).bump with
          frozen := q.1.frozen, pinned := q.1.pinned, qclass := q.1.qclass, owner := q.1.owner.val, task := t, format := q.1.format,
          lkind := 1, loc := planeLoc ng.1 ng.2 (planeOf (q.1.addr % 2)) }
      | none => d
    | _, _ => d) c

/-- The placement of R256 for the task that loads in slot t, all or nothing (R260): indices, arrays, galleries, arenas, block
tiles, relocations, tags and USE, with the tables that the image brings. -/
def Chip.placeTask (c : Chip) (t : Nat) (im : Image) : Option Chip :=
  let count := im.tiles.length
  if !(im.relocs.all (relocOk count)) || !planOk im.cycle im.plan || decide (65535 < im.plan.length) then none
  else
    match c.freeBase t count, c.bindArrays im.arrays, c.bindRoles im.roles [] with
    | some base, some binds, some gals =>
      let c := c.modTask t fun s => { s with base := base, count := count, binds := binds, gals := gals }
      match c.placeArenas t im.arenas [] c with
      | none => none
      | some (arenas, d) =>
        let d := d.reservePlanes t base im gals
        let (planes, blocks) := im.tiles.zipIdx.partition fun q => decide (q.1.kind = 1) && (Image.arenaOf im q.2).isNone
        match d.placeTiles t base im arenas gals (blocks ++ planes) with
        | none => none
        | some d =>
          let d := d.wr (Reg.regTaskIndex t) (w64 (base + count * 2 ^ 32))
          let d := d.wr (Reg.regTaskPlan t) (w64 (im.planBase / 16 * 16))
          let d := d.wr (Reg.regTaskPlanLen t) (w64 im.plan.length)
          let d := d.storeWords im.planBase (im.plan.flatMap fun e => [e.1, e.2])
          let d := im.relocs.foldl (Chip.relocate base) d
          some ((im.roles.zip gals).foldl (fun e q => e.setRole q.1 q.2) d)
    | _, _, _ => none

/-! ### Allocations (R234, R266) -/

/-- The vacant indices of a task's range. -/
def Chip.vacantIx (c : Chip) (t : Nat) : List Nat :=
  ((List.range (c.task t).count).map fun k => (c.task t).base + k).filter fun i =>
    decide ((c.catNow i).state = 0 ∧ (c.catNow i).lkind ≠ 1) && !(c.catNow i).fenced

/-- Blocks of an allocation placed, one tile each, at the first free block of its kind (R257); a store tile's tags are empty (R219). DESIGN CHOICE (log 30): the lowest
vacant indices of the task's range. -/
def Chip.allocTiles (r : AllocReq) : List Nat → Chip → Option Chip
  | [], c => some c
  | i :: is, c => match c.freeBlock r.kind r.owner.val with
    | none => none
    | some a =>
      let c := c.setCat i { (c.catNow i).bump with
        state := 1, frozen := false, pinned := false, lkind := r.kind, owner := r.owner.val, qclass := r.qclass, task := r.task.val,
        format := 0, loc := a, link := 0, lgen := 0 }
      Chip.allocTiles r is (if r.kind = 3 then c.setTags (c.home a) 0x10000 false else c)

/-- An allocation admitted, if its class and the part have room: USE rises by its blocks (R234). -/
def Chip.tryAlloc (c : Chip) (r : AllocReq) : Option Chip :=
  let t := r.task.val
  let ix := (c.vacantIx t).take r.blocks
  if c.quotaUse t r.qclass + r.blocks ≤ c.quotaOf t r.qclass ∧ ix.length = r.blocks ∧ (r.kind = 3 ∨ r.kind = 4) then
    (Chip.allocTiles r ix c).map fun d => d.addUse t r.qclass r.blocks
  else none

/-- The thread whose allocation is held stays parked (R266). -/
def Chip.askerParks (c : Chip) (r : AllocReq) : Chip :=
  c.modThread r.askWing.val r.askGal.val r.askThread.val fun s => { s with wait := .alloc, refused := false }

/-- The thread whose allocation is admitted goes on. -/
def Chip.askerGoes (c : Chip) (r : AllocReq) : Chip :=
  c.modThread r.askWing.val r.askGal.val r.askThread.val fun s =>
    { s with wait := if s.wait = .alloc then .ready else s.wait, refused := false }

/-- A request of a running task: admitted, or held in the task's list of 64 with ALLOC_WAIT, or returned refused (R234, R266). -/
def allocation (r : AllocReq) (c : Chip) : Chip :=
  let t := r.task.val
  if !c.running t then c
  else match c.tryAlloc r with
    | some d => d.askerGoes r
    | none =>
      if (c.task t).pendAlloc.length < 64 then
        ((c.modTask t fun s => { s with pendAlloc := s.pendAlloc ++ [r] }).askerParks r).raise Reg.regStatus 8 (Reg.regCtr 8)
      else c.refuseAlloc r

/-- ALLOCATION. -/
def execAllocation (r : AllocReq) (s : State) : Host.Outcome State Fault Refusal := onChip (allocation r) s

/-- A task's pending requests admitted in arrival order while room allows: none goes ahead of an earlier one of its class
that has no room (R266). DEDUCED (log 64). -/
def Chip.admitAllocs (c : Chip) (t : Nat) : Chip :=
  let (d, kept) := (c.task t).pendAlloc.foldl (fun (d, kept) r =>
    if kept.any fun (k : AllocReq) => decide (k.qclass = r.qclass) then (d, kept ++ [r])
    else match Chip.tryAlloc d r with
      | some e => (Chip.askerGoes e r, kept)
      | none => (d, kept ++ [r])) (c, [])
  d.modTask t fun s => { s with pendAlloc := kept }

/-- PENDING_ADMIT: the pending requests of every task at a tick edge (R266). -/
def pendingAdmit (c : Chip) : Chip := (c.tasks.map Prod.fst).foldl (fun d t => d.admitAllocs t) c

/-- PENDING_ADMIT. -/
def execPendingAdmit (s : State) : Host.Outcome State Fault Refusal := onChip pendingAdmit s

/-! ### Re-placement in service (R261 to R265) -/

/-- A notice of one kind from the Conservator of a wing about gallery g: 0 a conflict, 1 a moved source (R231). -/
def isNotice (kind g : Nat) (w : Word) : Bool := w == consNotice kind g 0 || w == consNotice kind g 1

/-- The Registrar takes the source notices at the head of a Conservator's queue; they ask nothing of it (R231). -/
def Chip.takeSources (n : Nat) : Nat → Chip → Chip
  | 0, c => c
  | fuel + 1, c => match c.queue n with
    | w :: _ => if (List.range 300).any fun g => isNotice 1 g w then Chip.takeSources n fuel (c.dropHead n) else c
    | [] => c

/-- CONFLICT_NOTICE: the Registrar takes gallery g's conflict notice from the head of its Conservator's queue, and moves the role if the
plane is late (R231, R265). -/
def conflictNotice (n g : Nat) (c : Chip) : Chip :=
  let c := Chip.takeSources n (c.queue n).length c
  match c.queue n with
  | w :: _ =>
    if isNotice 0 g w then
      let c := c.dropHead n
      if (c.gal n g).conflict then (c.modGal n g fun x => { x with conflictTold := true }).conflictMove n g else c
    else c
  | [] => c

/-- CONFLICT_NOTICE. -/
def execConflictNotice (n : Wing) (g : GalIx) (s : State) : Host.Outcome State Fault Refusal :=
  onChip (conflictNotice n.val g.val) s

/-- The next move asked for begins: while a task runs the Registrar sets PAUSE first (R261). -/
def Chip.startMove (c : Chip) : Chip :=
  match c.move, c.toMove with
  | none, m :: ms =>
    let ours := c.anyRunning && !c.flag Reg.tickCtrl 1
    let at_ := if !c.anyRunning || c.paused then some c.tick.halfUs else none
    let c := if ours then c.setFlag Reg.tickCtrl 1 true else c
    { c with move := some { m with ours := ours, pausedAt := at_ }, toMove := ms }
  | _, _ => c

/-- A move is over: its pause is released (R261), and a recovery that waited for it may end (R378). -/
def Chip.endMove (c : Chip) (m : Move) : Chip :=
  let c := if m.ours then c.setFlag Reg.tickCtrl 1 false else c
  let c := { c with move := none }
  if c.toMove.all fun x => x.conflict then
    ({ c with recov := c.recov.map fun (r : Recovery) => { r with moving := false } }).settleRecovery
  else c

/-- A move has completed: REPLACE and a notice of KIND 1 (R261). -/
def Chip.moveDone (c : Chip) (m : Move) (tile n t : Nat) : Chip :=
  ((c.raise Reg.regStatus 4 (Reg.regCtr 4)).notice 1 tile n t).endMove m

/-- The entries of a sparse table with keys a to a + n − 1 copied to keys from b on. -/
def copyRange {α : Type} (m : NMap α) (a b n : Nat) : NMap α :=
  (m.filter fun p => decide (a ≤ p.1 ∧ p.1 < a + n)).foldl (fun acc p => NMap.put acc (b + (p.1 - a)) p.2)
    (m.filter fun p => !decide (b ≤ p.1 ∧ p.1 < b + n))

/-- Key of the first symbol of the record of a local-memory address. -/
def recKey (a : Nat) : Nat := symKey (a / 0x1000000000) (a % 0x1000000000 / 64) 0

/-- A 64 KiB block copied with its tags, its parity states, and the records that are in error (R262, R263). A record that a read
corrects is copied corrected. DESIGN CHOICE (log 31): one that is uncorrectable stays so. -/
def Chip.copyBlock (c : Chip) (a b : Nat) : Chip :=
  let c := { c with
    mem := copyRange c.mem a b 0x10000, full := copyRange c.full (a / 8) (b / 8) 0x2000, par := copyRange c.par (a / 4) (b / 4) 0x4000,
    recErr := if a < 0x10000000000 then copyRange c.recErr (recKey a) (recKey b) 0x10000 else c.recErr }
  if a < 0x10000000000 then
    let n := a / 0x1000000000
    let l := a % 0x1000000000 / 64
    ((List.range 1024).filter fun k => c.lineBad n (l + k)).foldl (fun d k =>
      match (d.syndromes n (l + k) (l + k)) with
      | (s0, s1) => match lineResult s0 s1 with
        | .corrected _ _ =>
          let (d, data, _) := d.readRecord n (l + k) (l + k) false
          d.writeRecord (b / 0x1000000000) (b % 0x1000000000 / 64 + k) data
        | _ => d) c
  else c

/-- An issuer renamed when gallery g of wing n becomes gallery q. -/
def Issuer.moved (n g q : Nat) : Issuer → Issuer
  | .thread m h th rd => if m = n ∧ h = g then .thread m q th rd else .thread m h th rd
  | .gallery m h => if m = n ∧ h = g then .gallery m q else .gallery m h
  | i => i

/-- The accesses that wait at a 64 KiB block of a store sent again to the block that serves it now (R262, R233). -/
def Chip.moveWaits (c : Chip) (a b : Nat) (ren : Issuer → Issuer) : Chip :=
  let mine := fun (w : Wait) => decide (a ≤ w.addr ∧ w.addr < a + 0x10000)
  let new := fun (w : Wait) => { w with addr := b + (w.addr - a), since := c.tick.edges }
  let go := (c.waits.filter mine).map new
  let keep := fun (w : Wait) => { w with issuer := ren w.issuer }
  let c := { c with
    waits := (c.waits.filter fun w => !mine w).map keep,
    resends := c.resends.map fun w => keep (if mine w then new w else w) }
  go.foldl (fun d w => d.access (keep w)) c

/-- The plane of a gallery that takes over a role: rewritten from its source, with fresh ages (R262, R265). -/
def Chip.rewritePlane (c : Chip) (n g : Nat) (p : Plane) : Chip × PlaneSt :=
  let y := (c.gal n g).plane p
  if y.written && y.holds.isSome && decide (c.wingState n ≠ 3) then
    let (c, codes) := c.readSource n g p
    (c.draw, { (PlaneSt.reset.fill codes [] c.free) with
      cmax := cmaxAll codes, holds := y.holds, srcTile := y.srcTile, watched := y.watched, moved := y.moved })
  else (c, { PlaneSt.reset with holds := y.holds, srcTile := y.srcTile, watched := y.watched, moved := y.moved })

/-- A plane write of a context that is restored on another gallery restarts at its first cell (R262). -/
def WriteJob.restarted (j : WriteJob) : WriteJob := 
  { j with staged := 0, buf := [], vits := [], raised := false, failed := [], devs := [], starved := true }

/-- The parts of a gallery's state that belong to its task's context (R233, R262), put on another gallery with its planes. -/
def Gal.takeOver (x y : Gal) (a b : PlaneSt) (ga gb : Nat) : Gal :=
  let shift := fun (w : ThreadWait) => match w with
    | .word v => if ga ≤ v ∧ v < ga + 0x10000 then ThreadWait.word (gb + (v - ga)) else w
    | w => w
  { x with
    cmdQ := y.cmdQ, pendW := y.pendW, wjob := y.wjob.map WriteJob.restarted, rjob := none, swapDue := y.swapDue, swapAsked := y.swapAsked,
    swapDone := y.swapDone, swapSeq := y.swapSeq, mvms := y.mvms.map (fun m => { m with held := m.held.map fun h => (gb + (h.1 - ga), h.2) }),
    mvmFree := y.mvmFree, planeA := { a with failed := x.planeA.failed }, planeB := { b with failed := x.planeB.failed },
    rhOpen := none, rhParts := [], rhLeft := [], rhFailed := [], slotStart := none, slotEnd := none, conflict := false, conflictTold := false,
    histWait := y.histWait, lastThread := y.lastThread, issuedAt := y.issuedAt,
    threads := y.threads.map (fun p => (p.1, { p.2 with wait := shift p.2.wait })), dcache := [],
    gainSet := y.gainSet, readSet := y.readSet, gainOld := y.gainOld, readOld := y.readOld }

/-- A gallery that its role has left: its own vitrines, coefficients and classification stay, the role's state goes. -/
def Gal.vacated (x : Gal) : Gal :=
  { Gal.reset with
    planeA := { PlaneSt.reset with failed := x.planeA.failed }, planeB := { PlaneSt.reset with failed := x.planeB.failed },
    vits := x.vits, coef := x.coef, rdiff := x.rdiff, guardRow := x.guardRow, guardAlt := x.guardAlt, cls := x.cls }

/-- The gallery settings that travel with a role. DEDUCED (log 76). -/
def Chip.moveSettings (c : Chip) (n g q : Nat) : Chip :=
  let c := [Reg.phaseBudget, Reg.gain, Reg.readout, Reg.streamCfg].foldl (fun d r => d.wr (r n q) (d.rd (r n g))) c
  let c := c.setFld (Reg.galMode n q) 1 0 (c.fld (Reg.galMode n g) 1 0)
  let c := (c.setFlag (Reg.galMode n q) 3 (c.flag (Reg.galMode n g) 3)).setFlag (Reg.galMode n q) 5 false
  let c := (c.setFlag (Reg.galMode n g) 3 false).setFlag (Reg.galMode n g) 5 false
  let c := c.setFld (Reg.streamStatus n q) 31 16 (c.fld (Reg.streamStatus n g) 31 16)
  let c := (c.wr (Reg.consSrc n q 0) (c.rd (Reg.consSrc n g 0))).wr (Reg.consSrc n q 1) (c.rd (Reg.consSrc n g 1))
  (c.wr (Reg.consGain n q 0) 0).wr (Reg.consGain n q 1) 0

/-- The tiles of a gallery after their move: quarantined and rehang tiles resident, each with a new generation (R252, R253). -/
def Chip.movedTiles (c : Chip) (n q : Nat) : Chip :=
  c.cat.foldl (fun d p =>
    if p.2.state ≠ 0 ∧ p.2.fenced = false ∧ c.inGal n q p.2 = true then
      d.modCat p.1 fun e => { e.bump with state := if e.state = 5 ∨ e.state = 3 then 1 else e.state }
    else d) c

/-- GALLERY_REDIRECT: under the pause, and with no MVM of the gallery in progress, the role goes to the lowest free gallery
of the wing: its context, its store with tags, its planes rewritten from their sources, its redirect and its waiting accesses
(R262). -/
def galleryRedirect (n g : Nat) (c : Chip) : Chip :=
  match c.move, c.freeGallery n with
  | some m, some q =>
    let l := c.roleOf n g
    let slot := match (List.range 8).find? fun k => c.flag (Reg.gredir n k) 32 && c.fld (Reg.gredir n k) 8 0 == l with
      | some k => some k
      | none => c.freeRedirect n
    match slot with
    | some k =>
      if m.wing = n ∧ m.gal = g ∧ m.tile = none ∧ m.pausedAt.isSome ∧ c.canMoveRole n g = true ∧ (c.gal n g).mvms.all (fun v => v.ended) then
        let t := (c.galTask n g).getD 0
        let ga := galStoreBase n g
        let gb := galStoreBase n q
        let (c, a) := c.rewritePlane n g .A
        let (c, b) := c.rewritePlane n g .B
        let x := c.gal n g
        let c := (c.setGal n q ((c.gal n q).takeOver x a b ga gb)).setGal n g x.vacated
        let c := (c.copyBlock ga gb).moveSettings n g q
        let c := c.wr (Reg.gredir n k) (w64 (l + q * 2 ^ 16 + 2 ^ 32))
        let c := (c.movedTiles n q).moveWaits ga gb (Issuer.moved n g q)
        c.moveDone m 0 n t
      else c
    | none => c
  | _, _ => c

/-- GALLERY_REDIRECT. -/
def execGalleryRedirect (n : Wing) (g : GalIx) (s : State) : Host.Outcome State Fault Refusal :=
  onChip (galleryRedirect n.val g.val) s

/-- A command of task t is in flight on the part: an MVM, plane write or array command in progress, a vector program, or a
transfer (R263). -/
def Chip.inFlight (c : Chip) (t : Nat) : Bool :=
  (c.gals.any fun p => (p.2.mvms.any fun m => decide (m.tag.task = some t) && !m.ended) ||
    (match p.2.wjob with | some j => decide (j.tag.task = some t) | none => false)) ||
  c.wings.any fun p =>
    ([p.2.mx0, p.2.mx1].any fun r => (r.queue ++ r.load.toList ++ r.flush.toList).any fun u => decide (u.tag.task = some t)) ||
    (match p.2.vec.run with | some r => decide (r.cmd.tag.task = some t) | none => false) ||
    (p.2.dma.any fun q => q.2.begun && decide (q.2.cmd.tag.task = some t))

/-- BLOCK_REDIRECT: under the pause, and with no command of the task in flight, a 64 KiB block of tile i is copied with its tags to
a free block of the same kind, and its redirect is installed (R263). -/
def blockRedirect (i : Nat) (c : Chip) : Chip :=
  match c.move with
  | none => c
  | some m =>
    let e := c.catNow i
    let n := (c.region m.blk).wing
    let t := c.taskOfTile i
    match c.redirectFor n (m.blk / 0x10000), c.freeBlock e.lkind e.owner with
    | some k, some b =>
      if m.tile = some i ∧ m.pausedAt.isSome ∧ c.canMoveBlock i m.blk = true ∧ (match t with | some t => !c.inFlight t | none => true) = true then
        let a := c.home m.blk
        let c := c.copyBlock a b
        let c := c.wr (Reg.bredir n k) (w64 (m.blk / 0x10000 + b / 0x10000 * 2 ^ 32 + 2 ^ 63))
        let c := match t with | some t => { c with redirTask := NMap.put c.redirTask (32 * n + k) t } | none => c
        let c := c.modCat i fun e => { e.bump with state := if e.state = 5 then 1 else e.state }
        let c := if e.lkind = 3 then c.moveWaits a b id else c
        c.moveDone m i n (t.getD 0)
      else c
    | _, _ => c

/-- BLOCK_REDIRECT. -/
def execBlockRedirect (i : Nat) (s : State) : Host.Outcome State Fault Refusal := onChip (blockRedirect i) s

/-- MOVE_ABANDON: 1 ms after its pause took effect a move is abandoned: REPLACE_FAIL, a notice of KIND 2 and the pause
released. The fault of a move that has one escalates to tier 2 (R261, R264). The 1 ms may pass before the next edge. -/
def moveAbandon (c : Chip) : Chip :=
  match c.move with
  | none => c
  | some m =>
    match m.pausedAt with
    | none => c
    | some p =>
      if p + 2000 ≤ c.tick.halfUs + c.period then
        let t := match m.tile with | some i => (c.taskOfTile i).getD 0 | none => (c.galTask m.wing m.gal).getD 0
        let c := (c.raise Reg.regStatus 5 (Reg.regCtr 5)).notice 2 (m.tile.getD 0) m.wing t
        if m.conflict then c.endMove m
        else
          let c := c.allTasks.foldl (fun d t => d.stopByFault t 0x14) c
          let c := c.logRecord { tier := 2, level := 2, wing := m.wing, source := 0x0C, gallery := m.gal, unit := 0, task := t,
                                 verdict := 0, detail := m.tile.getD 0 } true
          ({ c with recov := c.recov.map fun (r : Recovery) => { r with tier := 2 } }).endMove m
      else c

/-- MOVE_ABANDON. -/
def execMoveAbandon (s : State) : Host.Outcome State Fault Refusal := onChip moveAbandon s

/-! ### Loans and prefetches (R271 to R275) -/

/-- A plan entry (R271). -/
structure PlanEntry where
  tick : Nat
  act  : Nat
  tile : Nat
  addr : Nat
  lead : Nat
  deriving DecidableEq, Repr

/-- Word j of entry k of a task's plan table, as a read delivers it (R271, R288). -/
def Chip.planAt (c : Chip) (t k j : Nat) : Word := c.readWord (c.fld (Reg.regTaskPlan t) 43 4 * 16 + 16 * k + 8 * j)

/-- The Registrar reads an entry of a task's plan (R23, R288). -/
def Chip.readPlan (c : Chip) (t k : Nat) : Chip := (c.useRange .hub (c.fld (Reg.regTaskPlan t) 43 4 * 16 + 16 * k) 16 (some t)).1

/-- Entry k of a running task's plan, as its table holds it. DEDUCED (log 66). -/
def Chip.planEntry (c : Chip) (t k : Nat) : Option PlanEntry :=
  if k < c.fld (Reg.regTaskPlanLen t) 15 0 ∧ c.running t = true then
    let w0 := c.planAt t k 0
    let w1 := c.planAt t k 1
    some { tick := wbits w0 31 0, act := wbits w0 35 32, tile := wbits w0 61 36, addr := wbits w1 43 0, lead := wbits w1 59 44 }
  else none

/-- The cycle length of a task (R31). -/
def Chip.cycle (c : Chip) (t : Nat) : Nat := match (c.task t).img with | some im => im.cycle | none => 1

/-- The current cycle tick is the one at which an entry's copying starts (R272). -/
def Chip.planStarts (c : Chip) (t : Nat) (e : PlanEntry) : Bool :=
  let lead := if e.act = 1 then 0 else e.lead
  let cy := c.cycle t
  decide (c.elapsed t % cy = (e.tick + cy * lead - lead) % cy ∨ (c.elapsed t = 0 ∧ e.tick < lead))

/-- A plan action is not done: PLAN_SKIP and a notice of KIND 4 (R272). -/
def Chip.planSkip (c : Chip) (t : Nat) (e : PlanEntry) : Chip :=
  (c.raise Reg.regStatus 6 (Reg.regCtr 6)).notice 4 e.tile (c.catNow e.tile).owner t

/-- A plan action under way stored, or ended. -/
def Chip.setPlan (c : Chip) (t k : Nat) (r : Option PlanRun) : Chip :=
  c.modTask t fun s => { s with plans := match r with | some r => NMap.put s.plans k r | none => NMap.del s.plans k }

/-- A plan action that ends: its lock and its watch go (R250, R254). -/
def Chip.endPlan (c : Chip) (t k : Nat) (r : PlanRun) : Chip :=
  let c := (if r.watched then c.unhold r.tile else c).setPlan t k none
  (if c.inPlan r.tile then c else { c with planLate := c.planLate.erase r.tile }).drainLate

/-- Whether a plan action's tile moved since it was recorded (R273, R275): its generation changed, or a tile of a stack has no
watch. -/
def Chip.planMoved (c : Chip) (r : PlanRun) : Bool :=
  let e := c.catNow r.tile
  decide (e.gen ≠ r.gen) || (decide (r.act = 3 ∧ e.lkind = 4) && !r.watched)

/-- A plan action locks its tile's entry. A thirteenth lock of a set waits, with LOCK_WAIT; the action does not (R250). -/
def Chip.lockPlan (c : Chip) (i : Nat) : Chip :=
  if c.inPlan i || (c.cate i).locks || decide (c.lockedIn (i % 4096) < 12) then c
  else { c.raise Reg.regStatus 7 (Reg.regCtr 7) with planLate := c.planLate ++ [i] }

/-- A plan action starts: its entry read and its tile's generation recorded, under a watch for a LEND or PREFETCH (R273, R275). -/
def Chip.beginPlan (c : Chip) (t k : Nat) (e : PlanEntry) (late : Bool) : Chip :=
  let (c, w) := if e.act = 2 then (c.readPlan t k, false) else (c.readPlan t k).hold e.tile
  (c.lockPlan e.tile).setPlan t k (some { act := e.act, tile := e.tile, gen := (c.catNow e.tile).gen, retried := false, complete := false,
                                          watched := w, late := late })

/-- The bytes of a plan action's tile copied to an address (R273 to R275). -/
def Chip.copyTile (c : Chip) (i addr : Nat) : Chip :=
  let e := c.catNow i
  let (c, bs, ps) := c.fetch e.loc e.bytes
  c.store addr bs ps (c.taskOfTile i)

/-- LEND: copying starts at TICK, under a watch; a tile that may not be lent is skipped (R269, R272, R273). DEDUCED (log 32): so
is a tile that is no block. -/
def lend (t k : Nat) (c : Chip) : Chip :=
  match c.planEntry t k with
  | none => c
  | some e =>
    if e.act = 1 ∧ c.planStarts t e = true ∧ (NMap.find (c.task t).plans k).isNone then
      let x := c.catNow e.tile
      if x.state = 0 ∨ x.state = 4 ∨ x.state = 2 ∨ x.state = 5 ∨ x.pinned = true ∨ (x.lkind ≠ 2 ∧ x.lkind ≠ 3 ∧ x.lkind ≠ 4) ∨
          (x.lkind = 4 ∧ c.inAnnex (x.loc / 0x1000000000) x.loc = true) then c.planSkip t e
      else c.beginPlan t k e false
    else c

/-- LEND. -/
def execLend (t : Slot) (k : Nat) (s : State) : Host.Outcome State Fault Refusal := onChip (lend t.val k) s

/-- LEND_COPY_DONE: a copy that kept its generation is complete; one that did not is made once more, and then abandoned with
LEND_STALE (R273). -/
def lendCopyDone (t k : Nat) (c : Chip) : Chip :=
  match c.planEntry t k, NMap.find (c.task t).plans k with
  | some e, some r =>
    if r.act ≠ 1 ∨ r.complete then c
    else if c.planMoved r then
      if r.retried then (c.raise Reg.regStatus 2 (Reg.regCtr 2)).endPlan t k r
      else
        let c := if r.watched then c.unhold r.tile else c
        let (c, w) := c.hold r.tile
        c.setPlan t k (some { r with retried := true, gen := (c.catNow r.tile).gen, watched := w })
    else (c.copyTile r.tile e.addr).setPlan t k (some { r with complete := true })
  | _, _ => c

/-- LEND_COPY_DONE. -/
def execLendCopyDone (t : Slot) (k : Nat) (s : State) : Host.Outcome State Fault Refusal := onChip (lendCopyDone t.val k) s

/-- The first tick edge after a LEND's copy: the tile is loaned, its generation rises, and its blocks leave USE (R273). -/
def Chip.finishLend (c : Chip) (t k : Nat) (e : PlanEntry) (r : PlanRun) : Chip :=
  let x := c.catNow r.tile
  let c := c.endPlan t k r
  let c := c.subUse t x.qclass x.blocks
  c.setCat r.tile { x.bump with state := 4, lkind := 5, loc := e.addr }

/-- Every tag of the words that a plan action copies a tile into set empty (R274, R275). -/
def Chip.emptyTags (c : Chip) (e : PlanEntry) : Chip := c.setTags (c.home e.addr) (c.catNow e.tile).bytes false

/-- Every word that a plan action copied its tile into set full, and the accesses that wait there served (R274, R275). -/
def Chip.fillTags (c : Chip) (e : PlanEntry) : Chip := c.fillRange (c.home e.addr) (c.catNow e.tile).bytes

/-- RETURN: copying starts, the destination's words empty (R272, R274). One that starts at the edge of its TICK completes after it. A tile in
the annex is never copied (R295). DEDUCED (log 65). -/
def returnTile (t k : Nat) (c : Chip) : Chip :=
  match c.planEntry t k with
  | none => c
  | some e =>
    if e.act = 2 ∧ c.planStarts t e = true ∧ (NMap.find (c.task t).plans k).isNone then
      let x := c.catNow e.tile
      if x.state = 0 ∨ x.lkind = 1 ∨ (x.lkind = 4 ∧ c.inAnnex (x.loc / 0x1000000000) x.loc = true) then c.planSkip t e
      else (c.beginPlan t k e (decide (c.elapsed t % c.cycle t = e.tick))).emptyTags e
    else c

/-- RETURN. -/
def execReturnTile (t : Slot) (k : Nat) (s : State) : Host.Outcome State Fault Refusal := onChip (returnTile t.val k) s

/-- A RETURN whose copy is complete takes effect: a loaned tile becomes resident at ADDR, and every word of ADDR is full (R274).
A tile that was not loaned keeps its state and place (R272). -/
def Chip.finishReturn (c : Chip) (t k : Nat) (e : PlanEntry) (r : PlanRun) : Chip :=
  let x := c.catNow r.tile
  let c := c.endPlan t k r
  let c := if x.state = 4 then c.setCat r.tile { x.bump with state := 1, lkind := 3, loc := e.addr } else c
  c.fillTags e

/-- RETURN_COPY_DONE: the copy has landed. Before TICK it waits for that edge; after it, it takes effect now and sets RET_LATE
(R274). -/
def returnCopyDone (t k : Nat) (c : Chip) : Chip :=
  match c.planEntry t k, NMap.find (c.task t).plans k with
  | some e, some r =>
    if r.act ≠ 2 ∨ r.complete then c
    else
      let c := c.copyTile r.tile e.addr
      if r.late then (c.raise Reg.regStatus 1 (Reg.regCtr 1)).finishReturn t k e r
      else c.setPlan t k (some { r with complete := true })
  | _, _ => c

/-- RETURN_COPY_DONE. -/
def execReturnCopyDone (t : Slot) (k : Nat) (s : State) : Host.Outcome State Fault Refusal := onChip (returnCopyDone t.val k) s

/-- PREFETCH: copying starts under a watch, the destination's words empty (R272, R275). -/
def prefetch (t k : Nat) (c : Chip) : Chip :=
  match c.planEntry t k with
  | none => c
  | some e =>
    if e.act = 3 ∧ c.planStarts t e = true ∧ (NMap.find (c.task t).plans k).isNone then
      let x := c.catNow e.tile
      if x.state = 0 ∨ x.lkind = 1 ∨ (x.lkind = 4 ∧ c.inAnnex (x.loc / 0x1000000000) x.loc = true) then c.planSkip t e
      else (c.beginPlan t k e false).emptyTags e
    else c

/-- PREFETCH. -/
def execPrefetch (t : Slot) (k : Nat) (s : State) : Host.Outcome State Fault Refusal := onChip (prefetch t.val k) s

/-- A prefetch copy is discarded: PF_STALE, and the tile is copied again under a freshly armed watch (R275). -/
def Chip.stalePrefetch (c : Chip) (t k : Nat) (r : PlanRun) : Chip :=
  let c := c.raise Reg.regStatus 0 (Reg.regCtr 0)
  let c := if r.watched then c.unhold r.tile else c
  let (c, w) := c.hold r.tile
  c.setPlan t k (some { r with gen := (c.catNow r.tile).gen, retried := true, complete := false, watched := w, late := true })

/-- PREFETCH_CHECK: at the edge of TICK the recorded generation is compared with the tile's (R275). -/
def prefetchCheck (t k : Nat) (c : Chip) : Chip :=
  match c.planEntry t k, NMap.find (c.task t).plans k with
  | some e, some r =>
    if r.act ≠ 3 ∨ r.late ∨ c.elapsed t % c.cycle t ≠ e.tick then c
    else if c.planMoved r then c.stalePrefetch t k r
    else if r.complete then (c.endPlan t k r).fillTags e
    else c.setPlan t k (some { r with late := true })
  | _, _ => c

/-- PREFETCH_CHECK. -/
def execPrefetchCheck (t : Slot) (k : Nat) (s : State) : Host.Outcome State Fault Refusal := onChip (prefetchCheck t.val k) s

/-- PREFETCH_COPY_DONE: the copy is complete. After TICK its words are set full, once a copy that follows a stale one kept its
generation (R275). -/
def prefetchCopyDone (t k : Nat) (c : Chip) : Chip :=
  match c.planEntry t k, NMap.find (c.task t).plans k with
  | some e, some r =>
    if r.act ≠ 3 ∨ r.complete then c
    else if r.late && r.retried && c.planMoved r then c.stalePrefetch t k r
    else
      let c := c.copyTile r.tile e.addr
      if r.late then (c.endPlan t k r).fillTags e
      else c.setPlan t k (some { r with complete := true })
  | _, _ => c

/-- PREFETCH_COPY_DONE. -/
def execPrefetchCopyDone (t : Slot) (k : Nat) (s : State) : Host.Outcome State Fault Refusal := onChip (prefetchCopyDone t.val k) s

/-- The plan actions of a task at a tick edge (R273, R274): completed LENDs take effect, RETURNs whose TICK begins take effect or
are late, and POS names the next entry to act (R280). -/
def Chip.planEdge (c : Chip) (t : Nat) : Chip :=
  let now := c.elapsed t % c.cycle t
  let c := (c.task t).plans.foldl (fun d p =>
    match d.planEntry t p.1 with
    | none => d
    | some e =>
      if p.2.act = 1 ∧ p.2.complete then d.finishLend t p.1 e p.2
      else if p.2.act = 2 ∧ e.tick = now then
        if p.2.complete then d.finishReturn t p.1 e p.2 else d.setPlan t p.1 (some { p.2 with late := true })
      else d) c
  let len := c.fld (Reg.regTaskPlanLen t) 15 0
  if len = 0 then c
  else
    let pos := ((List.range len).find? fun k => decide (now < wbits (c.planAt t k 0) 31 0)).getD 0
    c.setFld (Reg.regTaskPlanLen t) 31 16 pos

end Sys2Proof.Machine
end

