-- ==== Sys2Proof/Machine/Faults.lean ====
section
/-! DEFINITION. Guard products and the classification of mismatches (R369 to R374), the release of a held task (R378), and the
checkpoint assist (R381). -/

namespace Sys2Proof.Machine

/-! ### Gallery guard runs (R370, R373) -/

/-- The input that a guard MVM puts on its row at a readout gain (R370). -/
def guardInput (gain : Nat) : Int := 64 / 2 ^ (gain - 3)

/-- A guard result lies within its limit (R370). -/
def guardNear (gain : Nat) (code result : Int) : Bool :=
  let a := guardInput gain
  decide ((result - a * code).natAbs ≤ 3 * lsb gain + (a * code).natAbs / 128)

/-- The codes of row r of a plane's source tile, as the guard thread reads them (R161, R370). -/
def Chip.sourceRow (c : Chip) (n g : Nat) (p : Plane) (r : Nat) : Chip × List Int :=
  let (c, bs) := c.useRange (.docent n g) (c.fld (Reg.consSrc n g (planeIx p)) 43 0 + 256 * r) 256 (c.galTask n g)
  (c, bs.map code8)

/-- The failing columns of a guard MVM among columns lo to hi − 1, in ascending order; none where it passes (R370). -/
def guardFails (gain : Nat) (codes results : List Int) (lo hi : Nat) : List Nat :=
  ((List.range hi).drop lo).filter fun x => !guardNear gain (nth 0 codes x) (nth 0 results x)

/-- The vitrine that a failing column of a guard MVM on row r names (R370). -/
def guardVit (r x : Nat) : Nat := 8 * (r / 64) + x / 32

/-- The input bytes of a guard MVM: a on row r, zero elsewhere. -/
def guardBytes (gain r : Nat) : List Byte :=
  (List.range 512).map fun k => if k = r then BitVec.ofInt 8 (guardInput gain) else 0

/-- An MVM with given inputs as a guard thread runs it: its bands' phases as the detectors choose them (R98). -/
def Chip.guardMvm (c : Chip) (n g : Nat) (p : Plane) (bands : Nat) (inputs : List Byte) : Mvm :=
  let x := c.gal n g
  let gain := c.gainOf x p c.censusStep
  { tag := { task := c.galTask n g, due := 0, budget := 1 }, plane := p, bands := bands,
    runs := (List.range 8).map fun i =>
      if bit bands i then min (wantPhases ((x.plane p).bandBound i) gain ((inputs.drop (64 * i)).take 64)) (c.budget n g p) else 0,
    inputs := inputs, out := 0, gain := gain, step := c.censusStep, tensor := noTensor, noSlot := false, ended := true, held := [],
    coef := x.coef, chk := c.rd (Reg.chkCtrl n g), drive := c.driveOf n g p }

/-- The comparison that the gallery itself makes of a guard MVM, as of any other (R163, R164). It makes no census counts. -/
def Chip.guardCompare (c : Chip) (n g : Nat) (m : Mvm) (results : List Int) : Chip :=
  (List.range 8).foldl (Chip.checkColumn n g m ((c.gal n g).plane m.plane) results (fun _ => false)) c

/-- Column j of an MVM's comparison fails. -/
def Chip.columnFails (c : Chip) (n g : Nat) (m : Mvm) (results : List Int) (j : Nat) : Bool :=
  let r := m.compare ((c.gal n g).plane m.plane) results j
  decide (r.2 < (r.1.natAbs : Int))

/-- The plane of a gallery's next guard run: the live one, or in resident mode A and B in turn (R370). -/
def Chip.guardPlane (c : Chip) (n g : Nat) : Plane :=
  if c.resident n g then (if (c.gal n g).guardAlt then .B else .A) else c.livePlane n g

/-- A gallery may make a guard run: its task runs, its wing runs, and the part is neither paused nor halted. -/
def Chip.guardMayRun (c : Chip) (n g : Nat) : Bool :=
  c.inRun n && !c.paused && !c.halted && match c.galTask n g with | some t => c.running t | none => false

/-- A plane that a guard run can use: written, its source's generation the one recorded for it (R146, R370). -/
def Chip.guardable (c : Chip) (n g : Nat) (p : Plane) : Bool := ((c.gal n g).plane p).written && c.sourceOk n g p

/-- A guard run proper: one guard MVM against the next row, checked against the source codes. A failure sets GUARD_FAIL and is
captured (R370, R372). -/
def Chip.guardCheck (c : Chip) (n g : Nat) (results : List Int) : Chip :=
  let p := c.guardPlane n g
  let r := (c.gal n g).guardRow
  let next := fun (d : Chip) => d.modGal n g fun x => { x with guardRow := (r + 1) % 512, guardAlt := !x.guardAlt }
  if !c.guardable n g p then c
  else
    let gain := c.gainOf (c.gal n g) p c.censusStep
    let m := c.guardMvm n g p (2 ^ (r / 64)) (guardBytes gain r)
    let c := c.guardCompare n g m results
    let (c, codes) := c.sourceRow n g p r
    match guardFails gain codes results 0 256 with
    | [] => next c
    | x :: _ =>
      let c := c.raise (Reg.galFlt n g) 1 (Reg.galFltCtr n g 1)
      next (c.capture n g p (2 ^ (r / 64)) gain (x / 32) 1 m.inputs x r)

/-- A classification is over: its verdict in LAST, and the capture released (R372, R385). -/
def Chip.endClass (c : Chip) (n g verdict : Nat) : Chip :=
  (((c.setFld (Reg.galFltState n g) 2 0 0).setFld (Reg.galFltState n g) 6 4 verdict).setFlag (Reg.galFltState n g) 7 false).modGal n g
    fun x => { x with cls := none }

/-- The record of a gallery classification's verdict (R380). -/
def Chip.classRecord (c : Chip) (n g unit verdict : Nat) (k : GalClass) : FaultRec :=
  let trig := c.fld (Reg.galCapInfo n g) 24 24
  { tier := 1, level := if verdict = 4 then 1 else 0, wing := n, source := 1 + trig, gallery := g, unit := unit,
    task := (c.galTask n g).getD 0, verdict := verdict,
    detail := if trig = 1 then k.dval.toNat else twos 32 (clampInt (-(2 ^ 31)) (2 ^ 31 - 1) k.dval) }

/-- A verdict that fences nothing: TRANSIENT or UNRESOLVED, logged at tier 0 (R373, R377). -/
def Chip.classQuiet (c : Chip) (n g verdict : Nat) (k : GalClass) : Chip :=
  (c.verdictRecord (c.classRecord n g (c.fld (Reg.galCapInfo n g) 22 20) verdict k)).endClass n g verdict

/-- A verdict that fences vitrines, or the gallery (R373, R376). -/
def Chip.classFence (c : Chip) (n g unit verdict : Nat) (vits : BitVec 64) (k : GalClass) : Chip :=
  (c.endClass n g verdict).fenceGal n g vits (c.classRecord n g unit verdict k)

/-- A classification's progress noted (R385). -/
def Chip.setClass (c : Chip) (n g : Nat) (k : GalClass) : Chip :=
  ((c.setFld (Reg.galFltState n g) 2 0 k.step).setFld (Reg.galFltState n g) 15 8 (bitsOf 8 fun i => k.failed.contains i)).modGal n g
    fun x => { x with cls := some k }

/-- The captured input bytes of a gallery (R385). -/
def Chip.capInputs (c : Chip) (n g : Nat) : List Byte :=
  (List.range 64).flatMap fun k => leBytes 8 (c.rd (Reg.galCap n g k)).toNat

/-- The captured inputs with only band i of them. -/
def oneBand (inputs : List Byte) (i : Nat) : List Byte :=
  (List.range 512).map fun r => if r / 64 = i then nth 0 inputs r else 0

/-- The row of band i with the largest input magnitude, the lowest on a tie (R373). -/
def worstRow (inputs : List Byte) (i : Nat) : Nat :=
  (List.range 64).foldl (fun best k =>
    if (code8 (nth 0 inputs best)).natAbs < (code8 (nth 0 inputs (64 * i + k))).natAbs then 64 * i + k else best) (64 * i)

/-- Vitrines 8i + j of a list of bands, as fence bits. -/
def bandVits (is : List Nat) (j : Nat) : BitVec 64 := is.foldl (fun v i => v ||| BitVec.ofNat 64 (2 ^ (8 * i + j))) 0

/-- One step of a gallery's classification in a guard run, with the results of its MVM (R373). -/
def Chip.classStep (c : Chip) (n g : Nat) (k : GalClass) (results : List Int) : Chip :=
  let info := Reg.galCapInfo n g
  let p := planeOf (c.fld info 0 0)
  let bands := c.fld info 15 8
  let gain := c.fld info 18 16
  let j := c.fld info 22 20
  let ins := c.capInputs n g
  if c.fld (Reg.consSrc n g (planeIx p)) 63 48 ≠ k.gen ∨ c.fld (Reg.galMode n g) 1 1 ≠ k.live ∨
      c.gainOf (c.gal n g) p c.censusStep ≠ gain then c.classQuiet n g 6 k
  else if c.flag info 24 then
    let (c, codes) := c.sourceRow n g p k.guardRow
    match guardFails gain codes results 0 256 with
    | [] => c.classQuiet n g 1 k
    | x :: xs =>
      c.classFence n g (guardVit k.guardRow x) 3 ((x :: xs).foldl (fun v y => v ||| BitVec.ofNat 64 (2 ^ guardVit k.guardRow y)) 0)
        { k with dval := x }
  else if k.step = 1 then
    let m := c.guardMvm n g p bands ins
    let fails := c.columnFails n g m results j
    let c := c.guardCompare n g m results
    if fails then c.setClass n g { k with step := 3, todo := (List.range 8).filter fun i => bit bands i } else c.classQuiet n g 1 k
  else if k.step = 3 then
    match k.todo with
    | [] => c.classFence n g 0 4 (BitVec.allOnes 64) k
    | i :: rest =>
      let m := c.guardMvm n g p (2 ^ i) (oneBand ins i)
      let failed := if c.columnFails n g m results j then k.failed ++ [i] else k.failed
      let c := c.guardCompare n g m results
      if rest ≠ [] then c.setClass n g { k with todo := rest, failed := failed }
      else if failed = [] then c.classFence n g 0 4 (BitVec.allOnes 64) k
      else c.setClass n g { k with step := 4, todo := [], failed := failed, checks := failed }
  else
    match k.checks with
    | [] => c.classQuiet n g 6 k
    | i :: rest =>
      let (c, codes) := c.sourceRow n g p (worstRow ins i)
      let hard := if (guardFails gain codes results (32 * j) (32 * j + 32)).isEmpty then k.hard else k.hard ++ [i]
      if rest ≠ [] then c.setClass n g { k with checks := rest, hard := hard }
      else c.classFence n g (8 * (nth 0 k.failed 0) + j) (if hard = [] then 2 else 3) (bandVits k.failed j) { k with hard := hard }

/-- GUARD_RUN: a reserved guard run of a gallery. It carries one step of a held capture's classification, unless a recovery is
in progress; else it runs a guard MVM (R370, R372, R373). `results` are the run's corrected results by column.
DEDUCED (log 68). -/
def guardRun (n g : Nat) (results : List Int) (c : Chip) : Chip :=
  if !c.guardMayRun n g then c
  else match (c.gal n g).cls with
    | some k => if c.recov.isSome then c.guardCheck n g results else c.classStep n g k results
    | none => c.guardCheck n g results

/-- GUARD_RUN. -/
def execGuardRun (n : Wing) (g : GalIx) (results : List Int) (s : State) : Host.Outcome State Fault Refusal :=
  onChip (guardRun n.val g.val results) s

/-! ### Array and vector guards (R371, R374) -/

/-- Array k is enabled and not fenced (R190, R191). -/
def Chip.arrayOk (c : Chip) (k : Nat) : Bool := c.flag (Reg.mxIdent (k / 2) (k % 2)) 8 && !c.flag (Reg.mxIdent (k / 2) (k % 2)) 9

/-- The other array that repeats a captured pass of array k: the lowest enabled, unfenced array of its wing, of its die, or of
any (R374). -/
def Chip.otherArray (c : Chip) (k : Nat) : Option Nat :=
  let ok := fun i => decide (i ≠ k) && c.arrayOk i
  match (List.range 2).find? fun i => ok (k / 2 * 2 + i) with
  | some i => some (k / 2 * 2 + i)
  | none => match (List.range 4).find? fun i => ok (k / 4 * 4 + i) with
    | some i => some (k / 4 * 4 + i)
    | none => (List.range 32).find? ok

/-- The record of a matrix classification's verdict (R380). -/
def Chip.arrayRecord (c : Chip) (n a verdict : Nat) : FaultRec :=
  { tier := 2, level := 2, wing := n, source := 0x07, gallery := 0, unit := a, task := (c.boundTo n a).head?.getD 0,
    verdict := verdict, detail := twos 32 (clampInt (-(2 ^ 31)) (2 ^ 31 - 1) ((c.wing n).arr a).dval) }

/-- A matrix array's capture released. -/
def Chip.endArrayClass (c : Chip) (n a : Nat) : Chip :=
  (c.setFlag (Reg.wingFlt n) (4 + a) false).modArr n a fun r => { r with clsStep := 0 }

/-- GUARD_FAIL of a wing (R371, R387). -/
def Chip.guardFailWing (c : Chip) (n : Nat) : Chip := c.raise (Reg.wingFlt n) 1 (Reg.wingFltCtr n 1)

/-- ARRAY_GUARD_WINDOW: a guard window of an array. It repeats the array's own captured pass, or the captured pass of another
array that chose it, unless a recovery is in progress; else it runs the guard pass (R371, R374). -/
def arrayGuardWindow (n a : Nat) (r : GuardResult) (c : Chip) : Chip :=
  if !(c.inRun n && !c.halted && c.arrayOk (2 * n + a)) then c
  else
    let asked := if c.recov.isSome then none else (List.range 32).find? fun k =>
      decide (((c.wing (k / 2)).arr (k % 2)).clsStep = 2) && c.otherArray k == some (2 * n + a)
    if c.recov.isNone && decide (((c.wing n).arr a).clsStep = 1) then
      match r with
      | .pass => (c.verdictRecord (c.arrayRecord n a 1)).endArrayClass n a
      | .fail _ => c.modArr n a fun x => { x with clsStep := 2 }
    else match asked with
      | some k =>
        let (m, b) := (k / 2, k % 2)
        match r with
        | .pass => (c.endArrayClass m b).fenceArray m b (c.boundTo m b) (c.arrayRecord m b 2)
        | .fail _ =>
          ((c.endArrayClass m b).raise (Reg.wingFlt m) 3 (Reg.wingFltCtr m 3)).faultTier2 (c.arrayRecord m b 5)
      | none =>
        match r with
        | .pass => c
        | .fail d => (c.guardFailWing n).mxCapture n a ((List.range 4).map fun w => Config.guardPass (2 * n + a) w) d

/-- ARRAY_GUARD_WINDOW. -/
def execArrayGuardWindow (n : Wing) (a : Fin 2) (r : GuardResult) (s : State) : Host.Outcome State Fault Refusal :=
  onChip (arrayGuardWindow n.val a.val r) s

/-- The record of a vector engine's guard verdict (R380). -/
def vecRecord (n verdict detail : Nat) : FaultRec :=
  { tier := 2, level := 2, wing := n, source := 0x12, gallery := 0, unit := 0, task := 0, verdict := verdict, detail := detail }

/-- VECTOR_GUARD: a vector engine runs its guard program. A failure is repeated in the next window: a pass then is TRANSIENT, a
second failure HARD (R374). With no task loaded it is the run that each accession makes, which clears VEC_HARD if it passes.
DEDUCED (log 69). -/
def vectorGuard (n : Nat) (r : GuardResult) (c : Chip) : Chip :=
  if c.halted then c
  else match r, (c.wing n).vec.guardFailed with
    | .pass, true =>
      (c.verdictRecord (vecRecord n 1 0)).modWing n fun w => { w with vec := { w.vec with guardFailed := false } }
    | .pass, false => if c.anyLoaded then c else c.setFlag (Reg.wingFlt n) 2 false
    | .fail _, false => (c.guardFailWing n).modWing n fun w => { w with vec := { w.vec with guardFailed := true } }
    | .fail d, true =>
      let c := (c.guardFailWing n).modWing n fun w => { w with vec := { w.vec with guardFailed := false } }
      (c.raise (Reg.wingFlt n) 2 (Reg.wingFltCtr n 2)).faultTier2 (vecRecord n 3 d)

/-- VECTOR_GUARD. -/
def execVectorGuard (n : Wing) (r : GuardResult) (s : State) : Host.Outcome State Fault Refusal := onChip (vectorGuard n.val r) s

/-! ### Held tasks (R378) and the checkpoint assist (R381) -/

/-- The tasks that a fault stopped and that are still held. -/
def Chip.heldTasks (c : Chip) : List Nat := c.tasks.filterMap fun (p : Nat × TaskSt) => if p.2.held then some p.1 else none

/-- Every held task released (R378). DEDUCED (log 70). -/
def Chip.releaseAll (c : Chip) : Chip := c.heldTasks.foldl (fun d t => d.releaseTask t) c

/-- ASSIST_WAIT_EXPIRY: ASSIST_WAIT ms have passed from a held task's stop edge to this edge with no assist started (R378). -/
def assistWaitExpiry (c : Chip) : Chip :=
  if c.assist.isSome then c
  else c.heldTasks.foldl (fun d t =>
    if (c.task t).stopEdge + 2000 * max (c.fld Reg.fltCtrl 15 0) 1 ≤ c.tick.halfUs then d.releaseTask t else d) c

/-- ASSIST_WAIT_EXPIRY. -/
def execAssistWaitExpiry (s : State) : Host.Outcome State Fault Refusal := onChip assistWaitExpiry s

/-- The assist engine writes bytes, with the parity states of their words, at a global address: a host window of this part, or another
part (R381). Their parity is checked as they leave the part (R366). -/
def Chip.assistWrite (c : Chip) (dst : Nat) (bs : List Byte) (pars : List Nat) : Chip :=
  match c.sideOf dst with
  | .own a => c.store a bs pars none
  | .far phys a => (c.useWords .hub a pars none).sendWrites 0 phys a 0 0xFFFF false false (padTo ((bs.length + 63) / 64 * 64) 0 bs)
  | .nowhere => c

/-- A destination that an assist may have (R381). -/
def Chip.assistDst (c : Chip) (dst : Nat) : Bool :=
  match c.sideOf dst with
  | .own a => (match c.region a with | .hostWin _ => true | _ => false)
  | .far _ _ => true
  | .nowhere => false

/-- UPDATED (R381). -/
def Chip.assistUpd (c : Chip) (t : Nat) : Bool :=
  let s := c.task t
  let upd := match s.img with | some im => im.updTicks | none => 0
  let cnt := c.fld (Reg.taskPerf t) 63 48
  decide (c.fld Reg.stepVote 1 0 ≠ 1) || match s.commitTick with
    | some k => decide (k + upd ≤ s.stopTick ∧ cnt = s.commitOver ∧ cnt < 0xFFFF)
    | none => false

/-- The header or trailer of an assist stream (R381). -/
def Chip.assistHeader (c : Chip) (upd trailer complete : Bool) : List Byte :=
  leBytes 8 (c.stepCount + 2 ^ 48 + b2n upd * 2 ^ 56 + b2n trailer * 2 ^ 57 + b2n complete * 2 ^ 58) ++
    leBytes 8 (c.fld Reg.linkIdent 27 16 + c.fld Reg.fltAlist 63 48 * 2 ^ 16) ++ List.replicate 48 0

/-- START: while a task stopped by a fault is held and no assist runs, the stream begins with its header (R381).
DEDUCED (log 71). -/
def Chip.startAssist (c : Chip) : Chip :=
  let dst := c.fld Reg.fltAssist 55 6 * 64
  match c.heldTasks with
  | [] => c
  | t :: _ =>
    if c.assist.isSome || c.halted || !c.assistDst dst then c
    else
      let upd := c.assistUpd t
      let c := c.wr Reg.fltAstat (w64 (1 + b2n upd * 4 + 64 * 2 ^ 16))
      { c.assistWrite dst (c.assistHeader upd false false) [] with assist := some { dst := dst, upd := upd, sent := 64 } }

/-- The tile indices of the assist list, read by the hub's assist engine (R288, R381, R389). -/
def Chip.assistList (c : Chip) : Chip × List Nat :=
  let n := c.fld Reg.fltAlist 63 48
  let (c, bs) := c.useRange .hub (c.fld Reg.fltAlist 43 3 * 8) (8 * n) none
  (c, (List.range n).map fun k => ofLeBytes ((bs.drop (8 * k)).take 8) % 2 ^ 26)

/-- One tile of an assist stream: its header and bytes, the parity states of their words, and whether it was there to be sent whole
(R381). -/
def Chip.assistTile (c : Chip) (i : Nat) : Chip × List Byte × List Nat × Bool :=
  let e := c.catNow i
  let n := if e.state = 0 then 0 else e.bytes
  let (c, bs, ps) := c.fetch e.loc n
  (c, leBytes 8 (i + e.format * 2 ^ 32) ++ leBytes 8 n ++ leBytes 8 (e.gen + b2n (ps.any fun p => p = 2) * 2 ^ 16) ++ List.replicate 8 0 ++ bs,
   List.replicate 8 0 ++ ps, decide (e.state ≠ 0))

/-- ASSIST_DONE: the tiles of the list and the trailer are written, DONE is set, and the held task is released (R378, R381). -/
def assistDone (c : Chip) : Chip :=
  match c.assist with
  | none => c
  | some a =>
    if c.halted then c
    else
      let (c, tiles) := c.assistList
      let (c, bs, ps, whole) := tiles.foldl (fun (d, bs, ps, ok) i =>
        let (d, b, p, w) := Chip.assistTile d i
        (d, bs ++ b, ps ++ p, ok && w)) (c, ([] : List Byte), ([] : List Nat), true)
      let c := c.assistWrite (a.dst + a.sent) (bs ++ c.assistHeader a.upd true whole) (ps ++ List.replicate 16 0)
      let c := c.wr Reg.fltAstat (w64 (2 + b2n a.upd * 4 + (a.sent + bs.length + 64) * 2 ^ 16))
      ({ c with assist := none }).releaseAll

/-- ASSIST_DONE. -/
def execAssistDone (s : State) : Host.Outcome State Fault Refusal := onChip assistDone s

end Sys2Proof.Machine
end

