-- ==== Sys2Proof/Machine/Host.lean ====
section
/-! DEFINITION. Host ports: submission tokens (R395, R396), loading, stopping, saving and restoring a task (R1, R3, R32, R233,
R256, R260, R353, R470, R471), completion rings (R397), the primary role (R393), resets and link loss (R404), the memory
aperture (R401) and the PCI Express link (R390, R400). -/

namespace Sys2Proof.Machine

/-! ### Stopping and unloading (R470) -/

/-- What of a wing's units ends when task t stops: commands held, queued and in an array's load or flush slot, the vector program, and the
transfers (R470). DEDUCED (log 115): a background set that was being filled holds nothing. -/
def WingSt.windDown (w : WingSt) (t : Nat) : WingSt :=
  let mine := fun (g : CmdTag) => decide (g.task = some t)
  let arr := fun (r : Arr) =>
    let dropped := r.load.any fun u => mine u.tag
    { r with queue := r.queue.filter fun u => !mine u.tag, load := r.load.filter fun u => !mine u.tag,
             flush := r.flush.filter fun u => !mine u.tag, histWait := r.histWait && !r.queue.any fun u => mine u.tag,
             bg := if dropped && r.bg == .loading then .empty else r.bg,
             stalled := r.stalled && match r.queue with | u :: _ => !mine u.tag | [] => false }
  { w with
    held := w.held.filter fun h => !mine h.tag, mx0 := arr w.mx0, mx1 := arr w.mx1,
    vec := { w.vec with queue := w.vec.queue.filter fun u => !mine u.tag,
                        run := w.vec.run.filter fun r => !mine r.cmd.tag },
    dma := w.dma.filter fun p => !mine p.2.cmd.tag }

/-- The docent threads of a gallery halt; a command that waits at one of them is discarded (R470). -/
def Gal.haltThreads (x : Gal) : Gal :=
  { x with threads := NMap.update (fun _ => ThreadSt.reset) (fun _ s =>
      { s with halted := s.live || s.halted,
               wait := match s.wait with | .queueFull _ _ _ => ThreadWait.ready | v => v }) x.threads }

/-- The physical galleries that serve a task's roles. -/
def Chip.taskGals (c : Chip) (t : Nat) : List (Nat × Nat) := (c.task t).gals.map fun p => (p.1, c.served p.1 p.2)

/-- A waiting access whose issuer R470 ends with task t: a vector program's or a transfer's. -/
def Wait.ends (w : Wait) (t : Nat) : Bool :=
  decide (w.task = some t) && match w.issuer with | .vec _ | .dma _ _ => true | _ => false

/-- A vector program of task t stops at its instruction boundary; its command ends, so that its flags go into vec.status (R200, R470). -/
def Chip.stopVector (c : Chip) (t n : Nat) : Chip := if (c.wing n).vec.task = some t then c.vEnd n else c

/-- The work of a task ends at its stopping edge (R470). -/
def Chip.windDown (c : Chip) (t : Nat) : Chip :=
  let c := (List.range 16).foldl (fun d n => d.stopVector t n) c
  let c := { c with
    wings := NMap.update (fun _ => WingSt.reset) (fun _ w => w.windDown t) c.wings
    waits := c.waits.filter fun w => !w.ends t
    resends := c.resends.filter fun w => !w.ends t }
  (c.taskGals t).foldl (fun d p => (d.modGal p.1 p.2 Gal.haltThreads).stopGal p.1 p.2) c

/-- Wings whose schedule tables a task supplies (R471). -/
def Chip.taskWings (c : Chip) (t : Nat) : List Nat :=
  match (c.task t).img with
  | some im => im.tables.map fun tb => tb.wing.val
  | none => []

/-- The pairs of a task that is unloaded belong to no loaded task: they are disabled, and signals to them are stray (R227, R233). -/
def Chip.dropPairs (c : Chip) (t : Nat) : Chip :=
  (c.pairs.filter fun p => decide (p.2.task = some t)).foldl (fun d p =>
    ({ d with pairs := NMap.set (fun _ => Pair.reset) d.pairs p.1 { p.2 with en := false, task := none } }.syncPair p.1).1) c

/-- A task is unloaded: its work ends, its tiles are vacant, its waiting accesses, pairs and threads go, and its slot is free (R233, R267,
R395, R470). Its elapsed and overrun counts stay (R37). -/
def Chip.unloadTask (c : Chip) (t : Nat) : Chip :=
  let wings := c.taskWings t
  let gals := c.taskGals t
  let c := ((c.windDown t).endTask t).dropPairs t
  let c := { c with waits := c.waits.filter fun w => w.task ≠ some t, resends := c.resends.filter fun w => w.task ≠ some t }
  let c := gals.foldl (fun d p => d.modGal p.1 p.2 fun x => { x with threads := [] }) c
  let c := wings.foldl (fun d n => (d.wr (Reg.tickNow n) 0).wr (Reg.schedPos n) 0) c
  let c := ((c.wr (Reg.regTaskIndex t) 0).wr (Reg.regTaskPlan t) 0).wr (Reg.regTaskPlanLen t) 0
  let c := (List.range 16).foldl (fun d n => (d.wr (Reg.arena n t) 0).wr (Reg.arenaIdx n t) 0) c
  let c := { c.setTask t TaskSt.reset with step := { c.step with
    censusTask := if c.step.censusTask = some t then none else c.step.censusTask } }
  let c := if c.anyLoaded then c else c.setFld Reg.linkIdent 27 16 0
  c.settleRecovery

/-! ### Submission tokens (R395, R396) -/

/-- OP of a submission token (R395). -/
def tokOp (w : Word) : Nat := wbits w 3 0
/-- SLOT of a submission token. -/
def tokSlot (w : Word) : Nat := wbits w 7 4
/-- TAG of a submission token. -/
def tokTag (w : Word) : Nat := wbits w 19 8
/-- BLOCK of a submission token. -/
def tokBlock (w : Word) : Nat := wbits w 53 24

/-- A token with a reserved OP or a reserved bit set (R396). -/
def tokBad (w : Word) : Bool :=
  decide (tokOp w = 0 ∨ 6 < tokOp w ∨ wbits w 23 20 ≠ 0 ∨ wbits w 63 54 ≠ 0)

/-- The one completion of a token (R396). -/
def Chip.answer (c : Chip) (h : HostPort) (w : Word) (status reason : Nat) : Chip :=
  c.completeTo h (ctoken (tokOp w) (tokSlot w) (tokTag w) status reason 0)

/-- The token at the head of a port's submission queue, where Pendun can take it: it takes none while a completion of its own
waits for a full queue (R232, R397, R398). -/
def Chip.nextToken (c : Chip) (h : HostPort) : Option Word :=
  if c.up && !c.putWaits 50 && !c.putWaits 51 then (c.queue (48 + portIx h)).head? else none

/-- Pendun takes the head token of a port, if its OP is `op` (or, for NOP, no operation at all): a bad one completes with
STATUS 2, any other is served (R396). -/
def Chip.serveToken (c : Chip) (h : HostPort) (op : Nat) (f : Word → Chip → Chip) : Chip :=
  match c.nextToken h with
  | none => c
  | some w =>
    let d := c.dropHead (48 + portIx h)
    if tokBad w then (if tokOp w = op ∨ (op = 6 ∧ (tokOp w = 0 ∨ 6 < tokOp w)) then d.answer h w 2 0 else c)
    else if tokOp w = op then f w d else c

/-- The primary port (R393). -/
def Chip.primary (c : Chip) : HostPort := if c.flag Reg.hostCfg 0 then .B else .A

/-! ### LOAD (R1, R3, R32, R256, R260, R353, R374, R471) -/

/-- A schedule table entry that the part accepts (R30, R32). -/
def schedEntryOk (w : Word) : Bool :=
  decide (wbits w 15 0 ≠ 0 ∧ wbits w 23 21 = 0 ∧ wbits w 31 24 = 1 ∧ wbits w 63 32 = 0)

/-- The wing tables of an image pass R32. -/
def Image.tablesOk (im : Image) : Bool :=
  decide (1 ≤ im.cycle ∧ im.cycle < 2 ^ 32) && im.tables.all fun tb =>
    decide (0 < tb.entries.length ∧ tb.entries.length ≤ 4096) && tb.entries.all schedEntryOk &&
      decide ((tb.entries.map fun w => wbits w 15 0).foldl (· + ·) 0 = im.cycle)

/-- Arrays that are enabled and not fenced (R3). -/
def Chip.arraysEnabled (c : Chip) : Nat := ((List.range 32).filter c.arrayOk).length

/-- The cascade shape or its assembly refuses an image's load (R1, R353, R356, R414). DESIGN CHOICE (log 113): a compiled shape is known by its
number of parts alone. -/
def Chip.shapeBad (c : Chip) (im : Image) : Bool :=
  decide (im.parts ≠ c.fld Reg.ledgerClass 28 16) || !c.flag Reg.linkIdent 48

/-- The tick period refuses an image's load (R1, R41). -/
def Chip.periodBad (c : Chip) (im : Image) : Bool :=
  decide (im.period ≠ c.fld Reg.tickPeriod 7 0) || c.periodMis

/-- Another loaded task holds a wing that an image names, or the training step state (R471). -/
def Chip.heldBy (c : Chip) (t : Nat) (im : Image) : Bool :=
  c.tasks.any fun p => decide (p.1 ≠ t ∧ p.2.phase ≠ .empty) && match p.2.img with
    | some x => (x.tables.any fun a => im.tables.any fun b => decide (a.wing = b.wing)) || (x.training && im.training)
    | none => false

/-- The reason that refuses an image before placement; 0 for none. DESIGN CHOICE (log 34): the order of the reasons. -/
def Chip.loadReason (c : Chip) (t : Nat) (im : Image) : Nat :=
  if c.periodBad im then 0x01
  else if c.shapeBad im then 0x02
  else if im.arrays = 0 ∨ c.arraysEnabled < im.arrays then 0x03
  else if !Image.tablesOk im then 0x04
  else if (List.range 16).any fun n => c.flag (Reg.wingFlt n) 2 then 0x07
  else if c.heldBy t im then 0x1B
  else 0

/-- HOST_LOAD: a LOAD token takes its slot for its port, and the image is checked before placement (R395). -/
def hostLoad (h : HostPort) (im : Image) (c : Chip) : Chip :=
  c.serveToken h 1 fun w c =>
    let t := tokSlot w
    if (c.task t).phase ≠ .empty ∨ (c.task t).owner.isSome then c.answer h w 1 0x06
    else
      let r := c.loadReason t im
      if r ≠ 0 then c.answer h w 1 r
      else c.setTask t { TaskSt.reset with phase := .loading, owner := some h, img := some im, tag := tokTag w }

/-- HOST_LOAD. -/
def execHostLoad (h : HostPort) (img : Image) (s : State) : Host.Outcome State Fault Refusal := onChip (hostLoad h img) s

/-- The logical identity that an image's translation table gives this part: its single entry with the part's physical identity
(R353). -/
def Chip.logicalIn (c : Chip) (im : Image) : Option Nat :=
  match im.xlate.filter fun p => p.2 % 4096 = c.fld Reg.linkIdent 11 0 with
  | [p] => some (p.1 % 4096)
  | _ => none

/-- The translations that an image brings, and the part's logical identity (R353). -/
def Chip.loadXlate (c : Chip) (im : Image) (logical : Nat) : Chip :=
  let c := { c with regs := c.regs.filter fun p => !decide (Reg.linkXlate 0 ≤ p.1 ∧ p.1 < Reg.linkXlate 4096) }
  let c := im.xlate.foldl (fun d p => d.wr (Reg.linkXlate (p.1 % 4096)) (w64 (p.2 % 4096 + 2 ^ 16))) c
  c.setFld Reg.linkIdent 27 16 logical

/-- What the image brings beside its tiles: translations, schedule tables, training registers and the assist list (R53, R331,
R332, R335, R353, R381). -/
def Chip.loadTables (c : Chip) (t : Nat) (im : Image) (logical : Nat) : Chip :=
  let c := c.loadXlate im logical
  let c := im.tables.foldl (fun d tb =>
    let n := tb.wing.val
    (((d.storeWords tb.base tb.entries).wr (Reg.schedBase n) (w64 (tb.base % 2 ^ 44))).wr (Reg.schedLen n) (w64 tb.entries.length)).wr
      (Reg.schedPos n) 0 |>.wr (Reg.tickNow n) 0) c
  let c := (c.wr Reg.fltAlist (w64 (im.alistBase / 8 * 8 % 2 ^ 44 + im.alist.length % 65536 * 2 ^ 48))).storeWords im.alistBase (im.alist.map w64)
  let c := (c.wr (Reg.taskPerf t) 0).wr (Reg.taskStart t) 0
  if im.training then
    let c := (c.wr Reg.stepGtab (w64 (im.gtabBase / 16 * 16 % 2 ^ 44))).wr Reg.stepGtabLen (w64 (im.gtabLen % 2 ^ 24))
    let c := (c.wr Reg.stepExpect (w64 (im.recvExp % 2 ^ 32 + im.sendExp % 2 ^ 32 * 2 ^ 32))).wr Reg.stepCount 0
    let c := (List.range 16).foldl (fun d n => d.wr (Reg.stepOut n) 0) c
    let c := im.stepOut.foldl (fun d p => d.wr (Reg.stepOut (p.1 % 16)) (w64 (1 + p.2 / 8 * 8 % 2 ^ 44))) c
    { c with step := { c.step with voted := false, combined := none, childVote := [], round := 0, readBlks := [] } }
  else c

/-- Thread 0 of each of a task's docents starts at the entry point compiled for its role; no other thread is live (R205).
DESIGN CHOICE (log 75). -/
def Chip.startDocents (c : Chip) (t : Nat) (im : Image) : Chip :=
  ((c.task t).gals.zip im.roles).foldl (fun d q =>
    d.modGal q.1.1 q.1.2 fun x => { x with
      threads := NMap.put [] 0 { ThreadSt.reset with live := true, pc := BitVec.ofNat 44 q.2.entry }
      dcache := [], cmdQ := [], pendW := [], swapDue := [], conflict := false, conflictTold := false }) c

/-- TASK_LOAD_COMPLETE: placement ends (R256), which waits for every clear of an annex slice (R299). The task is ready, and its LOAD completes; or nothing is kept and it is refused
(R260). -/
def taskLoadComplete (t : Nat) (c : Chip) : Chip :=
  let s := c.task t
  if c.clearing then c
  else match s.phase, s.owner, s.img with
  | .loading, some h, some im =>
    let tok := fun status reason => ctoken 1 t s.tag status reason 0
    match c.logicalIn im with
    | none => (c.setTask t TaskSt.reset).completeTo h (tok 1 0x05)
    | some l =>
      match (c.loadTables t im l).placeTask t im with
      | none => (c.setTask t TaskSt.reset).completeTo h (tok 1 0x05)
      | some d =>
        let d := d.modTask t fun s => { s with phase := .ready }
        (d.startDocents t im).completeTo h (tok 0 0)
  | _, _, _ => c

/-- TASK_LOAD_COMPLETE. -/
def execTaskLoadComplete (t : Slot) (s : State) : Host.Outcome State Fault Refusal := onChip (taskLoadComplete t.val) s

/-! ### UNLOAD, STOP and NOP -/

/-- A port may act on a slot: it owns it, or, for UNLOAD and STOP, it is the primary and the slot is owned (R395). -/
def Chip.mayAct (c : Chip) (h : HostPort) (t : Nat) (primaryToo : Bool) : Bool :=
  match (c.task t).owner with
  | none => false
  | some o => decide (o = h) || (primaryToo && decide (c.primary = h))

/-- HOST_UNLOAD: the slot's task is unloaded and its ownership released (R395). DESIGN CHOICE (log 35): a slot that still loads is
busy. DEDUCED (log 77). -/
def hostUnload (h : HostPort) (c : Chip) : Chip :=
  c.serveToken h 2 fun w c =>
    let t := tokSlot w
    if !c.mayAct h t true then c.answer h w 1 0x09
    else if (c.task t).phase = .loading then c.answer h w 1 0x06
    else (c.unloadTask t).answer h w 0 0

/-- HOST_UNLOAD. -/
def execHostUnload (h : HostPort) (s : State) : Host.Outcome State Fault Refusal := onChip (hostUnload h) s

/-- HOST_STOP: the slot's task stops at the next tick edge (R395). -/
def hostStop (h : HostPort) (c : Chip) : Chip :=
  c.serveToken h 3 fun w c =>
    let t := tokSlot w
    if !c.mayAct h t true then c.answer h w 1 0x09
    else if (c.task t).phase = .loading then c.answer h w 1 0x06
    else (c.stopTask t 0x18).answer h w 0 0

/-- HOST_STOP. -/
def execHostStop (h : HostPort) (s : State) : Host.Outcome State Fault Refusal := onChip (hostStop h) s

/-- HOST_NOP: the token is simply completed (R395). DEDUCED (log 73). -/
def hostNop (h : HostPort) (c : Chip) : Chip := c.serveToken h 6 fun w c => c.answer h w 0 0

/-- HOST_NOP. -/
def execHostNop (h : HostPort) (s : State) : Host.Outcome State Fault Refusal := onChip (hostNop h) s

/-! ### SAVE and RESTORE (R233) -/

/-- The registers that are a task's own. -/
def Chip.taskRegs (c : Chip) (t : Nat) : List Nat :=
  [Reg.taskPerf t, Reg.taskStart t, Reg.regTaskIndex t, Reg.regTaskPlan t, Reg.regTaskPlanLen t, Reg.fltAlist] ++
  (match (c.task t).img with
   | some im => if im.training then [Reg.stepGtab, Reg.stepGtabLen, Reg.stepExpect, Reg.stepCount] ++ (List.range 16).map Reg.stepOut else []
   | none => []) ++
  ((List.range 16).flatMap fun n => [Reg.arena n t, Reg.arenaIdx n t]) ++
  ((c.taskWings t).flatMap fun n => [Reg.schedBase n, Reg.schedLen n, Reg.schedPos n, Reg.tickNow n]) ++
  ((c.task t).gals.flatMap fun p =>
    [Reg.phaseBudget p.1 p.2, Reg.gain p.1 p.2, Reg.readout p.1 p.2, Reg.galMode p.1 p.2, Reg.streamCfg p.1 p.2,
     Reg.consSrc p.1 p.2 0, Reg.consSrc p.1 p.2 1])

/-- The entries of a task. -/
def Chip.taskTiles (c : Chip) (t : Nat) : List (Nat × CatEntry) :=
  c.cat.filter fun p => decide ((c.task t).base ≤ p.1 ∧ p.1 < (c.task t).base + (c.task t).count)

/-- A store tile (R219). -/
def CatEntry.isStore (e : CatEntry) : Bool := decide (e.state ≠ 0 ∧ (e.lkind = 2 ∨ e.lkind = 3))

/-- The context of a task (R233). -/
def Chip.contextOf (c : Chip) (t : Nat) : Context :=
  let tiles := c.taskTiles t
  { task := c.task t, cat := tiles, regs := (c.taskRegs t).map fun a => (a, c.rd a),
    gals := ((c.task t).gals.map fun p => (galKey p.1 p.2, c.gal p.1 (c.served p.1 p.2))),
    full := (tiles.filter fun p => p.2.isStore).flatMap fun p =>
      ((List.range 8192).map fun k => p.2.loc + 8 * k).filter fun a => c.isFull (c.home a),
    pairs := c.pairs.filter fun p => decide (p.2.task = some t),
    waits := (c.waits ++ c.resends).filter fun w => decide (w.task = some t) }

/-- Where a token's BLOCK lies on a port's bus (R395, R399). -/
def Chip.blockKey (c : Chip) (h : HostPort) (w : Word) : Nat :=
  hostKey (portIx h) (c.fld (Reg.hostWin (portIx h)) 63 12 * 4096 + tokBlock w * 4096)

/-- HOST_SAVE: the task's context is written to host memory (R233). -/
def hostSave (h : HostPort) (c : Chip) : Chip :=
  c.serveToken h 4 fun w c =>
    let t := tokSlot w
    if !c.mayAct h t false then c.answer h w 1 0x09
    else if (c.task t).phase = .loading then c.answer h w 1 0x06
    else { c with contexts := NMap.put c.contexts (c.blockKey h w) (c.contextOf t) }.answer h w 0 0

/-- HOST_SAVE. -/
def execHostSave (h : HostPort) (s : State) : Host.Outcome State Fault Refusal := onChip (hostSave h) s

/-- A class's blocks of a saved context have room in the slot's quota (R234). -/
def Chip.restoreRoom (c : Chip) (t : Nat) (x : Context) : Bool :=
  (List.range 8).all fun q =>
    let k := ((x.cat.filter fun p => decide (p.2.state ≠ 0 ∧ p.2.qclass = q)).map fun p => p.2.blocks).foldl (· + ·) 0
    decide (k = 0 ∨ c.quotaUse t q + k ≤ c.quotaOf t q)

/-- A saved context can be put back: it passes the checks of its image (R1, R3, R32, R353, R395), its indices, galleries, blocks and arrays
are free, and its quota has room (R189, R234, R260, R471). -/
def Chip.restoreReason (c : Chip) (t : Nat) (x : Context) : Nat :=
  match x.task.img with
  | none => 0x05
  | some im =>
    if c.loadReason t im ≠ 0 then c.loadReason t im
    else if (c.logicalIn im).isSome && c.restoreRoom t x && c.indicesFree t x.task.base x.task.count && (x.task.gals.all fun p => c.galFree p.1 p.2 && c.galUnfenced p.1 p.2) &&
        (x.task.binds.all fun q => if q.1 = q.2 then c.arrayUp q.2 else c.arrayFree q.2) &&
        (x.cat.all fun p => decide (p.2.state = 0 ∨ (p.2.lkind ≠ 3 ∧ p.2.lkind ≠ 4)) ||
          (List.range p.2.blocks).all fun k => c.blockFree (p.2.loc + 0x10000 * k)) then 0
    else 0x05

/-- A saved context put back in a slot: its translations, task state, entries, registers, docents, tags and pairs as they were, and then every
waiting access sent again, its fill-overrun period from now (R233). -/
def Chip.restoreContext (c : Chip) (h : HostPort) (t : Nat) (x : Context) : Chip :=
  let c := match x.task.img with
    | some im => match c.logicalIn im with
      | some l => c.loadXlate im l
      | none => c
    | none => c
  let c := c.setTask t { x.task with owner := some h }
  let c := x.cat.foldl (fun d p => d.rawCat p.1 { p.2 with task := t }) c
  let c := x.cat.foldl (fun d p => if p.2.state = 0 then d else d.addUse t p.2.qclass p.2.blocks) c
  let c := x.regs.foldl (fun d p => d.wr p.1 p.2) c
  let c := x.gals.foldl (fun d p =>
    let n := p.1 / 512
    let g := p.1 % 512
    let y := d.gal n g
    d.setGal n g (y.takeOver p.2 { y.planeA with holds := p.2.planeA.holds, srcTile := p.2.planeA.srcTile, watched := false }
      { y.planeB with holds := p.2.planeB.holds, srcTile := p.2.planeB.srcTile, watched := false } 0 0)) c
  let c := (x.cat.filter fun p => p.2.isStore).foldl (fun d p => d.setTags (d.home p.2.loc) 0x10000 false) c
  let c := x.full.foldl (fun d a => d.setFull (d.home a) true) c
  let c := x.pairs.foldl (fun d p =>
    ({ d with pairs := NMap.set (fun _ => Pair.reset) d.pairs p.1 { p.2 with task := some t } }.syncPair p.1).1) c
  x.waits.foldl (fun d w => d.access { w with since := d.tick.edges, task := some t }) c

/-- HOST_RESTORE: a saved context is put back (R233). A slot of another port is refused with 0x09, an owned one with 0x06.
DEDUCED (log 36): a slot with no owner takes the restored task for the port. An address at which no context was saved is a
host's error, whose results R400 calls unpredictable. -/
def execHostRestore (h : HostPort) (s : State) : Host.Outcome State Fault Refusal :=
  match s.chip.nextToken h with
  | none => .next s
  | some w =>
    let serve := onChip (fun c => c.serveToken h 5 fun w c =>
      let t := tokSlot w
      match (c.task t).owner with
      | some o => c.answer h w 1 (if o = h then 0x06 else 0x09)
      | none =>
        match NMap.find c.contexts (c.blockKey h w) with
        | none => c.answer h w 1 0x05
        | some x =>
          let r := c.restoreReason t x
          if r ≠ 0 then c.answer h w 1 r else (c.restoreContext h t x).answer h w 0 0) s
    if tokOp w = 5 ∧ tokBad w = false ∧ (s.chip.task (tokSlot w)).owner = none ∧
        (NMap.find s.chip.contexts (s.chip.blockKey h w)).isNone then .fault (.hostUnpredictable (tokBlock w * 4096))
    else serve

/-! ### Completion rings (R397) -/

/-- A port's completion ring is on and has room (R397, R406). -/
def Chip.ringRoom (c : Chip) (h : Nat) : Bool :=
  let l := c.fld (Reg.hostCqLen h) 3 0
  (c.host h).link && decide (4 ≤ l ∧ l ≤ 12) &&
    decide (serialDist 32 (c.rdN (Reg.hostCqTail h)) (c.rdN (Reg.hostCqHead h)) < 2 ^ l)

/-- An entry written at CQ_TAIL with its PHASE: 1 on the first pass, inverted on each wrap (R397). -/
def Chip.ringPut (c : Chip) (h : Nat) (tok : Word) : Chip :=
  let l := c.fld (Reg.hostCqLen h) 3 0
  let tail := c.rdN (Reg.hostCqTail h)
  let v := setBits tok.toNat 24 24 (1 - tail / 2 ^ l % 2)
  let c := c.hostWrite h (c.fld (Reg.hostCqBase h) 63 6 * 64 + 8 * (tail % 2 ^ l)) (leBytes 8 v)
  c.wr (Reg.hostCqTail h) (w64 ((tail + 1) % 2 ^ 32))

/-- COMPLETION_WRITE: the port takes its next token and writes it to the ring: a stop event that its reset kept first, then its
completion queue's oldest (R397, R404). -/
def completionWrite (h : HostPort) (c : Chip) : Chip :=
  let i := portIx h
  if !c.ringRoom i then c
  else match (c.host i).events with
    | e :: es => (c.modHost i fun s => { s with events := es }).ringPut i e
    | [] => match c.queue (50 + i) with
      | [] => c
      | tok :: _ => (c.dropHead (50 + i)).ringPut i tok

/-- COMPLETION_WRITE. -/
def execCompletionWrite (h : HostPort) (s : State) : Host.Outcome State Fault Refusal := onChip (completionWrite h) s

/-! ### The primary role (R393) -/

/-- The primary role given to a port: PRIMARY and both IS_PRIMARY bits (R393, R405). -/
def Chip.setPrimary (c : Chip) (h : HostPort) : Chip :=
  let b := decide (h = .B)
  ((c.setFlag Reg.hostCfg 0 b).setFlag (Reg.hostStatus 0) 9 (!b)).setFlag (Reg.hostStatus 1) 9 b

/-- FAILOVER: the primary port's link has been down for FAILOVER ms, and the role passes to the other port (R393). -/
def failover (c : Chip) : Chip :=
  if c.up && decide (c.fld Reg.hostCfg 31 16 ≠ 0) && !(c.host (portIx c.primary)).link then
    (c.setPrimary (otherPort c.primary)).raise Reg.hostCfg 32 Reg.hostCfgCtr
  else c

/-- FAILOVER. -/
def execFailover (s : State) : Host.Outcome State Fault Refusal := onChip failover s

/-! ### Reset and link loss (R404) -/

/-- An address lies in host window h. -/
def inWindow (h a : Nat) : Bool := decide (hostWinBase h ≤ a ∧ a < hostWinBase h + 0x40000000000)

/-- A task's plan or DMA uses a port's window (R404): a plan address or a tile that lies in it, or a transfer held or running. -/
def Chip.usesWindow (c : Chip) (t h : Nat) : Bool :=
  ((List.range (c.fld (Reg.regTaskPlanLen t) 15 0)).any fun k => inWindow h (wbits (c.planWord t k 1) 43 0)) ||
  ((c.taskTiles t).any fun p => decide (p.2.lkind = 5) && inWindow h p.2.loc) ||
  c.wings.any fun p =>
    let uses := fun (g : CmdTag) (ws : List Word) =>
      decide (g.task = some t) && (inWindow h (dSrc ws % 2 ^ 44) || inWindow h (dDst ws % 2 ^ 44))
    (p.2.dma.any fun q => uses q.2.cmd.tag q.2.cmd.words) || (p.2.held.any fun q => decide (q.unit = .dma) && uses q.tag q.words)

/-- A reset or link loss of one port (R404). `down` tells that its link is down after it. -/
def Chip.resetPort (c : Chip) (h : HostPort) (down : Bool) : Chip :=
  let i := portIx h
  let c := { c with putWait := c.putWait.filter fun p => decide (p.1 ≠ 48 + i ∧ p.1 ≠ 50 + i) }
  let c := (c.setQueue (48 + i) []).setQueue (50 + i) []
  let c := [Reg.hostCqBase, Reg.hostCqLen, Reg.hostCqHead, Reg.hostCqTail, Reg.hostMsixArm, Reg.hostMbox].foldl (fun d r => d.wr (r i) 0) c
  let c := c.modHost i fun s => { s with link := s.link && !down, table := [], mask := 0, pba := 0, h2p := [], p2h := [], replies := [] }
  let c := if down then (c.setFld (Reg.hostStatus i) 8 0 0) else c
  let c := c.raise (Reg.hostStatus i) 19 (if i = 0 then Reg.hostCtr0 3 else Reg.hostCtr1 3)
  let c := (c.tasks.map Prod.fst).foldl (fun d t =>
    let s := d.task t
    if s.phase = .loading ∧ s.owner = some h then d.setTask t TaskSt.reset
    else if s.owner = some h ∨ d.usesWindow t i = true then d.stopTask t 0x17
    else d) c
  c

/-- A port of a part in recovery mode loses its link: a staging session that it owns ends (R430). -/
def Chip.endSession (c : Chip) (h : HostPort) : Chip :=
  if c.boot.stageOwner = some (.host h) then
    { c with boot := { c.boot with stageOwner := none, stageOpen := false, erasing := none } }
  else c

/-- A reset or link loss of a port in the mode that the part is in. -/
def Chip.portDown (c : Chip) (h : HostPort) (down : Bool) : Chip :=
  match c.boot.phase with
  | .up => c.resetPort h down
  | .recovery => if down then (c.resetPort h down).endSession h else c.resetPort h down
  | _ => c

/-- PORT_RESET: Function Level Reset, hot reset or PERST_N (R404). The link stays up over a Function Level Reset.
DEDUCED (log 74). -/
def portReset (h : HostPort) (k : ResetKind) (c : Chip) : Chip := c.portDown h (decide (k ≠ .flr))

/-- PORT_RESET. -/
def execPortReset (h : HostPort) (k : ResetKind) (s : State) : Host.Outcome State Fault Refusal := onChip (portReset h k) s

/-- LINK_LOSS: the port's link has been down for more than 1 ms (R404). -/
def linkLoss (h : HostPort) (c : Chip) : Chip := c.portDown h true

/-- LINK_LOSS. -/
def execLinkLoss (h : HostPort) (s : State) : Host.Outcome State Fault Refusal := onChip (linkLoss h) s

/-! ### The PCI Express link -/

/-- PCIE_LINK_UP: the link has trained at a rate and width (R390, R405). -/
def pcieLinkUp (h : HostPort) (speed width : Nat) (flit : Bool) (c : Chip) : Chip :=
  if 1 ≤ speed ∧ speed ≤ 6 ∧ (width = 1 ∨ width = 2 ∨ width = 4 ∨ width = 8) ∧ (c.boot.phase = .up ∨ c.boot.phase = .recovery) then
    let i := portIx h
    let c := c.setFld (Reg.hostStatus i) 8 0 (1 + speed * 2 + width * 2 ^ 4 + b2n flit * 2 ^ 8)
    let c := c.modHost i fun s => { s with link := true }
    if speed < 6 ∨ width < 8 then c.raise (Reg.hostStatus i) 16 (if i = 0 then Reg.hostCtr0 0 else Reg.hostCtr1 0) else c
  else c

/-- PCIE_LINK_UP. -/
def execPcieLinkUp (h : HostPort) (speed : Fin 7) (width : Nat) (flit : Bool) (s : State) : Host.Outcome State Fault Refusal :=
  onChip (pcieLinkUp h speed.val width flit) s

/-- PCIE_COMPLETION_ERROR: a request of the part fails, a tier 0 event. A read's data are delivered with the poison mark, and the task that
consumes them stops (R367, R400). What the data are is free (log 124). -/
def pcieCompletionError (h : HostPort) (t : Option Nat) (dst len : Nat) (c : Chip) : Chip :=
  if c.up then
    let i := portIx h
    let c := c.raise (Reg.hostStatus i) 17 (if i = 0 then Reg.hostCtr0 1 else Reg.hostCtr1 1)
    let c := if len = 0 then c
      else c.draw.store dst ((List.range len).map (Config.failedByte c.free)) (List.replicate (wordsIn dst len) 2) t
    match t with
    | some k => c.stopTask k 0x12
    | none => c
  else c

/-- PCIE_COMPLETION_ERROR. -/
def execPcieCompletionError (h : HostPort) (t : Option Slot) (s : State) (dst : Nat := 0) (len : Nat := 0) : Host.Outcome State Fault Refusal :=
  onChip (pcieCompletionError h (t.map Fin.val) dst len) s

/-! ### The memory aperture (R401) -/

/-- Local address of an offset in a port's aperture (R401). -/
def Chip.apertureAddr (c : Chip) (h off : Nat) : Nat := c.fld (Reg.hostAperture h) 43 36 * 2 ^ 36 + off

/-- A host access at a local address has results that the spec gives: populated memory or a store, in no tile whose task is
running (R401). -/
def Chip.apertureOk (c : Chip) (a : Nat) : Bool :=
  (match c.region a with
   | .localMem _ | .wingStore _ | .galStore _ _ => true
   | _ => false) &&
  match c.taskAt a with
  | some t => !c.running t
  | none => true

/-- Every line of a range is one that a host may reach. -/
def Chip.apertureRange (c : Chip) (a n : Nat) : Bool := (linesOf a n).all fun p => c.apertureOk p.1

/-- APERTURE_ACCESS: a read or write through BAR4, which neither tests nor changes tags (R401). An access past the BAR, of no
bytes, or of a port that is down is none. DESIGN CHOICE (log 99). -/
def execApertureAccess (h : HostPort) (off len : Nat) (wdata : Option (List Byte)) (s : State) : Host.Outcome State Fault Refusal :=
  let c := s.chip
  let a := c.apertureAddr (portIx h) off
  let n := match wdata with | some d => d.length | none => len
  if !c.up || !(c.host (portIx h)).link || decide (n = 0 ∨ 2 ^ 36 < off + n ∨ n ≠ len) then .next s
  else if !c.apertureRange a n then .fault (.hostUnpredictable a)
  else match wdata with
    | some d => onChip (fun c => c.store a d [] none) s
    | none => onChip (fun c => let (c, bs) := c.useRange .hub a n none; { c with busBytes := bs }) s

end Sys2Proof.Machine
end

