-- ==== Sys2Proof/Machine/Sponge.lean ====
section
/-! DEFINITION. SHAKE256 of FIPS 202, the digest of the boot record, the manifests, the profiles and the identities (R415 to R453). -/

namespace Sys2Proof.Machine

/-- The rotation of each lane of Keccak-f[1600], lane x + 5 y. -/
def keccakRot : List Nat :=
  [0, 1, 62, 28, 27, 36, 44, 6, 55, 20, 3, 10, 43, 25, 39, 41, 45, 15, 21, 8, 18, 2, 61, 56, 14]

/-- The round constants of Keccak-f[1600]. -/
def keccakRc : List Word :=
  [0x0000000000000001, 0x0000000000008082, 0x800000000000808A, 0x8000000080008000, 0x000000000000808B, 0x0000000080000001,
   0x8000000080008081, 0x8000000000008009, 0x000000000000008A, 0x0000000000000088, 0x0000000080008009, 0x000000008000000A,
   0x000000008000808B, 0x800000000000008B, 0x8000000000008089, 0x8000000000008003, 0x8000000000008002, 0x8000000000000080,
   0x000000000000800A, 0x800000008000000A, 0x8000000080008081, 0x8000000000008080, 0x0000000080000001, 0x8000000080008008]

/-- One round of Keccak-f[1600] on 25 lanes. -/
def keccakRound (a : List Word) (rc : Word) : List Word :=
  let at_ := fun (l : List Word) (i : Nat) => nth 0 l i
  let par := (List.range 5).map fun x => at_ a x ^^^ at_ a (x + 5) ^^^ at_ a (x + 10) ^^^ at_ a (x + 15) ^^^ at_ a (x + 20)
  let theta := (List.range 25).map fun i => at_ a i ^^^ at_ par ((i + 4) % 5) ^^^ (at_ par ((i + 1) % 5)).rotateLeft 1
  let b := (List.range 25).map fun i =>
    let src := (i % 5 + 3 * (i / 5)) % 5 + 5 * (i % 5)
    (at_ theta src).rotateLeft (nth 0 keccakRot src)
  let chi := (List.range 25).map fun i =>
    let y := i / 5 * 5
    at_ b i ^^^ (~~~(at_ b (y + (i + 1) % 5)) &&& at_ b (y + (i + 2) % 5))
  match chi with
  | l :: ls => (l ^^^ rc) :: ls
  | [] => []

/-- Keccak-f[1600]. -/
def keccakF (a : List Word) : List Word := keccakRc.foldl keccakRound a

/-- A block of 136 bytes taken into the state. -/
def spongeIn (a : List Word) (block : List Byte) : List Word :=
  keccakF ((List.range 25).map fun i =>
    if i < 17 then nth 0 a i ^^^ BitVec.ofNat 64 (ofLeBytes ((block.drop (8 * i)).take 8)) else nth 0 a i)

/-- Blocks absorbed, the last one padded. -/
def spongeAbsorb : Nat → List Word → List Byte → List Word
  | 0, a, _ => a
  | fuel + 1, a, bs =>
    if bs.length < 136 then
      let k := bs.length
      let last := if k = 135 then bs ++ [0x9F] else bs ++ [0x1F] ++ List.replicate (134 - k) 0 ++ [0x80]
      spongeIn a last
    else spongeAbsorb fuel (spongeIn a (bs.take 136)) (bs.drop 136)

/-- SHAKE256: n bytes of output, at most the 136 that one squeeze gives. -/
def shake256 (n : Nat) (bs : List Byte) : List Byte :=
  ((spongeAbsorb (bs.length / 136 + 1) (List.replicate 25 0) bs).flatMap fun w => leBytes 8 w.toNat).take (min n 136)

end Sys2Proof.Machine
end

