-- ==== Sys2Proof/Machine/Boot.lean ====
section
/-! DEFINITION. Start-up, firmware update and identity: configuration flash (R412 to R417), retained state (R418 to R420), images and
boot records (R421 to R427), accession (R409 to R414), recovery (R428 to R430), identity and attestation (R431 to R434), the
mailbox and the management UART (R403, R429, R433). -/

namespace Sys2Proof.Machine

/-! ### Flash -/

/-- A byte of the configuration flash; an erased byte reads 0xFF (R412). -/
def Boot.flashByte (b : Boot) (a : Nat) : Byte := NMap.get (fun _ => 0xFF) b.flash a

/-- n bytes of the flash. -/
def Boot.flashBytes (b : Boot) (a n : Nat) : List Byte := (List.range n).map fun k => b.flashByte (a + k)

/-- A little-endian number of n bytes in the flash. -/
def Boot.flashNum (b : Boot) (a n : Nat) : Nat := ofLeBytes (b.flashBytes a n)

/-- n bytes of the flash erased. -/
def Boot.erase (b : Boot) (a n : Nat) : Boot := { b with flash := b.flash.filter fun p => !decide (a ≤ p.1 ∧ p.1 < a + n) }

/-- Bytes written to the flash. -/
def Boot.program (b : Boot) (a : Nat) : List Byte → Boot
  | [] => b
  | x :: xs => Boot.program { b with flash := NMap.set (fun _ => 0xFF) b.flash a x } (a + 1) xs

/-- Offset of a bank (R413). -/
def bankBase (k : Nat) : Nat := if k = 0 then 0xA00000 else 0x2500000
/-- Bytes of a bank. -/
def bankBytes : Nat := 0x1B00000
/-- Offset of a configuration profile. -/
def profileBase (k : Nat) : Nat := 0x60000 + k * 0x10000

/-! ### Boot record (R423) -/

/-- The contents of a boot record (R423). -/
structure BootRec where
  seq     : Nat
  active  : Nat
  pending : Bool
  pbank   : Nat
  tries   : Nat
  deriving DecidableEq, Repr

/-- A copy of the boot record, if it is valid. -/
def Boot.recCopy (b : Boot) (k : Nat) : Option BootRec :=
  let a := k * 0x10000
  if b.flashBytes (a + 32) 32 = shake256 32 (b.flashBytes a 32) ∧ b.flashNum (a + 6) 1 = 1 then
    let f := b.flashNum (a + 7) 1
    some { seq := b.flashNum a 6, active := bits f 0 0, pending := bit f 1, pbank := bits f 2 2, tries := bits f 4 3 }
  else none

/-- The valid copy with the greater SEQ, and which copy it is. -/
def Boot.record (b : Boot) : Option (Nat × BootRec) :=
  match b.recCopy 0, b.recCopy 1 with
  | none, none => none
  | some r, none => some (0, r)
  | none, some r => some (1, r)
  | some r, some q => if r.seq < q.seq then some (1, q) else some (0, r)

/-- A record written to the copy that does not hold the record in force, with SEQ one higher. -/
def Boot.putRecord (b : Boot) (r : BootRec) : Boot :=
  let (k, seq) := match b.record with
    | some (i, q) => (1 - i, q.seq + 1)
    | none => (0, 1)
  let head := leBytes 6 seq ++ leBytes 1 1 ++ leBytes 1 (r.active + b2n r.pending * 2 + r.pbank * 4 + r.tries * 8) ++ List.replicate 24 0
  (b.erase (k * 0x10000) 0x10000).program (k * 0x10000) (head ++ shake256 32 head)

/-- The bank that the record does not name as ACTIVE; bank 0 with no record (R425, R430). -/
def Boot.inactive (b : Boot) : Nat := match b.record with | some (_, r) => 1 - r.active | none => 0

/-- A part's start-up state changed. -/
def Chip.modBoot (c : Chip) (f : Boot → Boot) : Chip := { c with boot := f c.boot }

/-- PENDING of chip.boot.status shows the record's (R435). -/
def Chip.showPending (c : Chip) : Chip :=
  c.setFlag Reg.bootStatus 9 (match c.boot.record with | some (_, r) => r.pending | none => false)

/-- A boot record written. -/
def Chip.writeRecord' (c : Chip) (r : BootRec) : Chip := (c.modBoot fun b => b.putRecord r).showPending

/-! ### Images (R421, R422, R424) -/

/-- A component of an image (R422). -/
structure Component where
  kind   : Nat
  offset : Nat
  length : Nat
  digest : List Byte
  deriving DecidableEq, Repr

/-- The components that a bank's manifest names. -/
def Boot.components (b : Boot) (k : Nat) : List Component :=
  (List.range (b.flashNum (bankBase k + 1) 1)).map fun i =>
    let a := bankBase k + 1984 + 64 * i
    { kind := b.flashNum a 2, offset := b.flashNum (a + 4) 4, length := b.flashNum (a + 8) 4, digest := b.flashBytes (a + 32) 32 }

/-- Bytes of a bank's manifest before its signature. -/
def Boot.signedBytes (b : Boot) (k : Nat) : Nat := 1984 + 64 * b.flashNum (bankBase k + 1) 1

/-- The whole manifest of a bank. -/
def Boot.manifest (b : Boot) (k : Nat) : List Byte := b.flashBytes (bankBase k) (b.signedBytes k + 3309)

/-- SVN of a bank's manifest. -/
def Boot.svn (b : Boot) (k : Nat) : Nat := b.flashNum (bankBase k + 4) 4

/-- Two components share a byte. -/
def Component.overlaps (x y : Component) : Bool := decide (x.offset < y.offset + y.length ∧ y.offset < x.offset + x.length)

/-- Components that R424 accepts: the seven kinds once each, no reserved kind, each within the bank, no two overlapping. -/
def componentsOk (l : List Component) : Bool :=
  ((List.range 7).all fun k => decide ((l.filter fun x => decide (x.kind = k + 1)).length = 1)) &&
    (l.all fun x => decide ((1 ≤ x.kind ∧ x.kind ≤ 7) ∨ (0x100 ≤ x.kind ∧ x.kind ≤ 0x1FF)) &&
      decide (x.offset % 4096 = 0 ∧ 8192 ≤ x.offset ∧ 1 ≤ x.length ∧ x.offset + x.length ≤ bankBytes)) &&
    decide (l.Pairwise fun x y => x.overlaps y = false)

/-- The copies of the retained state in the order in which a record is looked for: the always-on domain, then the flash copy with the
greater SEQ, then the other (R419). -/
def Boot.copies (b : Boot) : List Retained :=
  b.aon.toList ++ match b.page0, b.page1 with
    | some p, some q => if p.seq < q.seq then [q.body, p.body] else [p.body, q.body]
    | p, q => (p.toList ++ q.toList).map RetPage.body

/-- The copy that a retained record is taken from, if it passes in any (R419). -/
def Boot.copyOf (b : Boot) (x : RetRec) : Option Retained := b.copies.find? fun r => !r.bad.contains x

/-- The SVN floor that the boot ROM restores (R424). -/
def Boot.floor (b : Boot) : Nat :=
  match b.copyOf (.reg Reg.bootFloor) with
  | some r => (NMap.get regReset r.regs Reg.bootFloor).toNat % 2 ^ 32
  | none => 0

/-- A bank passes its check (R424). DEDUCED (log 126): a manifest whose VER is not 1, or whose NCOMP is 0 or above 32, fails. -/
def Boot.bankOk (b : Boot) (k : Nat) : Bool :=
  let n := b.flashNum (bankBase k + 1) 1
  let key := b.flashBytes (bankBase k + 32) 1952
  let comps := b.components k
  decide (b.flashNum (bankBase k) 1 = 1 ∧ 1 ≤ n ∧ n ≤ 32) &&
    decide (shake256 32 key = Config.romKeyDigest 0 ∨ shake256 32 key = Config.romKeyDigest 1) &&
    Config.mldsaVerify key (b.flashBytes (bankBase k) (b.signedBytes k)) (b.flashBytes (bankBase k + b.signedBytes k) 3309) &&
    bit (b.flashNum (bankBase k + 2) 2) b.factory.grade.val &&
    decide (b.floor ≤ b.svn k) && componentsOk comps &&
    comps.all fun x => decide (shake256 32 (b.flashBytes (bankBase k + x.offset) x.length) = x.digest)

/-- The boot ROM's choice (R426): the record written back where it changes, the order, and the first bank of it that passes. -/
def Boot.choose (b : Boot) : Boot × Nat × Option Nat :=
  let (b, order) := match b.record with
    | none => (b, [0, 1])
    | some (_, r) =>
      if r.pending ∧ 0 < r.tries then (b.putRecord { r with tries := r.tries - 1 }, [r.pbank, r.active])
      else if r.pending then (b.putRecord { r with pending := false }, [r.active, 1 - r.active])
      else (b, [r.active, 1 - r.active])
  (b, nth 0 order 0, order.find? b.bankOk)

/-! ### Retained state (R418 to R420) -/

/-- Something of every gallery, where it is not empty. -/
def Chip.keptOf {α : Type} (c : Chip) (f : Gal → NMap α) : NMap (NMap α) :=
  c.gals.filterMap fun (p : Nat × Gal) => if (f p.2).isEmpty then none else some (p.1, f p.2)

/-- What the part keeps (R6, R418): the kept fields of its registers, its fences, and the trims and coefficients. DEDUCED (log 93). -/
def Chip.retained (c : Chip) : Retained :=
  { regs := c.regs.filterMap fun (p : Nat × Word) =>
      match regDefAt p.1 with
      | some d => if d.kept = 0 then none else some (p.1, p.2 &&& w64 d.kept)
      | none => none
    fences := c.cat.filter fun p => p.2.fenced
    coefs := c.keptOf Gal.coef
    ratios := c.keptOf Gal.rdiff
    conv := c.boot.conv
    trims := c.keptOf fun x => x.vits.filterMap fun (q : Nat × VitSt) => if q.2.trims.isEmpty then none else some (q.1, q.2.trims)
    bad := [] }

/-- The records of each copy whose CHECK fails (R419). -/
def Boot.spoil (b : Boot) (u : BringUp) : Boot :=
  let mark := fun (l : List RetRec) (r : Retained) => { r with bad := r.bad ++ l }
  { b with
    aon := b.aon.map (mark u.badAon)
    page0 := b.page0.map fun p => { p with body := mark u.badPage0 p.body }
    page1 := b.page1.map fun p => { p with body := mark u.badPage1 p.body } }

/-- Some retained record passes nowhere (R419). -/
def Boot.lost (b : Boot) : Bool :=
  b.copies.isEmpty || (b.copies.flatMap Retained.bad).any fun x => (b.copyOf x).isNone

/-- The kept fields of one register put back, from the copy that its record is taken from; one whose record passes nowhere stands. -/
def Chip.keepReg (c : Chip) (a : Nat) : Chip :=
  match regDefAt a, c.boot.copyOf (.reg a) with
  | some d, some r =>
    if d.kept = 0 then c
    else c.wr a ((c.rd a &&& ~~~(w64 d.kept)) ||| (NMap.get regReset r.regs a &&& w64 d.kept))
  | _, _ => c

/-- The registers that step 7 may change: those a copy lists, and those that configuration has set. -/
def Chip.keptRegs (c : Chip) : List Nat :=
  (c.boot.copies.flatMap fun r => r.regs.map Prod.fst).eraseDups ++ c.regs.map Prod.fst

/-- Step 7: retained values take the place of the reset and configured ones, and the fences are put back (R6, R249, R419). -/
def Chip.restoreKept (c : Chip) : Chip :=
  let c := c.keptRegs.foldl (fun d a => d.keepReg a) c
  match c.boot.copyOf .fences with
  | some r => r.fences.foldl (fun d p => d.rawCat p.1 { p.2 with gen := 0 }) c
  | none => c

/-- A flash save starts with the values of this moment, or follows the one in progress (R420, R445). -/
def Chip.startSave (c : Chip) : Chip :=
  if c.boot.saving.isSome then c.modBoot fun b => { b with saveAgain := true }
  else (c.modBoot fun b => { b with saving := some c.retained }).setFlag Reg.bootRet 17 true

/-- DOWN_READY: the notice was given, every task that it stops has stopped, and the copy is written (R445). -/
def Chip.downReady (c : Chip) : Chip :=
  if c.boot.downWait && c.boot.saving.isNone && !(c.tasks.any fun p => p.2.stopReq.isSome) then
    (c.modBoot fun b => { b with downWait := false }).setFlag Reg.pwrCtrl 1 true
  else c

/-- RSAVE_TIMER: Pendun starts a flash save, at RSAVE minutes or within 2 s of a change of fences, VEC_HARD or the floor (R420).
DEDUCED (log 91). -/
def rsaveTimer (c : Chip) : Chip := if c.up then c.startSave else c

/-- RSAVE_TIMER. -/
def execRsaveTimer (s : State) : Host.Outcome State Fault Refusal := onChip rsaveTimer s

/-- The copy in progress written over the older page, with SEQ one higher (R418, R420). -/
def Boot.putPage (b : Boot) (r : Retained) : Boot :=
  match b.page0, b.page1 with
  | none, none => { b with page0 := some { seq := 1, body := r } }
  | some p, none => { b with page1 := some { seq := p.seq + 1, body := r } }
  | none, some q => { b with page0 := some { seq := q.seq + 1, body := r } }
  | some p, some q =>
    if p.seq < q.seq then { b with page0 := some { seq := q.seq + 1, body := r } }
    else { b with page1 := some { seq := p.seq + 1, body := r } }

/-- RETAINED_SAVE_DONE: a flash save ends; a second copy follows if one was asked for, and a power-down notice may now be ready
(R420, R445). -/
def retainedSaveDone (c : Chip) : Chip :=
  match c.boot.saving with
  | none => c
  | some r =>
    let again := c.boot.saveAgain
    let c := (c.modBoot fun b => { b.putPage r with saving := none, saveAgain := false }).setFlag Reg.bootRet 17 false
    if again then c.startSave else c.downReady

/-- RETAINED_SAVE_DONE. -/
def execRetainedSaveDone (s : State) : Host.Outcome State Fault Refusal := onChip retainedSaveDone s

/-! ### Reset -/

/-- RESET_N low, or an internal reset: everything returns to reset but the straps latched, the flash, what the always-on domain keeps
(R418, R420), host memory, and the stacks' contents, which stand in self-refresh (R439). DESIGN CHOICE (log 39): the stores read as
after power-on. -/
def Chip.hardReset (c : Chip) (phase : BootPhase) : Chip :=
  let b := c.boot
  { Chip.reset with
    regs := NMap.set regReset [] Reg.bootStrap (c.rd Reg.bootStrap)
    mem := c.mem.filter fun p => decide (p.1 < 0x10000000000)
    recErr := c.recErr, hostMem := c.hostMem, contexts := c.contexts, lineOut := c.lineOut, free := c.free
    boot := { Boot.reset with
      phase := phase, factory := b.factory, flash := b.flash, page0 := b.page0, page1 := b.page1, uartOut := b.uartOut
      aon := if b.phase = .up then some c.retained else b.aon } }

/-- An internal reset: accession starts again at step 2, with the straps held (R409, R426). -/
def Chip.internalReset (c : Chip) : Chip := (c.hardReset .starting).setFld Reg.bootStatus 3 0 2

/-! ### Configuration (R415 to R417, R294) -/

/-- Bits of a register set from a value by a mask. -/
def Chip.wrMask (c : Chip) (a : Nat) (mask v : Word) : Chip := c.wr a ((c.rd a &&& ~~~mask) ||| (v &&& mask))

/-- Every field marked cfg at its shipped or factory value (R416). DEDUCED (log 47). -/
def Chip.shipped (c : Chip) : Chip :=
  let f := c.boot.factory
  let c := ((c.setFld Reg.tickPeriod 7 0 16).setFld Reg.bootRet 31 20 2000)
  (List.range 16).foldl (fun d n =>
    let d := if n % 2 = 0 then
        let d := (d.wrMask (Reg.watchCtrl n) 0x13F 0x120).wrMask (Reg.watchTherm n) 0xFFF0FFF 0xAC009F0
        (List.range 32).foldl (fun e k => e.setFld (Reg.watchSeq n k) 3 0 (if k % 2 = 0 then k / 2 % 8 else 8 + k / 2 % 8)) d
      else d
    let d := (d.setFld (Reg.consCtrl n) 19 16 1).setFld (Reg.consCtrl n) 27 24 1
    let d := (d.setFld (Reg.consInterval n) 15 0 2000).setFld (Reg.consInterval n) 63 32 f.rate85.toNat
    let d := (d.setFld (Reg.consTemp n) 39 32 f.double.toNat).setFld (Reg.memCfg n) 7 0 24
    let d := d.setFld (Reg.wingGuard n) 15 0 64
    let d := (List.range 2).foldl (fun e a => e.setFlag (Reg.mxIdent n a) 8 (f.enabled.getLsbD (2 * n + a))) d
    (List.range 300).foldl (fun e g => e.wrMask (Reg.chkCtrl n g) 0x1FFFF00FFFFFF (w64 (20 + 100 * 2 ^ 8 + 64 * 2 ^ 32 + 2 ^ 48))) d) c

/-- The registers that a profile entry's address word names; none where it lies outside register space or its scope is reserved. -/
def profileRegs (w : Word) : Option (List Nat) :=
  let a := wbits w 43 0
  if wbits w 61 44 ≠ 0 ∨ a < regSpaceBase ∨ regSpaceBase + 0x10000000 ≤ a then none
  else
    let o := a - regSpaceBase
    let here := fun (l : List Nat) => l.filter fun x => (regDefAt x).isSome
    match wbits w 63 62 with
    | 0 => some (here [o])
    | 1 => if wingReg 0 0 ≤ o ∧ o < wingReg 1 0 then some (here ((List.range 16).map fun n => wingReg n (o - wingReg 0 0))) else none
    | 2 =>
      if galReg 0 0 0 ≤ o ∧ o < galReg 0 1 0 then
        some (here ((List.range 16).flatMap fun n => (List.range 300).map fun g => galReg n g (o - galReg 0 0 0)))
      else none
    | _ => none

/-- The ranges that cfg fields state (R417): each with the register, its field and its bounds. -/
def cfgRanges (a : Nat) : List (Nat × Nat × Nat × Nat) :=
  if a = Reg.tickPeriod then [(7, 0, 1, 128)]
  else if a = Reg.censusShape then [(23, 0, 1, 0xFFFFFF)]
  else if a = Reg.ledgerClass then [(28, 16, 1, 4096)]
  else if a = Reg.bootRet then [(31, 20, 100, 4095)]
  else match regAddr a with
    | some ⟨.wing, _, _, o⟩ =>
      if o = 0x500 then [(5, 0, 1, 32)] else if o = 0x1410 then [(18, 0, 0, 262144)] else if o = 0x1940 then [(15, 0, 1, 65535)] else []
    | _ => []

/-- A profile entry may set these bits of this register to this value. -/
def entryOk (a : Nat) (mask v : Word) : Bool :=
  (match regDefAt a with | some d => mask &&& ~~~(w64 d.cfg) = 0 | none => mask = 0) &&
    (cfgRanges a).all fun (hi, lo, least, most) =>
      decide (wbits mask hi lo = 0) || decide (least ≤ wbits v hi lo ∧ wbits v hi lo ≤ most)

/-- Entries of a profile applied in order: the part, or the index of the entry that fails (R415, R417). -/
def Chip.applyEntries (c : Chip) (base : Nat) : Nat → Nat → Except Nat Chip
  | 0, _ => .ok c
  | fuel + 1, k =>
    let a := base + 32 + 24 * k
    let w := w64 (c.boot.flashNum a 8)
    let v := w64 (c.boot.flashNum (a + 8) 8)
    let mask := w64 (c.boot.flashNum (a + 16) 8)
    match profileRegs w with
    | none => .error k
    | some rs =>
      if (rs.isEmpty && mask != 0) || !(rs.all fun r => entryOk r mask v) then .error k
      else Chip.applyEntries (rs.foldl (fun d r => d.wrMask r mask v) c) base fuel (k + 1)

/-- The bits of a register that the entries of a profile set. -/
def Boot.covered (b : Boot) (base count r : Nat) : Word :=
  (List.range count).foldl (fun m k =>
    match profileRegs (w64 (b.flashNum (base + 32 + 24 * k) 8)) with
    | some rs => if rs.contains r then m ||| w64 (b.flashNum (base + 32 + 24 * k + 16) 8) else m
    | none => m) 0

/-- The five fields that every profile must set (R416). -/
def requiredFields : List (Nat × Nat × Nat) :=
  [(Reg.regCtrl, 43, 29), (Reg.censusBase, 43, 6), (Reg.censusShape, 23, 0), (Reg.censusShape, 27, 24), (Reg.censusScale, 43, 7)]

/-- The reserved regions of local memory: base and bytes (R294). -/
def Chip.reservedRegions (c : Chip) : List (Nat × Nat) :=
  let tensors := c.fld Reg.censusShape 23 0
  [(c.fld Reg.regCtrl 43 29 * 0x20000000, 0x20000000),
   (c.fld Reg.censusBase 43 6 * 64, (c.fld Reg.censusShape 27 24 + 1) * tensors * 64),
   (c.fld Reg.censusScale 43 7 * 128, 128 * tensors)] ++
  ((List.range 16).filterMap fun n =>
    let k := c.fld (Reg.memAnnexSize n) 18 0
    if k = 0 then none else some (c.fld (Reg.memAnnex n) 43 16 * 0x10000, k * 0x10000))

/-- R294: each region lies within the populated range of one stack, an annex slice in its own, and no two overlap. -/
def Chip.regionsOk (c : Chip) : Bool :=
  let rs := c.reservedRegions
  (rs.all fun (a, k) => decide (a < 0x10000000000 ∧ a % 0x1000000000 + k ≤ stackBytes)) &&
    ((List.range 16).all fun n => decide (c.fld (Reg.memAnnexSize n) 18 0 = 0 ∨ c.fld (Reg.memAnnex n) 43 16 * 0x10000 / 0x1000000000 = n)) &&
    decide (rs.Pairwise fun x y => x.1 + x.2 ≤ y.1 ∨ y.1 + y.2 ≤ x.1)

/-- Step 6: the profile that the cascade hint names is read, and its entries set the cfg fields; or a configuration error, with the
index that ERR_INFO records (R415 to R417). DEDUCED (log 92). -/
def Chip.configure (c : Chip) : Except (Option Nat) Chip :=
  let k := c.fld Reg.bootStrap 7 4
  let base := profileBase k
  let b := c.boot
  let count := b.flashNum (base + 4) 4
  if b.flashNum base 1 ≠ 1 ∨ b.flashNum (base + 1) 1 ≠ k ∨ count = 0 ∨ 2600 < count then .error none
  else
    let bytes := 32 + 24 * count
    let dig := shake256 32 (b.flashBytes base bytes)
    if b.flashBytes (base + bytes) 32 ≠ dig then .error none
    else match c.shipped.applyEntries base count 0 with
      | .error i => .error (some i)
      | .ok d =>
        if !(requiredFields.all fun (r, hi, lo) => decide (wbits (b.covered base count r) hi lo = 2 ^ (hi - lo + 1) - 1)) then
          .error (some 0xFFFFFFFF)
        else if !d.regionsOk then .error none
        else .ok (d.modBoot fun x => { x with profDigest := dig })

/-! ### Accession (R409, R411, R414, R426, R428, R431) -/

/-- The step in progress (R435). -/
def Chip.atStep (c : Chip) (k : Nat) : Chip := c.setFld Reg.bootStatus 3 0 k

/-- Recovery mode (R428). -/
def Chip.recover (c : Chip) : Chip := (c.modBoot fun b => { b with phase := .recovery, wdog := false }).setFlag Reg.bootStatus 5 true

/-- A digest of 32 bytes put in four registers. -/
def Chip.putDigest (c : Chip) (r : Nat → Nat) (d : List Byte) : Chip :=
  (List.range 4).foldl (fun e k => e.wr (r k) (w64 (ofLeBytes ((d.drop (8 * k)).take 8)))) c

/-- Step 1: a strap bit is 1 only if all 16 samples read 1 (R409); MASTER shows it (R49). -/
def Chip.latchStraps (c : Chip) (samples : List (BitVec 8)) : Chip :=
  c.setFld Reg.bootStrap 7 0 (samples.foldl (· &&& ·) (BitVec.allOnes 8)).toNat

/-- Step 3: the identity key from the seed of the PUF array; IDENT_FAIL with none (R431, R432). -/
def Chip.identify (c : Chip) (puf : Option (List Byte)) : Chip :=
  match puf with
  | none => c.setFlag Reg.bootStatus 7 true
  | some seed =>
    let xi := shake256 32 (seed ++ [0x01])
    (c.modBoot fun b => { b with seed := some xi }).putDigest Reg.bootIdent (shake256 32 (Config.mldsaPublic xi))

/-- A bank is launched: it shows in the identity registers, with FALLBACK where it is not the first of the order, and the accession watchdog
starts (R426, R437). -/
def Chip.launchBank (c : Chip) (first k : Nat) : Chip :=
  let c := c.setFlag Reg.bootStatus 8 (decide (k = 1))
  let c := if k ≠ first then c.raise Reg.bootStatus 17 (Reg.bootCtr 1) else c
  let c := c.wr Reg.bootImage (w64 (c.boot.svn k + c.boot.flashNum (bankBase k + 8) 4 * 2 ^ 32))
  (c.putDigest Reg.bootManifest (shake256 32 (c.boot.manifest k))).modBoot fun b => { b with wdog := true }

/-- Step 4: the record is read and written back, and a bank chosen and launched (R424, R426); or, on the force-recovery strap, or where no bank
passes, none is (R428). -/
def Chip.launch (c : Chip) : Chip × Bool :=
  if c.flag Reg.bootStrap 1 then (c.showPending, false)
  else
    let (b, first, pick) := c.boot.choose
    let c := (c.modBoot fun _ => b).showPending
    match pick with
    | none => (c, false)
    | some k => (c.launchBank first k, true)

/-- Step 7: retained state is restored; RET_FAIL where a record passes nowhere (R419). -/
def Chip.restoreStep (c : Chip) : Chip :=
  let d := c.restoreKept
  if c.boot.lost then d.raise Reg.bootStatus 16 (Reg.bootCtr 0) else d

/-- Step 8: stacks trained from retained results, or in full where these fail their check or the first read pattern fails; annex clears
start (R286, R299, R305). -/
def Chip.trainStep (c : Chip) (retrain : List Wing) : Chip :=
  (List.range 16).foldl (fun d n =>
    let d := if d.flag (Reg.memTrain n) 0 && !(retrain.any fun w => w.val == n) then d.setFlag (Reg.memTrain n) 1 false
      else d.wr (Reg.memTrain n) (w64 (1 + 2 + (Config.trainRecord n).toNat * 2 ^ 8))
    if d.fld (Reg.memAnnexSize n) 18 0 = 0 then d else d.startClear n) c

/-- What a vitrine that cannot be swept keeps (R119, R120): the offsets and ratios of its retained record, or those of reset, with the
gain coefficients that follow from them and from its column's other vitrines, and the trims of the slice. DESIGN CHOICE (log 43). -/
def Chip.keepVit (c : Chip) (n g v k : Nat) : Chip :=
  let key := galKey n g
  let old := ((c.boot.copies.find? fun r => !(r.bad.any fun x => match x with
    | .conv w i => decide (w.val = n ∧ i.val = g)
    | _ => false)).getD { c.retained with coefs := [], ratios := [], conv := 0, trims := [] })
  let was : Chip := { c with boot := { c.boot with conv := old.conv } }
  let m := (NMap.find old.coefs key).getD []
  let q := (NMap.find old.ratios key).getD []
  let cols := (List.range 2).flatMap fun p => (List.range 33).map fun col => (planeOf p, col)
  let c := c.modGal n g fun x => cols.foldl (fun x pc =>
    let o := planeIx pc.1 * 4096 + 264 + 33 * v + pc.2
    let d := rdiffKey pc.1 v pc.2
    { x with
      coef := NMap.put x.coef o (was.coefAt n g m o)
      rdiff := NMap.put x.rdiff d ((NMap.find q d).getD (was.sweptRatio n g d)) }) x
  let c := c.modGal n g fun x => cols.foldl (fun x pc =>
    let i := if pc.2 < 32 then 32 * (v % 8) + pc.2 else 256 + v % 8
    x.putCoef (planeIx pc.1 * 4096 + i) (slopeAt pc.1 i (c.ratioAt n g))) x
  let t := (NMap.find ((NMap.find old.trims key).getD []) v).getD []
  c.modGal n g fun x => x.modVit v fun y => { y with trims := NMap.put y.trims k ((NMap.find t k).getD old.conv) }

/-- Step 9: every vitrine calibrates its slices and is swept, with new trims and coefficients, and the slices whose calibration fails twice
are reported (R119, R120). DESIGN CHOICE (log 43). -/
def Chip.sweepStep (c : Chip) (bad : List (Wing × GalIx × VitIx × Fin 3)) : Chip :=
  let c := (c.modBoot fun b => { b with conv := c.free + 1 }).draw
  bad.foldl (fun d (n, g, v, k) =>
    let t := (d.gal n.val g.val).vit v.val
    let d := d.keepVit n.val g.val v.val k.val
    let d := if t.stale then d else d.modGal n.val g.val fun x => x.modVit v.val fun y => { y with spare := k.val }
    d.calibrationBad n.val g.val v.val k.val) c

/-- Step 11: Pendun accepts the bank, register space opens, every wing rests, and the primary role is in force (R393, R411, R426, R442).
A tick master listens for one period (R38). -/
def Chip.openPart (c : Chip) : Chip :=
  let bank := c.fld Reg.bootStatus 8 8
  let r : BootRec := match c.boot.record with
    | some (_, q) => { q with active := bank, pending := false }
    | none => { seq := 0, active := bank, pending := false, pbank := 0, tries := 0 }
  let c := c.writeRecord' r
  let c := c.setFld Reg.bootFloor 31 0 (max (c.fld Reg.bootFloor 31 0) (c.fld Reg.bootImage 31 0))
  let c := c.setFld Reg.bootFloor 63 32 ((c.fld Reg.bootFloor 63 32 + 1) % 2 ^ 32)
  let c := (List.range 16).foldl (fun d n => d.setFld (Reg.pwrState n) 1 0 3) c
  let c := c.setPrimary c.primary
  let c := c.setFlag Reg.tickCtrl 0 (c.flag Reg.bootStrap 0)
  let c := { c with tick := { c.tick with curPeriod := c.fld Reg.tickPeriod 7 0, listening := c.flag Reg.bootStrap 0 } }
  (c.modBoot fun b => { b with phase := .up, wdog := false, syncUp := true }).setFlag Reg.bootStatus 4 true

/-- Steps 5 to 12 of a launched set; one that hangs stops at its step, with the watchdog running. DESIGN CHOICE (log 43). -/
def Chip.bringUp (c : Chip) (hang : Option Nat) (u : BringUp) : Chip :=
  let stuck := fun (k : Nat) (d : Chip) => (d.atStep k).modBoot fun b => { b with phase := .starting }
  match hang with
  | some 5 => stuck 5 c
  | some 6 => stuck 6 c
  | _ => match c.configure with
    | .error i =>
      let d := (c.atStep 6).setFlag Reg.bootStatus 6 true
      (match i with | some k => d.setFld Reg.bootStatus 63 32 k | none => d).recover
    | .ok d =>
      if hang = some 7 then stuck 7 d
      else if hang = some 8 then stuck 8 d.restoreStep
      else
        let d := d.restoreStep.trainStep u.retrain
        if hang = some 9 then stuck 9 d
        else
          let d := d.sweepStep u.slices
          if hang = some 10 then stuck 10 d else d.openPart.atStep 12

/-- ACCESSION: from RESET_N's rise, or again from step 2 after an internal reset (R414, R426). A part that is up, in recovery, or whose
launched set hangs runs none. DESIGN CHOICE (log 42). -/
def accession (samples : List (BitVec 8)) (puf : Option (List Byte)) (hang : Option Nat) (u : BringUp) (c : Chip) : Chip :=
  if c.boot.phase = .up ∨ c.boot.phase = .recovery ∨ c.boot.wdog = true then c
  else
    let c := c.modBoot fun b => b.spoil u
    let c := if c.boot.phase = .inReset then (c.latchStraps samples).atStep 1 else c
    let c := (c.atStep 3).identify puf
    match (c.atStep 4).launch with
    | (d, true) => d.bringUp hang u
    | (d, false) => d.recover

/-- ACCESSION. -/
def execAccession (samples : List (BitVec 8)) (puf : Option (List Byte)) (hang : Option Nat) (s : State) (u : BringUp := {}) :
    Host.Outcome State Fault Refusal := onChip (accession samples puf hang u) s

/-- ACC_WDOG_EXPIRY: the launched set has not reached step 11 in time; the part resets itself, and accession starts again at step 2
(R426). -/
def accWdogExpiry (c : Chip) : Chip :=
  if c.boot.wdog then c.internalReset.raise Reg.bootStatus 18 (Reg.bootCtr 2) else c

/-- ACC_WDOG_EXPIRY. -/
def execAccWdogExpiry (s : State) : Host.Outcome State Fault Refusal := onChip accWdogExpiry s

/-- RESET_ASSERT: RESET_N falls, and the part is held in reset (R439). -/
def resetAssert (c : Chip) : Chip := c.hardReset .inReset

/-- RESET_ASSERT. -/
def execResetAssert (s : State) : Host.Outcome State Fault Refusal := onChip resetAssert s

/-- POWER_LOSS: the main or standby supplies fail. The stacks lose their contents; a loss of VDD_AON loses the always-on domain
(R420, R439). -/
def powerLoss (aon : Bool) (c : Chip) : Chip :=
  let d := c.hardReset .inReset
  { d with mem := [], recErr := [], boot := { d.boot with aon := if aon then none else d.boot.aon } }

/-- POWER_LOSS. -/
def execPowerLoss (aon : Bool) (s : State) : Host.Outcome State Fault Refusal := onChip (powerLoss aon) s

/-! ### Replies (R403, R429, R433) -/

/-- A list cut into pieces of k, at most `fuel` of them. -/
def chunks {α : Type} (k : Nat) : Nat → List α → List (List α)
  | 0, _ => []
  | fuel + 1, l => l.take k :: if l.length ≤ k then [] else chunks k fuel (l.drop k)

/-- One message: its header and a body (R403, R433). -/
def message (code part parts : Nat) (body : List Byte) : List Byte :=
  leBytes 8 (body.length + code * 2 ^ 16) ++ leBytes 8 (part + parts * 2 ^ 8) ++ List.replicate 48 0 ++ body

/-- A byte escaped in a UART frame (R429). -/
def escByte (b : Byte) : List Byte := if b = 0x7E ∨ b = 0x7D then [0x7D, b ^^^ 0x20] else [b]

/-- A UART frame of a message (R429). -/
def uartFrameOf (m : List Byte) : List Byte := [0x7E] ++ m.flatMap escByte ++ leBytes 4 (crc32c m) ++ [0x7E]

/-- The next reply part enters a port's mailbox once the host has cleared P2H_FULL (R403, R433). -/
def Chip.nextReply (c : Chip) (h : Nat) : Chip :=
  match c.flag (Reg.hostMbox h) 1, (c.host h).replies with
  | false, m :: ms => (c.modHost h fun s => { s with p2h := m, replies := ms }).setFlag (Reg.hostMbox h) 1 true
  | _, _ => c

/-- Reply parts, given as bodies, sent to where the request came from. -/
def Chip.replyParts (c : Chip) (src : MboxSrc) (code : Nat) (bodies : List (List Byte)) : Chip :=
  let ms := (bodies.zip (List.range bodies.length)).map fun p => message code p.2 bodies.length p.1
  match src with
  | .host h => (c.modHost (portIx h) fun s => { s with replies := s.replies ++ ms }).nextReply (portIx h)
  | .uart => c.modBoot fun b => { b with uartOut := b.uartOut ++ ms.flatMap uartFrameOf }

/-- A reply of one part. -/
def Chip.reply (c : Chip) (src : MboxSrc) (code : Nat) (body : List Byte) : Chip := c.replyParts src code [body]

/-- Pendun serves a request: from a host whose H2P_GO is set, which it clears (R403), or from the UART. A code that changes the part
is refused on any but the primary port, and in recovery only a code that the table marks is served (R428, R433).
DESIGN CHOICE (log 44). -/
def Chip.serveMbox (c : Chip) (src : MboxSrc) (changes inRecovery : Bool) (f : Chip → Chip) : Chip :=
  let go := match src with | .host h => c.flag (Reg.hostMbox (portIx h)) 0 | .uart => true
  let recov := decide (c.boot.phase = .recovery)
  if !go || !(c.up || recov) then c
  else
    let c := match src with | .host h => c.setFlag (Reg.hostMbox (portIx h)) 0 false | .uart => c
    let ok := if recov then inRecovery else !changes || decide (src = .host c.primary)
    if ok then f c else c.reply src 0xFFFF []

/-- In recovery, another source owns the staging session (R430). -/
def Chip.sessionTaken (c : Chip) (src : MboxSrc) : Bool :=
  decide (c.boot.phase = .recovery) && match c.boot.stageOwner with | some o => decide (o ≠ src) | none => false

/-! ### Staging (R425, R430) -/

/-- STAGE_OPEN: PENDING is cleared, and the erasure of the inactive bank starts (R425). -/
def Chip.stageOpen (c : Chip) (src : MboxSrc) : Chip :=
  if c.sessionTaken src || c.boot.erasing.isSome then c.reply src 0x0100 [1]
  else
    let c := match c.boot.record with
      | some (_, r) => if r.pending then c.writeRecord' { r with pending := false } else c
      | none => c
    c.modBoot fun b => { b with
      erasing := some (src, b.inactive), stageOpen := false, stageOwner := if b.phase = .recovery then some src else b.stageOwner }

/-- STAGE_OPEN. -/
def execStageOpen (src : MboxSrc) (s : State) : Host.Outcome State Fault Refusal :=
  onChip (fun c => c.serveMbox src true true fun c => c.stageOpen src) s

/-- The end of a bank's erasure: STAGE_OPEN is answered (R425). -/
def stageEraseDone (c : Chip) : Chip :=
  match c.boot.erasing with
  | none => c
  | some (src, k) =>
    (c.modBoot fun b => { b.erase (bankBase k) bankBytes with erasing := none, stageOpen := true, stageNext := 0 }).reply src 0x0100 [0]

/-- STAGE_ERASE_DONE. -/
def execStageEraseDone (s : State) : Host.Outcome State Fault Refusal := onChip stageEraseDone s

/-- STAGE_DATA: data at the next offset of the bank (R425). -/
def Chip.stageData (c : Chip) (src : MboxSrc) (off : Nat) (data : List Byte) : Chip :=
  if c.sessionTaken src then c.reply src 0x0101 [1]
  else if !c.boot.stageOpen then c.reply src 0x0101 [7]
  else if off ≠ c.boot.stageNext ∨ bankBytes < off + data.length then c.reply src 0x0101 [2]
  else
    (c.modBoot fun b => { b.program (bankBase b.inactive + off) data with stageNext := off + data.length }).reply src 0x0101 [0]

/-- STAGE_DATA. -/
def execStageData (src : MboxSrc) (off : Nat) (data : List Byte) (s : State) : Host.Outcome State Fault Refusal :=
  onChip (fun c => c.serveMbox src true true fun c => c.stageData src off data) s

/-- The boot record with PENDING, PBANK naming the staged bank and TRIES 1 (R425). -/
def Chip.commitRecord (c : Chip) : Chip :=
  let k := c.boot.inactive
  c.writeRecord' (match c.boot.record with
    | some (_, r) => { r with pending := true, pbank := k, tries := 1 }
    | none => { seq := 0, active := 1 - k, pending := true, pbank := k, tries := 1 })

/-- STAGE_COMMIT: the record names the staged bank. In recovery the bank is checked first, and a pass resets the part after the
reply (R425, R430). -/
def Chip.stageCommit (c : Chip) (src : MboxSrc) : Chip :=
  if c.sessionTaken src then c.reply src 0x0102 [1]
  else if !c.boot.stageOpen then c.reply src 0x0102 [7]
  else if c.boot.phase = .recovery then
    if c.boot.bankOk c.boot.inactive then (c.commitRecord.reply src 0x0102 [0]).internalReset else c.reply src 0x0102 [3]
  else (c.commitRecord.modBoot fun b => { b with stageOpen := false }).reply src 0x0102 [0]

/-- STAGE_COMMIT. -/
def execStageCommit (src : MboxSrc) (s : State) : Host.Outcome State Fault Refusal :=
  onChip (fun c => c.serveMbox src true true fun c => c.stageCommit src) s

/-- STAGE_ABORT: staging is abandoned, and in recovery the session ends (R425, R430). -/
def Chip.stageAbort (c : Chip) (src : MboxSrc) : Chip :=
  if c.sessionTaken src then c.reply src 0x0103 [1]
  else if !c.boot.stageOpen ∧ c.boot.erasing = none then c.reply src 0x0103 [7]
  else (c.modBoot fun b => { b with stageOpen := false, erasing := none, stageOwner := none }).reply src 0x0103 [0]

/-- STAGE_ABORT. -/
def execStageAbort (src : MboxSrc) (s : State) : Host.Outcome State Fault Refusal :=
  onChip (fun c => c.serveMbox src true true fun c => c.stageAbort src) s

/-- STAGE_STATUS: status, next offset, PENDING and TRIES (R433). -/
def Chip.stageStatus (c : Chip) (src : MboxSrc) : Chip :=
  let st := if c.boot.erasing.isSome then 1 else if c.boot.stageOpen then 0 else 7
  let (p, t) := match c.boot.record with | some (_, r) => (b2n r.pending, r.tries) | none => (0, 0)
  c.reply src 0x0104 (leBytes 1 st ++ leBytes 4 c.boot.stageNext ++ leBytes 1 p ++ leBytes 1 t)

/-- STAGE_STATUS. -/
def execStageStatus (src : MboxSrc) (s : State) : Host.Outcome State Fault Refusal :=
  onChip (fun c => c.serveMbox src false true fun c => c.stageStatus src) s

/-- PROFILE_WRITE: bytes of a configuration profile; the first part erases its sector (R433). -/
def Chip.profileWrite (c : Chip) (src : MboxSrc) (k off : Nat) (data : List Byte) (partno : Nat) : Chip :=
  if c.sessionTaken src then c.reply src 0x0110 [1]
  else if 16 ≤ k ∨ 0x10000 < off + data.length then c.reply src 0x0110 [2]
  else
    (c.modBoot fun b =>
      (if partno = 0 then b.erase (profileBase k) 0x10000 else b).program (profileBase k + off) data).reply src 0x0110 [0]

/-- PROFILE_WRITE. -/
def execProfileWrite (src : MboxSrc) (profile : Fin 16) (off : Nat) (data : List Byte) (partno : Nat) (s : State) :
    Host.Outcome State Fault Refusal :=
  onChip (fun c => c.serveMbox src true true fun c => c.profileWrite src profile.val off data partno) s

/-! ### Attestation (R433, R434) -/

/-- Bytes 0 to 255 of an attestation report (R434). -/
def Chip.attestHead (c : Chip) (nonce : List Byte) : List Byte :=
  let dig := fun (r : Nat → Nat) => (List.range 4).flatMap fun k => leBytes 8 (c.rdN (r k))
  let fences := (c.cat.filter fun p => p.2.fenced).flatMap fun p => w64 p.1 :: (List.range 4).map p.2.word
  leBytes 1 1 ++ leBytes 1 c.boot.factory.grade.val ++ leBytes 2 (c.fld Reg.linkIdent 11 0) ++ leBytes 4 (c.fld Reg.bootImage 31 0) ++
    leBytes 8 (c.fld Reg.bootFloor 63 32) ++ leBytes 8 c.tickCount ++ leBytes 1 (c.fld Reg.bootStrap 7 0) ++
    leBytes 1 (c.fld Reg.bootStatus 8 8 + c.fld Reg.bootStatus 17 17 * 128) ++ List.replicate 6 0 ++ padTo 32 0 nonce ++
    dig Reg.bootManifest ++ padTo 32 0 c.boot.profDigest ++ shake256 32 (Config.fenceRecords fences) ++ dig Reg.bootIdent ++
    List.replicate 64 0

/-- ATTEST: the signed report over the nonce in two parts, or status 5 with no identity (R432, R434). -/
def Chip.attest (c : Chip) (src : MboxSrc) (nonce : List Byte) : Chip :=
  match c.boot.seed with
  | none => c.reply src 0x0200 [5]
  | some xi =>
    let head := c.attestHead nonce
    let report := head ++ padTo 3309 0 (Config.mldsaSign 0 xi head c.free)
    c.draw.replyParts src 0x0200 (chunks 1984 2 report)

/-- ATTEST. -/
def execAttest (src : MboxSrc) (nonce : List Byte) (s : State) : Host.Outcome State Fault Refusal :=
  onChip (fun c => c.serveMbox src false false fun c => c.attest src nonce) s

/-- GET_CERT: status 0 and the certificate of the factory record, in 3 parts (R431, R433). -/
def Chip.getCert (c : Chip) (src : MboxSrc) : Chip :=
  let body := 0 :: c.boot.factory.cert
  c.replyParts src 0x0201 ((List.range 3).map fun k => (body.drop (1984 * k)).take 1984)

/-- GET_CERT. -/
def execGetCert (src : MboxSrc) (s : State) : Host.Outcome State Fault Refusal :=
  onChip (fun c => c.serveMbox src false true fun c => c.getCert src) s

/-! ### The management UART (R429) -/

/-- The bytes between the marks of a frame, with its escapes undone. -/
def unescape : List Byte → List Byte
  | [] => []
  | [b] => [b]
  | b :: x :: rest => if b = 0x7D then (x ^^^ 0x20) :: unescape rest else b :: unescape (x :: rest)

/-- The message of a frame, if its marks stand and its CRC, whose four bytes follow the escaped message, passes (R429). -/
def frameMessage (bytes : List Byte) : Option (List Byte) :=
  let inner := (bytes.drop 1).dropLast
  let m := unescape (inner.take (inner.length - 4))
  if 6 ≤ bytes.length ∧ bytes.head? = some 0x7E ∧ bytes.getLast? = some 0x7E ∧
      ofLeBytes (inner.drop (inner.length - 4)) = crc32c m then some m else none

/-- UART_FRAME: a frame received on the management UART is checked and its message served; a bad one is answered with status 6. -/
def uartFrame (bytes : List Byte) (c : Chip) : Chip :=
  if !(c.up || decide (c.boot.phase = .recovery)) then c
  else match frameMessage bytes with
  | none => c.reply .uart 0 [6]
  | some m =>
    let w0 := ofLeBytes (m.take 8)
    let part := ofLeBytes ((m.drop 8).take 1)
    let body := (m.drop 64).take (bits w0 10 0)
    let num := fun (a n : Nat) => ofLeBytes ((body.drop a).take n)
    match bits w0 31 16 with
    | 0x0100 => c.serveMbox .uart true true fun c => c.stageOpen .uart
    | 0x0101 => c.serveMbox .uart true true fun c => c.stageData .uart (num 0 4) (body.drop 4)
    | 0x0102 => c.serveMbox .uart true true fun c => c.stageCommit .uart
    | 0x0103 => c.serveMbox .uart true true fun c => c.stageAbort .uart
    | 0x0104 => c.serveMbox .uart false true fun c => c.stageStatus .uart
    | 0x0110 => c.serveMbox .uart true true fun c => c.profileWrite .uart (num 0 1) (num 1 4) (body.drop 5) part
    | 0x0200 => c.serveMbox .uart false false fun c => c.attest .uart body
    | 0x0201 => c.serveMbox .uart false true fun c => c.getCert .uart
    | _ => c.reply .uart 0xFFFF []

/-- UART_FRAME. -/
def execUartFrame (bytes : List Byte) (s : State) : Host.Outcome State Fault Refusal := onChip (uartFrame bytes) s

end Sys2Proof.Machine
end

