-- ==== Sys2Proof/Machine/RegWrite.lean ====
section
/-! DEFINITION. Register space as software reaches it: access by code (R7 to R10, R469), the primary restriction (R394), the port page
(R392), and what a write of each register with behaviour of its own does. -/

namespace Sys2Proof.Machine

/-! ### Access -/

/-- A write by access code alone: rw and wo fields take their bits, w1c bits clear, w1s bits set (R9, R10). -/
def Chip.plainWrite (c : Chip) (a : Nat) (v : Word) : Chip :=
  match regDefAt a with
  | none => c
  | some d =>
    let set := w64 d.rw ||| w64 d.wo
    let x := (c.rd a &&& ~~~set) ||| (v &&& set)
    c.wr a ((x &&& ~~~(v &&& w64 d.w1c)) ||| (v &&& w64 d.w1s))

/-- A write of which some rw fields keep their values (R469). -/
def Chip.keepWrite (c : Chip) (a : Nat) (v keep : Word) : Chip := c.plainWrite a ((v &&& ~~~keep) ||| (c.rd a &&& keep))

/-- A flag of a port's own status: a write was discarded (R394, R395). -/
def Chip.privDrop (c : Chip) (w : Writer) : Chip :=
  match w with
  | .host h => c.raise (Reg.hostStatus (portIx h)) 18 (if portIx h = 0 then Reg.hostCtr0 2 else Reg.hostCtr1 2)
  | .pendun => c

/-- An offset of the chip.boot block (R435 to R437). -/
def inBootBlock (a : Nat) : Bool := decide (0x7000 ≤ a ∧ a < 0x7100)

/-- A register that can be reached: all of them once the part is up; the chip.boot block before and in recovery (R414, R428). -/
def Chip.reachable (c : Chip) (a : Nat) : Bool :=
  match c.boot.phase with
  | .up => true
  | .inReset => false
  | .starting | .recovery => inBootBlock a

/-- Registers that a secondary port may write: its own block, and start ticks (R394). -/
def secondaryMay (h a : Nat) : Bool :=
  decide (0x6000 + h * 0x100 ≤ a ∧ a < 0x6100 + h * 0x100) || decide (0x1100 ≤ a ∧ a < 0x1200 ∧ a % 16 = 8)

/-- A writer may write a register (R394); a privileged Pendun thread writes as the primary does. DEDUCED (log 96). -/
def Chip.mayWrite (c : Chip) (w : Writer) (a : Nat) : Bool :=
  match w with
  | .pendun => true
  | .host h => decide (h = c.primary) || secondaryMay (portIx h) a

/-! ### Registers with behaviour of their own -/

/-- chip.tick.period: a value out of range, or a write while a task is loaded, is discarded and sets BAD_WRITE (R28). -/
def Chip.writePeriod (c : Chip) (v : Word) : Chip :=
  let p := wbits v 7 0
  if c.anyLoaded || decide (p = 0 ∨ 128 < p) then c.raise Reg.tickStatus 0 (Reg.tickCtr 0) else c.plainWrite Reg.tickPeriod v

/-- Why a start tick is refused; 0 for none (R43). -/
def Chip.startReason (c : Chip) (t v : Nat) : Nat :=
  let ahead := serialDist 48 v c.tickCount
  if (c.task t).phase ≠ .ready then 0x19
  else if c.tick.dupRefuse then 0x1A
  else if ahead < 16 ∨ 2 ^ 47 ≤ ahead then 0x08
  else 0

/-- chip.task[t].start: checked, and answered with a start report (R43, R395). -/
def Chip.writeStart (c : Chip) (w : Writer) (t : Nat) (v : Word) : Chip :=
  let s := c.task t
  let mine := match w, s.owner with
    | .host h, some o => decide (h = o)
    | .pendun, some _ => true
    | _, none => false
  if s.phase = .empty ∨ s.phase = .loading ∨ mine = false then c.privDrop w
  else
    let r := c.startReason t (wbits v 47 0)
    if r ≠ 0 then c.tell t 9 1 r 0
    else ((c.plainWrite (Reg.taskStart t) v).modTask t fun x => { x with startSet := true }).tell t 9 0 0 0

/-- An entry that codes 1 to 5 of chip.reg.op act on: one of a loaded task, not vacant and not FENCED (R277). -/
def Chip.opEntry (c : Chip) (i : Nat) : Bool :=
  let e := c.catNow i
  decide (e.state ≠ 0) && !e.fenced && match c.taskOfTile i with | some t => c.loaded t | none => false

/-- A tile that a re-placement, or a LEND or RETURN, is moving (R269). -/
def Chip.beingMoved (c : Chip) (i : Nat) : Bool :=
  let e := c.catNow i
  let hit := fun (m : Move) => match m.tile with
    | some k => decide (k = i)
    | none => c.inGal m.wing m.gal e
  (match c.move with | some m => hit m | none => false) || c.toMove.any hit ||
    c.tasks.any fun p => p.2.plans.any fun q => decide (q.2.tile = i ∧ q.2.act ≠ 3)

/-- PINNED set or cleared by op; on a tile that is being moved it takes effect after the move (R269). -/
def Chip.pinOp (c : Chip) (i : Nat) (b : Bool) : Chip :=
  if c.beingMoved i || c.pinDue.any (fun p => decide (p.1 = i)) then { c with pinDue := c.pinDue ++ [(i, b)] }
  else c.modCat i fun e => { e with pinned := b }

/-- The PIN ops whose tile is no longer being moved take effect (R269). -/
def Chip.applyPins (c : Chip) : Chip :=
  let (wait, now) := c.pinDue.partition fun p => c.beingMoved p.1
  now.foldl (fun d p => d.modCat p.1 fun e => if e.state = 0 then e else { e with pinned := p.2 }) { c with pinDue := wait }

/-- chip.reg.op (R251, R253, R268, R269, R277, R278). -/
def Chip.regOp (c : Chip) (i code : Nat) : Chip :=
  if code = 6 then (List.range 4).foldl (fun d k => d.wr (Reg.regView k) ((c.cate i).word k)) c
  else if !c.opEntry i then c
  else if code = 1 ∨ code = 2 then { c with step := { c.step with frozenDue := c.step.frozenDue ++ [(i, decide (code = 1))] } }
  else if code = 3 ∨ code = 4 then c.pinOp i (decide (code = 3))
  else if code = 5 then c.modCat i CatEntry.bump
  else c

/-- A port whose slot holds a loaded task: its window and aperture are fixed (R399, R401). -/
def Chip.portBusy (c : Chip) (h : HostPort) : Bool :=
  c.tasks.any fun p => decide (p.2.phase ≠ .empty ∧ p.2.owner = some h)

/-- The port of a chip.host block offset. -/
def hostOf (o : Nat) : HostPort := if o < 0x6100 then .A else .B

/-- A register of chip.host[h] (R393 to R407). -/
def Chip.writeHostReg (c : Chip) (a : Nat) (v : Word) : Chip :=
  let h := hostOf a
  let i := portIx h
  let o := a % 0x100
  if o = 0x08 then c.putHost (48 + i) v
  else if o = 0x38 then if c.portBusy h then c else c.plainWrite a v
  else if o = 0x48 then if c.portBusy h || decide (0x4F < wbits v 43 36) then c else c.plainWrite a v
  else if o = 0x58 then (c.plainWrite a v).nextReply i
  else c.plainWrite a v

/-- chip.host.cfg: PRIMARY moves the role at once (R393, R408). -/
def Chip.writeHostCfg (c : Chip) (v : Word) : Chip :=
  let c := c.plainWrite Reg.hostCfg v
  c.setPrimary c.primary

/-- chip.flt.log_pos: an ACK beyond HEAD is discarded (R389). -/
def Chip.writeAck (c : Chip) (v : Word) : Chip :=
  let d := serialDist 24 (wbits v 47 24) (c.fld Reg.fltLogPos 23 0)
  if 1 ≤ d ∧ d < 2 ^ 23 then c else c.plainWrite Reg.fltLogPos v

/-- chip.flt.ctrl: ASSIST_WAIT, and RELEASE of the held task (R378, R389). -/
def Chip.writeFltCtrl (c : Chip) (v : Word) : Chip :=
  let c := c.keepWrite Reg.fltCtrl (v &&& 0xFFFF) 0
  if v.getLsbD 16 then c.releaseAll else c

/-- chip.flt.assist: DST, and START of the assist (R381, R389). -/
def Chip.writeAssist (c : Chip) (v : Word) : Chip :=
  let c := c.wrMask Reg.fltAssist 0xFFFFFFFFFFFFFF v
  if v.getLsbD 63 then c.startAssist else c

/-- chip.boot.ret: RSAVE, ACC_WDOG, and SAVE_NOW (R420, R436). -/
def Chip.writeRet (c : Chip) (v : Word) : Chip :=
  let c := c.wrMask Reg.bootRet 0xFFF0FFFF v
  if v.getLsbD 16 && c.up then c.startSave else c

/-- chip.pwr.ctrl: DOWN_NOTICE stops every loaded task and has retained state saved (R445). -/
def Chip.writePwr (c : Chip) (v : Word) : Chip :=
  if v.getLsbD 0 && !c.flag Reg.pwrCtrl 1 then
    let c := (c.tasks.map Prod.fst).foldl (fun d t => d.stopTask t 0x18) c
    (c.modBoot fun b => { b with downWait := true }).startSave
  else c

/-- A register of the chip blocks. -/
def Chip.writeChipReg (c : Chip) (w : Writer) (a : Nat) (v : Word) : Chip :=
  if a = 0x1000 then c.writePeriod v
  else if a = 0x1028 then if wbits v 15 0 = 0 then c else c.plainWrite a v
  else if 0x1100 ≤ a ∧ a < 0x1200 ∧ a % 16 = 8 then c.writeStart w ((a - 0x1100) / 16) v
  else if a = 0x1200 ∨ a = 0x1210 then if c.anyLoaded then c else c.plainWrite a v
  else if a = 0x1208 then
    if c.anyLoaded then c else if wbits v 23 0 = 0 then c.keepWrite a v 0xFFFFFF else c.plainWrite a v
  else if a = 0x2000 then c.keepWrite a v 0xFFFE0000000
  else if a = 0x2008 then c.regOp (wbits v 25 0) (wbits v 35 32)
  else if a = 0x2030 then
    let d := c.plainWrite a v
    if c.tasks.any fun p => !p.2.pendAlloc.isEmpty then d.setFlag a 8 (c.flag a 8) else d
  else if a = 0x3000 ∨ (0x3010 ≤ a ∧ a ≤ 0x3020) then if c.anyLoaded then c else c.plainWrite a v
  else if a = 0x4008 ∨ 0x10000 ≤ a then if c.anyLoaded then c else c.plainWrite a v
  else if a = 0x5120 then c.writeFltCtrl v
  else if a = 0x5128 then c.writeAck v
  else if a = 0x5130 then c.writeAssist v
  else if 0x6000 ≤ a ∧ a < 0x6200 then c.writeHostReg a v
  else if a = 0x6200 then c.writeHostCfg v
  else if a = 0x7020 then c.writeRet v
  else if a = 0x7028 then if c.boot.syncUp then (c.plainWrite a v).modBoot fun b => { b with syncSet := true } else c
  else if a = 0x8020 then c.writePwr v
  else c.plainWrite a v

/-- wing[n].mx[a].ident: writing 1 to FENCE fences the array (R190, R191). -/
def Chip.writeFence (c : Chip) (n k : Nat) (v : Word) : Chip :=
  if v.getLsbD 9 && !c.flag (Reg.mxIdent n k) 9 then
    let ts := c.boundTo n k
    c.fenceArray n k ts { tier := 2, level := 2, wing := n, source := 0x07, gallery := 0, unit := k, task := ts.head?.getD 0,
                          verdict := 0, detail := 0 }
  else c

/-- wing[n].ledger.cfg of the selected pair: while EN is 1 only EN takes a written value; a BUF of 0 is discarded (R225, R227,
R241). A pair belongs to the task of the tile that holds its words. -/
def Chip.writePairCfg (c : Chip) (n : Nat) (v : Word) : Chip :=
  let i := c.selPair n
  if i = 4095 then c
  else
    let p := c.pair n i
    let en := v.getLsbD 16
    let q := if p.en then { p with en := en } else
      let word := wbits v 59 20
      { p with
        buf := if wbits v 15 0 = 0 then p.buf else wbits v 15 0
        sat := p.sat && !v.getLsbD 17, word := word, en := en, task := if en then c.taskAt (word * 16) else none }
    if p.en || en then c.putPair n i q else c.setPair n i q

/-- wing[n].ledger.prod and ledger.cons of the selected pair (R226, R241). -/
def Chip.writePairCount (c : Chip) (n : Nat) (prod : Bool) (v : Word) : Chip :=
  let i := c.selPair n
  let p := c.pair n i
  if i = 4095 ∨ p.en = true then c
  else c.setPair n i (if prod then { p with p := wbits v 47 0 } else { p with c := wbits v 47 0 })

/-- wing[n].ledger.op: SIGNAL or CONSUME of N on the selected pair (R230, R242). -/
def Chip.writeLedgerOp (c : Chip) (n : Nat) (v : Word) : Chip :=
  let i := c.selPair n
  let k := wbits v 15 0
  if i = 4095 ∨ k = 0 then c
  else if v.getLsbD 16 then (if c.pairLive n i then c.consumePair n i k else c.stray n)
  else c.signalPair n i k

/-- wing[n].conv.spare_sel: a fixed slice ends its period, and rotation points fall every ROT_SLOTS slots counted from the first tick
(R116, R117). -/
def Chip.writeSpareSel (c : Chip) (n : Nat) (v : Word) : Chip :=
  let old := c.spareSelNow n
  let new := wbits v 1 0
  let d := c.plainWrite (Reg.spareSel n) v
  if old = new then d
  else
    d.modWing n fun w =>
      let w := if old = 3 then w else { w with fixEnd := NMap.set (fun _ => 0) w.fixEnd old (NMap.get (fun _ => 0) w.fixEnd old + 1) }
      if new = 3 then { w with rotSlot := max w.rotSlot (c.tick.slotCount / c.rotSlots n * c.rotSlots n) } else w

/-- A register of wing n's block at offset o. -/
def Chip.writeWingReg (c : Chip) (n o a : Nat) (v : Word) : Chip :=
  if o = 0x208 ∨ o = 0x210 then if c.anyRunning then c else c.plainWrite a v
  else if o = 0x400 then if c.anyLoaded then c else c.writeSpareSel n v
  else if o = 0x900 ∨ o = 0x908 ∨ o = 0x1500 ∨ o = 0x1600 ∨ o = 0x1700 ∨ o = 0x1940 then
    if c.anyLoaded then c else c.plainWrite a v
  else if o = 0x500 then
    let l := wbits v 5 0
    if l = 0 ∨ 32 < l then c.keepWrite a v 0x3F else c.plainWrite a v
  else if o = 0xA00 ∨ o = 0xB00 then c.writeFence n (if o = 0xA00 then 0 else 1) v
  else if o = 0xE48 then c.writePairCfg n v
  else if o = 0xE50 then c.writePairCount n true v
  else if o = 0xE58 then c.writePairCount n false v
  else if o = 0xE60 then c.writeLedgerOp n v
  else if o = 0x1408 then if c.anyLoaded then c else (c.plainWrite a v).startClears
  else if o = 0x1410 then if c.anyLoaded || decide (262144 < wbits v 18 0) then c else (c.plainWrite a v).startClears
  else if o = 0x1418 then if v.getLsbD 0 && !c.anyLoaded then c.startClear n else c
  else c.plainWrite a v

/-- gal[g].mode: MODE while no task is loaded, the flags, and a swap request (R103, R109). -/
def Chip.writeMode (c : Chip) (n g : Nat) (v : Word) : Chip :=
  let a := Reg.galMode n g
  let d := c.keepWrite a (v &&& ~~~(4 : Word)) (if c.anyLoaded then 1 else 0)
  if v.getLsbD 2 then (d.requestSwap n g).1 else d

/-- INDEX rises by 1 after an access to corr.data while AUTOINC is set (R133). -/
def Chip.nextCoef (c : Chip) (n g : Nat) : Chip :=
  if c.flag (Reg.corrIndex n g) 17 then c.setFld (Reg.corrIndex n g) 12 0 ((c.fld (Reg.corrIndex n g) 12 0 + 1) % 2 ^ 13) else c

/-- gal[g].corr.data: the coefficient at INDEX (R126, R133). One that the hardware updates in the same clock keeps its value. -/
def Chip.writeCoef (c : Chip) (n g : Nat) (v : Word) (sameClock : Bool) : Chip :=
  let i := c.fld (Reg.corrIndex n g) 12 0
  let c := if i % 4096 < 2376 ∧ sameClock = false then
      c.modGal n g fun x => { x with coef := NMap.put x.coef i (BitVec.ofNat 16 (wbits v 15 0)) }
    else c
  c.nextCoef n g

/-- CMD_DROP: a register-path command was discarded (R165). -/
def Chip.cmdDrop (c : Chip) (n g : Nat) : Chip := c.raise (Reg.cmdStatus n g) 9 (Reg.cmdCtr n g 1)

/-- gal[g].cmd.w0 and w1: a command entered while no task is loaded (R165). -/
def Chip.writeCmd (c : Chip) (n g : Nat) (second : Bool) (v : Word) (clk : Nat) : Chip :=
  if c.anyLoaded || decide (16 ≤ (c.gal n g).cmdQ.length) then c.cmdDrop n g
  else if second then (c.wr (Reg.cmdW1 n g) v).gEnter n g none (c.rd (Reg.cmdW0 n g)) v clk
  else c.wr (Reg.cmdW0 n g) v

/-- A register of a gallery's block at offset o. -/
def Chip.writeGalReg (c : Chip) (n g o a : Nat) (v : Word) : Chip :=
  if o = 0 then c.writeCmd n g false v 0
  else if o = 8 then c.writeCmd n g true v c.tick.edgeClk
  else if o = 0x130 then c.writeMode n g v
  else if o = 0x158 then c.writeCoef n g v false
  else if o = 0x300 then if c.anyLoaded then c else c.plainWrite a v
  else c.plainWrite a v

/-- What an aligned 64-bit write does to the register it reaches (R8 to R10). -/
def Chip.regEffect (c : Chip) (w : Writer) (a : Nat) (v : Word) : Chip :=
  match regAddr a, regDefAt a with
  | some ra, some _ =>
    match ra.scope with
    | .chip => c.writeChipReg w a v
    | .wing | .even => c.writeWingReg ra.wing ra.off a v
    | .gal => c.writeGalReg ra.wing ra.gal ra.off a v
  | _, _ => c

/-- A register write by a host or a privileged Pendun thread; `page` tells that a host reached it through its port page (R7, R392,
R394, R414, R428). -/
def Chip.regWrite (c : Chip) (w : Writer) (page : Bool) (a : Nat) (v : Word) : Chip :=
  let open_ := c.reachable a || (page && decide (c.boot.phase = .recovery))
  if !open_ then c
  else if c.mayWrite w a then c.regEffect w a v
  else c.privDrop w

/-- A register read: its value, and a read of corr.data moves INDEX on (R7 to R10, R133, R414). -/
def Chip.readReg (c : Chip) (a : Nat) : Chip × Word :=
  if !c.reachable a then (c, 0)
  else
    let v := c.regRead a
    match regAddr a, regDefAt a with
    | some ra, some _ => if ra.scope = .gal ∧ ra.off = 0x158 then (c.nextCoef ra.wing ra.gal, v) else (c, v)
    | _, _ => (c, v)

/-- A register read of a size: one that is not an aligned 64-bit access reads all zeros (R7). -/
def Chip.readSized (c : Chip) (a size : Nat) : Chip × Word := if size = 8 ∧ a % 8 = 0 then c.readReg a else (c, 0)

/-! ### The port page (R392, R402, R403) -/

/-- A 32-bit word of the MSI-X table written. Clearing the mask of a pending vector sends its message (R402). -/
def Chip.writeMsix (c : Chip) (h k : Nat) (v : BitVec 32) : Chip :=
  c.modHost h fun s =>
    let s := { s with table := NMap.set (fun _ => 0) s.table k v }
    if k % 4 = 3 then
      let m := BitVec.ofNat 32 (2 ^ (k / 4))
      let masked := v.getLsbD 0
      let s := { s with mask := if masked then s.mask ||| m else s.mask &&& ~~~m }
      if !masked && s.pba.getLsbD (k / 4) then
        { s with pba := s.pba &&& ~~~m, sent := NMap.set (fun _ => 0) s.sent (k / 4) (NMap.get (fun _ => 0) s.sent (k / 4) + 1) }
      else s
    else s

/-- A list of 2,048 bytes with some replaced. -/
def putAt (l : List Byte) (o : Nat) (bs : List Byte) : List Byte :=
  (padTo 2048 0 l).take o ++ bs ++ (padTo 2048 0 l).drop (o + bs.length)

/-- A write to a port's own page at an offset (R392). -/
def Chip.pageWrite (c : Chip) (h : HostPort) (o size : Nat) (v : Word) : Chip :=
  let i := portIx h
  let whole := decide (size = 8 ∧ o % 8 = 0)
  if !(c.up || decide (c.boot.phase = .recovery)) then c
  else if o < 0x100 then if whole then c.regWrite (.host h) true (0x6000 + i * 0x100 + o) v else c
  else if 0x1000 ≤ o ∧ o < 0x1800 then
    if whole then c.modHost i fun s => { s with h2p := putAt s.h2p (o - 0x1000) (leBytes 8 v.toNat) } else c
  else if 0x2000 ≤ o ∧ o < 0x2200 then
    let k := (o - 0x2000) / 4
    if whole then (c.writeMsix i k (v.truncate 32)).writeMsix i (k + 1) (BitVec.ofNat 32 (wbits v 63 32))
    else if size = 4 ∧ o % 4 = 0 then c.writeMsix i k (v.truncate 32)
    else c
  else c

/-- REGISTER_WRITE: a write of `size` bytes at a BAR0 offset, or, from 0x1000_0000 on, at an offset of the writing port's own page
(R7, R391). -/
def registerWrite (w : Writer) (a size : Nat) (v : Word) (c : Chip) : Chip :=
  if a < 0x10000000 then if size = 8 ∧ a % 8 = 0 then c.regWrite w false a v else c
  else match w with
    | .host h => c.pageWrite h (a - 0x10000000) size v
    | .pendun => c

/-- REGISTER_WRITE. -/
def execRegisterWrite (w : Writer) (addr size : Nat) (v : Word) (s : State) : Host.Outcome State Fault Refusal :=
  onChip (registerWrite w addr size v) s

/-! ### The rows that write one register -/

/-- A row's write of a register. -/
def rowWrite (w : Writer) (a : Nat) (v : Word) (s : State) : Host.Outcome State Fault Refusal :=
  onChip (fun c => c.regWrite w false a v) s

/-- PERIOD_WRITE (R28). -/
def execPeriodWrite (w : Writer) (v : Word) (s : State) : Host.Outcome State Fault Refusal := rowWrite w Reg.tickPeriod v s

/-- TASK_START_WRITE (R43). -/
def execTaskStartWrite (w : Writer) (t : Slot) (v : Word) (s : State) : Host.Outcome State Fault Refusal :=
  rowWrite w (Reg.taskStart t.val) v s

/-- PAUSE_WRITE: the drive of SYNC[2] changes 50 ns after the next edge (R44). -/
def execPauseWrite (w : Writer) (v : Word) (s : State) : Host.Outcome State Fault Refusal := rowWrite w Reg.tickCtrl v s

/-- SWAP_REQUEST_WRITE (R103). -/
def execSwapRequestWrite (w : Writer) (n : Wing) (g : GalIx) (v : Word) (s : State) : Host.Outcome State Fault Refusal :=
  rowWrite w (Reg.galMode n.val g.val) v s

/-- SPARE_SEL_WRITE (R117). -/
def execSpareSelWrite (w : Writer) (n : Wing) (v : Word) (s : State) : Host.Outcome State Fault Refusal :=
  rowWrite w (Reg.spareSel n.val) v s

/-- CORR_DATA_WRITE: as the register's write, with the hardware's update of the entry in the same clock or not (R126). -/
def execCorrDataWrite (w : Writer) (n : Wing) (g : GalIx) (v : Word) (sameClock : Bool) (s : State) : Host.Outcome State Fault Refusal :=
  onChip (fun c =>
    if !c.up then c else if c.mayWrite w (Reg.corrData n.val g.val) then c.writeCoef n.val g.val v sameClock else c.privDrop w) s

/-- CORR_DATA_READ: both ports, and Pendun, may read (R133, R394). -/
def execCorrDataRead (_ : Writer) (n : Wing) (g : GalIx) (s : State) : Host.Outcome State Fault Refusal :=
  onChip (fun c => let (d, v) := c.readReg (Reg.corrData n.val g.val); { d with busData := v }) s

/-- CMD_W1_WRITE, at a gallery clock (R165). -/
def execCmdW1Write (w : Writer) (n : Wing) (g : GalIx) (v : Word) (clk : Nat) (s : State) : Host.Outcome State Fault Refusal :=
  onChip (fun c =>
    if !c.up then c else if c.mayWrite w (Reg.cmdW1 n.val g.val) then c.writeCmd n.val g.val true v clk else c.privDrop w) s

/-- The galleries of a wing have a register-path command, queued or running, or an outstanding write, that of a WRITE or a rehang
(R165). -/
def Chip.pathBusy (c : Chip) (n : Nat) : Bool :=
  (c.galsOf n).any fun g =>
    let x := c.gal n g
    (x.cmdQ.any fun q => q.tag.task.isNone) || (x.mvms.any fun m => m.tag.task.isNone && !m.ended) ||
      !x.pendW.isEmpty || x.wjob.isSome || (match x.rjob with | some j => !j.order.isEmpty | none => false)

/-- A wing that the register path keeps awake notes the tick edge at which its galleries were last found busy. DEDUCED (log 121). -/
def Chip.notePath (c : Chip) (n : Nat) : Chip :=
  if (c.wing n).keepAwake && c.pathBusy n then c.modWing n fun w => { w with busyAt := c.tick.halfUs } else c

/-- The 1 ms after the last register-path command or write can have passed in the tick in progress (R165). DEDUCED (log 121). -/
def Chip.pathRested (c : Chip) (n : Nat) : Bool := decide ((c.wing n).busyAt + 2000 < c.tick.halfUs + c.period)

/-- REGISTER_PATH_IDLE: 1 ms after the last register-path command or write ended, the wing returns to rest, unless a task has begun in
it (R165, R442). -/
def registerPathIdle (n : Nat) (c : Chip) : Chip :=
  if (c.wing n).keepAwake && !c.pathBusy n && c.pathRested n then
    let c := c.modWing n fun w => { w with keepAwake := false }
    match c.holder n with
    | some t => if (c.task t).started then c else c.enterState n 3
    | none => c.enterState n 3
  else c

/-- REGISTER_PATH_IDLE. -/
def execRegisterPathIdle (n : Wing) (s : State) : Host.Outcome State Fault Refusal := onChip (registerPathIdle n.val) s

/-- ARRAY_FENCE_WRITE (R190). -/
def execArrayFenceWrite (w : Writer) (n : Wing) (a : Fin 2) (v : Word) (s : State) : Host.Outcome State Fault Refusal :=
  rowWrite w (Reg.mxIdent n.val a.val) v s

/-- SIGNAL: a ledger.op write with KIND 0 (R242). -/
def execSignal (w : Writer) (n : Wing) (v : Word) (s : State) : Host.Outcome State Fault Refusal :=
  rowWrite w (Reg.ledgerOp n.val) (v &&& 0xFFFF) s

/-- CONSUME: a ledger.op write with KIND 1 (R242). -/
def execConsume (w : Writer) (n : Wing) (v : Word) (s : State) : Host.Outcome State Fault Refusal :=
  rowWrite w (Reg.ledgerOp n.val) ((v &&& 0xFFFF) ||| 0x10000) s

/-- A write of chip.reg.op (R277). -/
def opWord (i code : Nat) : Word := w64 (i % 2 ^ 26 + code * 2 ^ 32)

/-- SET_FROZEN (R268, R277). -/
def execSetFrozen (w : Writer) (i : Nat) (s : State) : Host.Outcome State Fault Refusal := rowWrite w Reg.regOp (opWord i 1) s

/-- CLEAR_FROZEN (R268, R277). -/
def execClearFrozen (w : Writer) (i : Nat) (s : State) : Host.Outcome State Fault Refusal := rowWrite w Reg.regOp (opWord i 2) s

/-- SET_PINNED (R269, R277). -/
def execSetPinned (w : Writer) (i : Nat) (s : State) : Host.Outcome State Fault Refusal := rowWrite w Reg.regOp (opWord i 3) s

/-- CLEAR_PINNED (R269, R277). -/
def execClearPinned (w : Writer) (i : Nat) (s : State) : Host.Outcome State Fault Refusal := rowWrite w Reg.regOp (opWord i 4) s

/-- BUMP (R253, R277). -/
def execBump (w : Writer) (i : Nat) (s : State) : Host.Outcome State Fault Refusal := rowWrite w Reg.regOp (opWord i 5) s

/-- CATALOGUE_READ (R251, R277). -/
def execCatalogueRead (w : Writer) (i : Nat) (s : State) : Host.Outcome State Fault Refusal := rowWrite w Reg.regOp (opWord i 6) s

/-- ANNEX_CLEAR_WRITE (R299). -/
def execAnnexClearWrite (w : Writer) (n : Wing) (v : Word) (s : State) : Host.Outcome State Fault Refusal :=
  rowWrite w (Reg.memAnnexCtrl n.val) v s

/-- ANNEX_CONFIG_WRITE: of ABASE, or of ASIZE (R299, R300). -/
def execAnnexConfigWrite (w : Writer) (n : Wing) (size : Bool) (v : Word) (s : State) : Host.Outcome State Fault Refusal :=
  rowWrite w (if size then Reg.memAnnexSize n.val else Reg.memAnnex n.val) v s

/-- RELEASE (R378). -/
def execRelease (w : Writer) (v : Word) (s : State) : Host.Outcome State Fault Refusal := rowWrite w Reg.fltCtrl v s

/-- ASSIST_START (R381). -/
def execAssistStart (w : Writer) (v : Word) (s : State) : Host.Outcome State Fault Refusal := rowWrite w Reg.fltAssist v s

/-- LOG_ACK_WRITE (R389). -/
def execLogAckWrite (w : Writer) (v : Word) (s : State) : Host.Outcome State Fault Refusal := rowWrite w Reg.fltLogPos v s

/-- CQ_HEAD_WRITE, by the port's own host (R397). -/
def execCqHeadWrite (h : HostPort) (v : Word) (s : State) : Host.Outcome State Fault Refusal :=
  rowWrite (.host h) (Reg.hostCqHead (portIx h)) v s

/-- MSIX_ARM_WRITE (R402). -/
def execMsixArmWrite (w : Writer) (h : HostPort) (v : Word) (s : State) : Host.Outcome State Fault Refusal :=
  rowWrite w (Reg.hostMsixArm (portIx h)) v s

/-- H2P_GO_WRITE, through the port's own page (R403). -/
def execH2pGoWrite (h : HostPort) (v : Word) (s : State) : Host.Outcome State Fault Refusal :=
  onChip (fun c => c.regWrite (.host h) true (Reg.hostMbox (portIx h)) (v &&& 1)) s

/-- P2H_FULL_CLEAR, through the port's own page; the next reply part may follow (R403, R433). -/
def execP2hFullClear (h : HostPort) (v : Word) (s : State) : Host.Outcome State Fault Refusal :=
  onChip (fun c => c.regWrite (.host h) true (Reg.hostMbox (portIx h)) (v &&& 2)) s

/-- PRIMARY_WRITE (R393). -/
def execPrimaryWrite (w : Writer) (v : Word) (s : State) : Host.Outcome State Fault Refusal := rowWrite w Reg.hostCfg v s

/-- SAVE_NOW_WRITE (R420). -/
def execSaveNowWrite (w : Writer) (v : Word) (s : State) : Host.Outcome State Fault Refusal := rowWrite w Reg.bootRet v s

/-- DOWN_NOTICE (R445). -/
def execDownNotice (w : Writer) (v : Word) (s : State) : Host.Outcome State Fault Refusal := rowWrite w Reg.pwrCtrl v s

end Sys2Proof.Machine
end

