-- ==== Sys2Proof/Machine/Docent.lean ====
section
/-! DEFINITION. Docent threads (R204 to R213): which thread may issue, the checks of an access, loads and stores with the data
cache, tagged accesses, commands, and the threads themselves. -/

namespace Sys2Proof.Machine

/-! ### Threads -/

/-- A general register of a thread. -/
def ThreadSt.reg (t : ThreadSt) (r : Nat) : Word := NMap.get (fun _ => 0) t.regs r

/-- A thread has an instruction to issue: it is live, not halted, waits for nothing, and its wing runs (R204, R45). -/
def Chip.eligible (c : Chip) (n g th : Nat) : Bool :=
  let t := (c.gal n g).thread th
  t.live && !t.halted && decide (t.wait = ThreadWait.ready) && c.inRun n && !c.halted && c.up

/-- Gallery clocks from the first edge to a clock of the tick in progress. -/
def Chip.clockNow (c : Chip) (clk : Nat) : Nat := c.tick.edgeClk + clk

/-- A thread is eligible at a clock: its previous instruction issued at least 4 gallery clocks earlier (R204). -/
def Chip.eligibleAt (c : Chip) (n g th now : Nat) : Bool :=
  c.eligible n g th && match NMap.find (c.gal n g).issuedAt th with | some k => decide (k + 4 ≤ now) | none => true

/-- The threads that come before a thread in the round, which begins after the thread that issued last (R204). -/
def Gal.ahead (x : Gal) (th : Nat) : List Nat :=
  let first := match x.lastThread with | some k => (k + 1) % 32 | none => 0
  (List.range ((th + 32 - first) % 32)).map fun k => (first + k) % 32

/-- A thread's turn at a clock: it is eligible, no thread before it in the round is, and no instruction issued at that clock (R204). -/
def Chip.mayIssue (c : Chip) (n g th now : Nat) : Bool :=
  c.eligibleAt n g th now && ((c.gal n g).ahead th).all (fun k => !c.eligibleAt n g k now) &&
    (c.gal n g).issuedAt.all fun p => decide (p.2 < now)

/-- An instruction of a thread issues. -/
def Chip.issued (c : Chip) (n g th now : Nat) : Chip :=
  c.modGal n g fun x => { x with lastThread := some th, issuedAt := NMap.put x.issuedAt th now }

/-- An instruction of a thread completes: the thread goes on at the next one (log 5). -/
def Chip.nextPc (c : Chip) (n g th : Nat) : Chip :=
  c.modThread n g th fun t => { t with pc := Config.docentNextPc t.pc }

/-- An instruction completes with a result. -/
def Chip.putReg (c : Chip) (n g th rd : Nat) (v : Word) : Chip :=
  (c.modThread n g th fun t => { t with regs := NMap.set (fun _ => 0) t.regs rd v }).nextPc n g th

/-- A thread's instruction faults (R213, R214): it is not performed, the thread is halted, the fault recorded, and its task stops with
a task error. `kind` is 0 address, 1 alignment, 2 illegal, 3 privilege. -/
def Chip.docFault (c : Chip) (n g th kind : Nat) (addr : Word) : Chip :=
  let pc := ((c.gal n g).thread th).pc
  let c := c.raise (Reg.docFault n g) 0 (Reg.docCtr n g)
  let c := ((c.setFld (Reg.docFault n g) 12 8 th).setFld (Reg.docFault n g) 18 16 kind).setFld (Reg.docFault n g) 63 20 pc.toNat
  let c := (c.wr (Reg.docFaultAddr n g) addr).modThread n g th fun t => { t with halted := true }
  c.taskError? (c.galTask n g)

/-- A row of a docent thread: its instruction, at its turn. An error in a cache is a tier 1 fault of the docent (R213, R367), and the
instruction is not performed. DESIGN CHOICE (log 109). -/
def docRow (n : Wing) (g : GalIx) (th : Thread) (i : DocIssue) (f : Chip → Chip) (s : State) : Host.Outcome State Fault Refusal :=
  onChip (fun c =>
    let now := c.clockNow i.clk
    if c.mayIssue n.val g.val th.val now then
      let c := c.issued n.val g.val th.val now
      if i.err then
        c.parityFault (.docent n.val g.val) ((c.gal n.val g.val).thread th.val).pc.toNat (c.galTask n.val g.val) c.boundTo
      else f c
    else c) s

/-! ### Accesses (R206, R213) -/

/-- What an access of a thread reaches. -/
inductive Reach where
  | mem (a : Nat) (r : Region)
  | regs (a : Nat)
  | fault (kind : Nat)
  deriving DecidableEq, Repr

/-- The least power of two that an access of up to 8 bytes fits. DEDUCED: a load or store of 3, 5, 6 or 7 bytes is naturally aligned
where one of 4 or 8 bytes would be. DEDUCED (log 89). -/
def naturalAlign (size : Nat) : Nat := if size ≤ 1 then 1 else if size = 2 then 2 else if size ≤ 4 then 4 else 8

/-- An access of a thread checked (R5, R206, R213): the address, then the alignment, then the privilege. Tagged accesses reach the
stores only (R218). No alignment faults in register space (R7). -/
def Chip.reach (c : Chip) (n g th : Nat) (addr : Word) (size : Nat) (tagged : Bool) : Reach :=
  match c.ownLocal addr.toNat with
  | none => .fault 0
  | some a =>
    let r := c.region a
    let priv := ((c.gal n g).thread th).priv
    let aligned := decide (a % naturalAlign size = 0)
    match r with
    | .annex _ | .backing | .unpopulated => .fault 0
    | .localMem _ => if tagged then .fault 0 else if aligned then .mem a r else .fault 1
    | .wingStore _ | .galStore _ _ => if aligned then .mem a r else .fault 1
    | .hostWin _ => if tagged then .fault 0 else if !aligned then .fault 1 else if priv then .mem a r else .fault 3
    | .regSpace => if tagged then .fault 0 else if priv then .regs (a - regSpaceBase) else .fault 3

/-! ### The data cache (R207, R209) -/

/-- A line put in the data cache: 64 sets of four ways. In a full set one way is replaced; which is free (log 11). -/
def Chip.cacheLine (c : Chip) (n g line : Nat) (data : List Byte) : Chip :=
  let m := (c.gal n g).dcache
  let ways := m.keys.filter fun k => decide (k % 64 = line % 64 ∧ k ≠ line)
  let m := if ways.length < 4 then m else NMap.del m (nth 0 ways (Config.cacheVictim c.free % 4))
  (c.modGal n g fun x => { x with dcache := NMap.put m line data }).draw

/-- A line of local memory read into the data cache. One whose words fail parity is not kept. -/
def Chip.loadLine (c : Chip) (n g line : Nat) : Chip × List Byte × List Nat :=
  let (c, data, pars) := c.fetch (line * 64) 64
  (if pars.all fun v => v == 0 then c.cacheLine n g line data else c, data, pars)

/-- Lines that a hint or a stream prefetch brings in: as many of them as the cache takes, a free value (log 26). -/
def Chip.prefetchInto (c : Chip) (n g : Nat) (lines : List Nat) : Chip :=
  let k := Config.prefetchLines c.free % (lines.length + 1)
  (lines.take k).foldl (fun d l =>
    match d.region (l * 64) with
    | .localMem _ => (d.loadLine n g l).1
    | _ => d) c.draw

/-- The lines that a stream prefetch names after a miss on a line: up to four ahead, none across a 4 KiB boundary (R209). -/
def streamLines (line : Nat) : List Nat := ((List.range 4).map fun k => line + 1 + k).filter fun l => decide (l / 64 = line / 64)

/-- A plain load's miss: the line is read, and two misses on consecutive ascending lines start the stream prefetch (R209). -/
def Chip.missLine (c : Chip) (n g th line : Nat) : Chip × List Byte × List Nat :=
  let again := decide (((c.gal n g).thread th).lastMiss = some line)
  let (c, data, pars) := c.loadLine n g line
  let c := c.modThread n g th fun t => { t with lastMiss := some (line + 1) }
  (if again then c.prefetchInto n g (streamLines line) else c, data, pars)

/-- Bytes of a local-memory line as a thread's plain load sees them: from the data cache where the line is present. -/
def Chip.cachedBytes (c : Chip) (n g th a size : Nat) : Chip × List Byte :=
  match NMap.find (c.gal n g).dcache (a / 64) with
  | some data => (c, (data.drop (a % 64)).take size)
  | none =>
    let (c, data, pars) := c.missLine n g th (a / 64)
    (c.useWords (.docent n g) a ((pars.drop (a % 64 / 4)).take (wordsIn a size)) (c.galTask n g), (data.drop (a % 64)).take size)

/-! ### Plain loads and stores -/

/-- The register value of a plain load: the loaded bytes at the low end; the bits above a shorter load are free (log 6). -/
def Chip.loadedWord (c : Chip) (size : Nat) (bs : List Byte) : Word :=
  let low := ofLeBytes bs
  if size = 8 then w64 low else w64 (low + (Config.loadHigh c.free).toNat / 2 ^ (8 * size) * 2 ^ (8 * size))

/-- LD (R205 to R207). A privileged thread's load of register space is a register read; one of another size or alignment reads zeros
(R7). -/
def ld (n g th rd : Nat) (addr : Word) (size : Nat) (c : Chip) : Chip :=
  if size = 0 ∨ 8 < size then c
  else match c.reach n g th addr size false with
    | .fault k => c.docFault n g th k addr
    | .regs a =>
      let (c, v) := c.readSized a size
      c.draw.putReg n g th rd (c.loadedWord size (leBytes size v.toNat))
    | .mem a r =>
      let (c, bs) := match r with
        | .localMem _ => c.cachedBytes n g th a size
        | _ => c.useRange (.docent n g) a size (c.galTask n g)
      c.draw.putReg n g th rd (c.loadedWord size bs)

/-- LD. -/
def execLd (n : Wing) (g : GalIx) (th : Thread) (rd : Fin 32) (addr : Word) (size : Nat) (s : State) (i : DocIssue := {}) :
    Host.Outcome State Fault Refusal :=
  docRow n g th i (ld n.val g.val th.val rd.val addr size) s

/-- A store's bytes put into the line of the own data cache, where it is present (R207). -/
def Gal.patchCache (x : Gal) (a : Nat) (data : List Byte) : Gal :=
  match NMap.find x.dcache (a / 64) with
  | some l => { x with dcache := NMap.put x.dcache (a / 64) (l.take (a % 64) ++ data ++ l.drop (a % 64 + data.length)) }
  | none => x

/-- ST (R205 to R207): write-through. A privileged thread's store to register space is a register write; one of another size or alignment is
discarded (R7). -/
def st (n g th rs : Nat) (addr : Word) (size : Nat) (c : Chip) : Chip :=
  if size = 0 ∨ 8 < size then c
  else
    let v := ((c.gal n g).thread th).reg rs
    match c.reach n g th addr size false with
    | .fault k => c.docFault n g th k addr
    | .regs a => (if size = 8 ∧ a % 8 = 0 then c.regWrite .pendun false a v else c).nextPc n g th
    | .mem a r =>
      let data := leBytes size v.toNat
      let c := c.store a data [] (c.galTask n g)
      let c := match r with
        | .localMem _ => c.modGal n g fun x => x.patchCache a data
        | _ => c
      c.nextPc n g th

/-- ST. -/
def execSt (n : Wing) (g : GalIx) (th : Thread) (rs : Fin 32) (addr : Word) (size : Nat) (s : State) (i : DocIssue := {}) :
    Host.Outcome State Fault Refusal :=
  docRow n g th i (st n.val g.val th.val rs.val addr size) s

/-! ### Tagged accesses (R205, R218, R220, R221) -/

/-- A thread's tagged access: the thread waits at the word, and goes on once its home has performed the access. -/
def Chip.tagged (c : Chip) (n g th rd : Nat) (addr : Word) (kind : TagKind) (v : Word) : Chip :=
  match c.reach n g th addr 8 true with
  | .fault k => c.docFault n g th k addr
  | .regs _ => c
  | .mem a _ =>
    let task := c.galTask n g
    let c := (c.nextPc n g th).modThread n g th fun t => { t with wait := ThreadWait.word addr.toNat }
    let w : Wait := { addr := c.home a, issuer := .thread n g th rd, kind := kind, value := v, pars := [], since := c.tick.edges,
                      task := task }
    if kind = .fill then c.fillAccess w else c.access w

/-- LDF. -/
def execLdf (n : Wing) (g : GalIx) (th : Thread) (rd : Fin 32) (addr : Word) (s : State) (i : DocIssue := {}) : Host.Outcome State Fault Refusal :=
  docRow n g th i (fun c => c.tagged n.val g.val th.val rd.val addr .read 0) s

/-- LDC. -/
def execLdc (n : Wing) (g : GalIx) (th : Thread) (rd : Fin 32) (addr : Word) (s : State) (i : DocIssue := {}) : Host.Outcome State Fault Refusal :=
  docRow n g th i (fun c => c.tagged n.val g.val th.val rd.val addr .consume 0) s

/-- STF. It takes effect after the thread's earlier stores (R208), which each took effect as their own commands. -/
def execStf (n : Wing) (g : GalIx) (th : Thread) (rs : Fin 32) (addr : Word) (s : State) (i : DocIssue := {}) : Host.Outcome State Fault Refusal :=
  docRow n g th i (fun c =>
    c.tagged n.val g.val th.val 0 addr .fill (((c.gal n.val g.val).thread th.val).reg rs.val)) s

/-! ### Cache and ordering instructions -/

/-- FENCE: every earlier store of the thread has been written, since a store is one command (R205). -/
def execFence (n : Wing) (g : GalIx) (th : Thread) (s : State) (i : DocIssue := {}) : Host.Outcome State Fault Refusal :=
  docRow n g th i (fun c => c.nextPc n.val g.val th.val) s

/-- DINV: the lines that the range touches leave the data cache, and no prefetch of them is installed later (R205, R207, R209). -/
def dinv (n g th : Nat) (addr : Word) (len : Nat) (c : Chip) : Chip :=
  let gone := fun (line : Nat) => match c.ownLocal addr.toNat with
    | some a => decide (0 < len ∧ a / 64 ≤ line ∧ line ≤ (a + len - 1) / 64)
    | none => false
  (c.modGal n g fun x => { x with dcache := x.dcache.filter fun p => !gone p.1 }).nextPc n g th

/-- DINV. -/
def execDinv (n : Wing) (g : GalIx) (th : Thread) (addr : Word) (len : Nat) (s : State) (i : DocIssue := {}) : Host.Outcome State Fault Refusal :=
  docRow n g th i (dinv n.val g.val th.val addr len) s

/-- PREF: a hint, which the cache may take or not (log 26). -/
def pref (n g th : Nat) (addr : Word) (c : Chip) : Chip :=
  match c.ownLocal addr.toNat with
  | some a => (c.prefetchInto n g [a / 64]).nextPc n g th
  | none => c.nextPc n g th

/-- PREF. -/
def execPref (n : Wing) (g : GalIx) (th : Thread) (addr : Word) (s : State) (i : DocIssue := {}) : Host.Outcome State Fault Refusal :=
  docRow n g th i (pref n.val g.val th.val addr) s

/-! ### Commands (R210) -/

/-- Words of a command: two for the own gallery, four otherwise, from consecutive general registers. -/
def cmdLen (imm : BitVec 8) : Nat := if imm.toNat % 8 = 0 then 2 else 4

/-- CMD: the command enters the own gallery's queue, or an arbiter holds it; where there is no room, the thread parks with it. A kind
of 4 or more, an array that the task does not hold, and registers beyond the last are illegal. -/
def cmd (n g th : Nat) (imm : BitVec 8) (rs clk : Nat) (c : Chip) : Chip :=
  let t := (c.gal n g).thread th
  let task := c.galTask n g
  if 32 < rs + cmdLen imm then c.docFault n g th 2 0
  else
    let ws := (List.range (cmdLen imm)).map fun k => t.reg (rs + k)
    let park := fun (d : Chip) => d.modThread n g th fun t => { t with wait := ThreadWait.queueFull imm ws clk }
    if imm.toNat % 8 = 0 then
      let d := c.nextPc n g th
      if (c.gal n g).cmdQ.length < 16 then d.gEnter n g task (nth 0 ws 0) (nth 0 ws 1) clk else park d
    else match c.cmdTarget n imm task with
      | none => c.docFault n g th 2 0
      | some (m, u) =>
        let d := c.nextPc n g th
        if c.heldFor m u < 64 then d.holdCmd m u task n (c.roleOf n g) ws else park d

/-- CMD. -/
def execCmd (n : Wing) (g : GalIx) (th : Thread) (imm : BitVec 8) (rs : Fin 32) (clk : Nat) (s : State) (i : DocIssue := {}) :
    Host.Outcome State Fault Refusal :=
  docRow n g th i (cmd n.val g.val th.val imm rs.val clk) s

/-! ### Time and threads -/

/-- TICK: the own wing's task tick (R205). -/
def execTick (n : Wing) (g : GalIx) (th : Thread) (rd : Fin 32) (s : State) (i : DocIssue := {}) : Host.Outcome State Fault Refusal :=
  docRow n g th i (fun c => c.putReg n.val g.val th.val rd.val (c.rd (Reg.tickNow n.val))) s

/-- SPAWN: a free thread starts at the address, as privileged as its parent, its registers as they stand; with none free the result
is −1 (R205). Which free thread starts, and the result then, are free (log 27). -/
def spawn (n g th rd : Nat) (addr : Word) (c : Chip) : Chip :=
  let x := c.gal n g
  let free := (List.range 32).filter fun k => !(x.thread k).live
  if free.isEmpty then c.putReg n g th rd (BitVec.allOnes 64)
  else
    let k := nth 0 free (Config.spawnThread c.free % free.length)
    let d := c.modThread n g k fun t =>
      { t with live := true, halted := false, priv := (x.thread th).priv, pc := addr.truncate 44, wait := ThreadWait.ready, lastMiss := none }
    d.draw.putReg n g th rd (Config.spawnResult c.free)

/-- SPAWN. -/
def execSpawn (n : Wing) (g : GalIx) (th : Thread) (rd : Fin 32) (addr : Word) (s : State) (i : DocIssue := {}) : Host.Outcome State Fault Refusal :=
  docRow n g th i (spawn n.val g.val th.val rd.val addr) s

/-- EXIT: the calling thread ends (R205). -/
def execExit (n : Wing) (g : GalIx) (th : Thread) (s : State) (i : DocIssue := {}) : Host.Outcome State Fault Refusal :=
  docRow n g th i (fun c => c.modThread n.val g.val th.val fun t => { t with live := false }) s

end Sys2Proof.Machine
end

