-- ==== Sys2Proof/Machine/Meter.lean ====
section
/-! DEFINITION. The Turnstile (R446 to R453): sampling and integration, readings, the SMBus mailbox, and its own power and crystal.
It shares nothing with the part. -/

namespace Sys2Proof.Machine

/-- The Turnstile's public key (R453). -/
def tsPublic : List Byte := padTo 1952 0 (Config.mldsaPublic Config.turnstileSeed)

/-! ### Sampling (R447) -/

/-- One channel's sample: v_s in steps of 62.5 mV / 2^17, v_v in steps of 1.25 V / 2^18, limited to their ranges, and whether
either lay beyond its own (R447). -/
def tsClamp (vs vv : Int) : Int × Int × Bool :=
  let a := clampInt (-(2 ^ 17)) (2 ^ 17) vs
  let b := clampInt 0 (2 ^ 18) vv
  (a, b, decide (a ≠ vs ∨ b ≠ vv))

/-- TURNSTILE_SAMPLE: each channel's product is added to its sum, and clamped samples are counted. A channel left open reads zero
(R447). DESIGN CHOICE (log 45). -/
def turnstileSample (vs vv : List Int) (opens : BitVec 4) (t : Turnstile) : Turnstile :=
  if !t.powered then t
  else
    let ch := fun i => tsClamp (nth 0 vs i) (nth 0 vv i)
    let isOpen := fun i => opens.getLsbD i
    { t with
      delta := (List.range 4).map fun i => nth 0 t.delta i + if isOpen i then 0 else (ch i).1 * (ch i).2.1
      ovr := (List.range 4).map fun i => nth 0 t.ovr i + if isOpen i then 0 else b2n (ch i).2.2
      opens := (List.range 4).map fun i => nth false t.opens i || isOpen i }

/-- TURNSTILE_SAMPLE. -/
def execTurnstileSample (vs vv : List Int) (opens : BitVec 4) (s : State) : Host.Outcome State Fault Refusal :=
  onTs (turnstileSample vs vv opens) s

/-! ### Readings (R448, R449, R451, R452) -/

/-- A sum of products in a reading's units of 2^-32 V²·s: one product is 1 / 409,600 of a unit (R447, R449). -/
def tsUnits (x : Int) : Int :=
  x / 409600 + if x % 409600 ≠ 0 ∧ Config.tsRoundUp x = true then 1 else 0

/-- Bytes 0 to 255 of a reading (R449). -/
def tsHead (t : Turnstile) : List Byte :=
  let ov := fun i => nth 0 t.ovr i
  leBytes 1 1 ++ leBytes 1 4 ++
    leBytes 2 (b2n t.cold + b2n (!t.crystal) * 2 + bitsOf 4 (fun i => nth false t.opens i) * 2 ^ 4 +
      bitsOf 4 (fun i => decide (ov i ≠ 0)) * 2 ^ 8) ++ List.replicate 4 0 ++
    leBytes 8 t.seq ++ leBytes 8 t.secs ++ leBytes 8 t.powerons ++ shake256 32 tsPublic ++
    ((List.range 4).flatMap fun i => leBytes 8 (twos 64 (tsUnits (nth 0 t.total i))) ++ leBytes 8 (twos 64 (tsUnits (nth 0 t.delta i)))) ++
    ((List.range 4).flatMap fun i => leBytes 4 (ov i)) ++ List.replicate 16 0 ++ padTo 32 0 Config.turnstileFwdig ++ List.replicate 64 0

/-- SEQ of a reading's bytes (R449). -/
def tsSeq (r : List Byte) : Nat := ofLeBytes ((r.drop 8).take 8)

/-- The slot of a reading: each takes the next of 16 (R448). -/
def tsSlot (r : List Byte) : Nat := (tsSeq r + 15) % 16

/-- A reading placed in its slot (R448). -/
def Turnstile.place (t : Turnstile) (r : List Byte) : Turnstile :=
  { t with slots := NMap.set (fun _ => []) t.slots (tsSlot r) r, newest := tsSlot r }

/-- A reading that was held back is placed (R451). -/
def Turnstile.placeHeld (t : Turnstile) : Turnstile :=
  match t.held with
  | some r => { t.place r with held := none }
  | none => t

/-- The older of the two sealed copies takes a reading's continuing values (R452). -/
def Turnstile.seal (t : Turnstile) : Turnstile :=
  let x : TsCopy := { seq := t.seq, total := t.total, secs := t.secs }
  match t.copy0, t.copy1 with
  | none, _ => { t with copy0 := some x }
  | _, none => { t with copy1 := some x }
  | some a, some b => if a.seq < b.seq then { t with copy0 := some x } else { t with copy1 := some x }

/-- TURNSTILE_READING: the interval closes; the reading is signed, sealed, and placed in the next slot, or held back while a read that
started inside that slot is in progress (R448, R451). -/
def turnstileReading (t : Turnstile) : Turnstile :=
  if !t.powered then t
  else
    let t := t.placeHeld
    let t := { t with
      seq := t.seq + 1, secs := t.secs + 60
      total := (List.range 4).map fun i => nth 0 t.total i + nth 0 t.delta i }
    let head := tsHead t
    let r := head ++ padTo 3309 0 (Config.mldsaSign 1 Config.turnstileSeed head t.draws)
    let t := t.seal
    let t := { t with
      cold := false, draws := t.draws + 1
      delta := List.replicate 4 0, ovr := List.replicate 4 0, opens := List.replicate 4 false }
    if t.reading = some (tsSlot r) ∧ t.timedOut = false then { t with held := some r } else t.place r

/-- TURNSTILE_READING. -/
def execTurnstileReading (s : State) : Host.Outcome State Fault Refusal := onTs turnstileReading s

/-! ### The SMBus mailbox (R450, R451) -/

/-- A byte of the info area (R450). -/
def tsInfo (t : Turnstile) (a : Nat) : Byte :=
  let newest := match NMap.find t.slots t.newest with | some r => tsSeq r | none => t.seq
  if a = 0 then 1
  else if 8 ≤ a ∧ a < 16 then nth 0 (leBytes 8 newest) (a - 8)
  else if a = 16 then BitVec.ofNat 8 t.newest
  else if 32 ≤ a ∧ a < 64 then nth 0 (shake256 32 tsPublic) (a - 32)
  else if 64 ≤ a ∧ a < 96 then nth 0 Config.turnstileFwdig (a - 64)
  else if a = 96 then 2
  else 0

/-- The byte that the mailbox gives at a pointer (R450). DESIGN CHOICE (log 41): a slot with no reading and the end of the
certificate's area read 0xFF. -/
def tsByte (t : Turnstile) (a : Nat) : Byte :=
  if a < 0x100 then tsInfo t a
  else if a < 0x8A0 then nth 0 tsPublic (a - 0x100)
  else if 0x1000 ≤ a ∧ a < 0x2000 then nth 0xFF (leBytes 4 Config.turnstileCert.length ++ Config.turnstileCert) (a - 0x1000)
  else if 0x10000 ≤ a ∧ a < 0x20000 then nth 0xFF (NMap.get (fun _ => []) t.slots ((a - 0x10000) / 0x1000)) (a % 0x1000)
  else 0xFF

/-- The read transaction in progress ends, and a reading held back for it is placed (R451). -/
def Turnstile.endRead (t : Turnstile) : Turnstile := { t.placeHeld with reading := none, timedOut := false }

/-- SMBUS_POINTER_WRITE: exactly 3 bytes set the pointer, least significant first; any other length has no effect (R450). -/
def smbusPointerWrite (data : List Byte) (t : Turnstile) : Turnstile :=
  if !t.powered then t
  else
    let t := t.endRead
    if data.length = 3 then { t with pointer := ofLeBytes data } else t

/-- SMBUS_POINTER_WRITE. -/
def execSmbusPointerWrite (data : List Byte) (s : State) : Host.Outcome State Fault Refusal := onTs (smbusPointerWrite data) s

/-- The slot inside which a pointer lies; 16 for none. -/
def slotOfPointer (a : Nat) : Nat := if 0x10000 ≤ a ∧ a < 0x20000 then (a - 0x10000) / 0x1000 else 16

/-- SMBUS_READ: bytes from the pointer onwards, which rises by one per byte; after 100 ms every byte is 0xFF (R450, R451). -/
def smbusRead (len : Nat) (last : Bool) (t : Turnstile) : Turnstile :=
  if !t.powered then t
  else
    let out := (List.range len).map fun k => if t.timedOut then 0xFF else tsByte t ((t.pointer + k) % 2 ^ 24)
    let t := { t with
      out := out, pointer := (t.pointer + len) % 2 ^ 24
      reading := some (match t.reading with | some k => k | none => slotOfPointer t.pointer) }
    if last then t.endRead else t

/-- SMBUS_READ. -/
def execSmbusRead (len : Nat) (last : Bool) (s : State) : Host.Outcome State Fault Refusal := onTs (smbusRead len last) s

/-- SMBUS_READ_TIMEOUT: a read has lasted longer than 100 ms (R451). -/
def smbusReadTimeout (t : Turnstile) : Turnstile :=
  if t.powered && t.reading.isSome then { t.placeHeld with timedOut := true } else t

/-- SMBUS_READ_TIMEOUT. -/
def execSmbusReadTimeout (s : State) : Host.Outcome State Fault Refusal := onTs smbusReadTimeout s

/-! ### Power and crystal (R446, R452) -/

/-- The newer intact sealed copy (R452). -/
def Turnstile.newerCopy (t : Turnstile) : TsCopy :=
  match t.copy0, t.copy1 with
  | none, none => { seq := 0, total := List.replicate 4 0, secs := 0 }
  | some a, none => a
  | none, some b => b
  | some a, some b => if a.seq < b.seq then b else a

/-- TURNSTILE_POWER_UP: VDD_TS comes up; SEQ and TOTAL go on from the newer sealed copy, and the first reading is COLD (R452). -/
def turnstilePowerUp (t : Turnstile) : Turnstile :=
  if t.powered then t
  else
    let x := t.newerCopy
    { t with powered := true, cold := true, seq := x.seq, total := x.total, secs := x.secs, powerons := t.powerons + 1 }

/-- TURNSTILE_POWER_UP. -/
def execTurnstilePowerUp (s : State) : Host.Outcome State Fault Refusal := onTs turnstilePowerUp s

/-- The older of the two sealed copies fails its check (R452). -/
def Turnstile.loseOlder (t : Turnstile) : Turnstile :=
  match t.copy0, t.copy1 with
  | some a, some b => if a.seq < b.seq then { t with copy0 := none } else { t with copy1 := none }
  | _, _ => t

/-- TURNSTILE_POWER_LOSS: VDD_TS fails. What is not in sealed flash is lost, the integral since the last stored reading with it
(R452). `torn`: it fails during a write to sealed flash, and the older copy, which that write was replacing, is no longer intact. -/
def turnstilePowerLoss (torn : Bool) (t : Turnstile) : Turnstile :=
  let t := if torn && t.powered then t.loseOlder else t
  { t with
    powered := false, delta := List.replicate 4 0, ovr := List.replicate 4 0, opens := List.replicate 4 false
    slots := [], newest := 0, held := none, pointer := 0, reading := none, timedOut := false, out := [] }

/-- TURNSTILE_POWER_LOSS. -/
def execTurnstilePowerLoss (s : State) (torn : Bool := false) : Host.Outcome State Fault Refusal := onTs (turnstilePowerLoss torn) s

/-- CRYSTAL_FAIL: the internal oscillator takes over, and readings carry CLOCK_FAULT (R446). -/
def crystalFail (t : Turnstile) : Turnstile := { t with crystal := false }

/-- CRYSTAL_FAIL. -/
def execCrystalFail (s : State) : Host.Outcome State Fault Refusal := onTs crystalFail s

/-- CRYSTAL_RECOVER: CLOCK_FAULT leaves the readings (R446). -/
def crystalRecover (t : Turnstile) : Turnstile := { t with crystal := true }

/-- CRYSTAL_RECOVER. -/
def execCrystalRecover (s : State) : Host.Outcome State Fault Refusal := onTs crystalRecover s

end Sys2Proof.Machine
end

