-- ==== Sys2Proof/Machine/Tick.lean ====
section
/-! DEFINITION. The tick: schedule tables and power states (R30, R31, R45 to R47, R442), late commands and the slip limit (R33 to
R35), starting and stopping a task at an edge (R43, R470), the census task (R71), the cascade's tick and pause (R38 to R44), and
what a tick edge does. -/

namespace Sys2Proof.Machine

/-! ### Commands that are not complete (R33, R34) -/

/-- The tag of a command that a docent thread still holds, because it found no room. -/
def parkedTag (task : Option Nat) (t : ThreadSt) : Option CmdTag :=
  match t.wait with
  | .queueFull imm ws _ =>
    some (if imm.toNat % 8 = 0 then
        { task := task, due := gDue (nth 0 ws 1), budget := (Config.galBudget (nth 0 ws 0) (nth 0 ws 1)).val + 1 }
      else { task := task, due := lastDue (ws.getLastD 0), budget := lastBudget (ws.getLastD 0) })
  | _ => none

/-- Tags of a gallery's commands that are not complete. DEDUCED: a SWAP is complete once its swap has been asked. -/
def Chip.galTags (c : Chip) (n g : Nat) : List CmdTag :=
  let x := c.gal n g
  (x.cmdQ ++ x.pendW ++ x.swapDue).map (fun q => q.tag) ++ x.wjob.toList.map (fun j => j.tag) ++ x.mvms.map (fun m => m.tag) ++
    x.threads.filterMap fun (p : Nat × ThreadSt) => parkedTag (c.galTask n g) p.2

/-- Tags of a matrix array's commands that are not complete. -/
def Arr.tags (r : Arr) : List CmdTag := (r.queue ++ r.load.toList ++ r.flush.toList).map fun u => u.tag

/-- Tags of the commands that a wing holds and has not completed. -/
def Chip.wingTags (c : Chip) (n : Nat) : List CmdTag :=
  let w := c.wing n
  w.held.map (fun h => h.tag) ++ w.mx0.tags ++ w.mx1.tags ++ w.vec.queue.map (fun u => u.tag) ++ w.vec.run.toList.map (fun r => r.cmd.tag) ++
    w.dma.map (fun (p : Nat × DmaJob) => p.2.cmd.tag) ++ (c.galsOf n).flatMap fun g => c.galTags n g

/-- A command of task t is more than `over` ticks past its deadline, or at it (R33, R35). -/
def Chip.isLate (c : Chip) (t over_ : Nat) (g : CmdTag) : Bool :=
  decide (g.task = some t ∧ g.due + g.budget + over_ ≤ c.elapsed t)

/-- Wings that hold a late command of a task at this edge (R34). -/
def Chip.lateWings (c : Chip) (t : Nat) : Nat := (List.range 16).countP fun n => (c.wingTags n).any (c.isLate t 0)

/-- SLIP_STOP: a command of the task is more than the slip limit past its deadline, and the task stops at the next edge (R35). -/
def slipStop (t : Nat) (c : Chip) : Chip :=
  if c.running t && (List.range 16).any (fun n => (c.wingTags n).any (c.isLate t (c.fld Reg.tickSlip 15 0 + 1))) then
    (c.stopTask t 0x10).tickEvent 3 t
  else c

/-- SLIP_STOP. -/
def execSlipStop (t : Slot) (s : State) : Host.Outcome State Fault Refusal := onChip (slipStop t.val) s

/-! ### Schedule tables (R30, R31, R53) -/

/-- A wing's schedule entries, from its wing store. -/
def Chip.schedule (c : Chip) (n : Nat) : List Word :=
  (List.range (c.fld (Reg.schedLen n) 12 0)).map fun k => c.readWord (c.fld (Reg.schedBase n) 43 0 + 8 * k)

/-- LEN of an entry. -/
def entLen (w : Word) : Nat := wbits w 15 0
/-- WORK of an entry. -/
def entWork (w : Word) : Bool := w.getLsbD 16
/-- MAXST of an entry. -/
def entMax (w : Word) : Nat := wbits w 18 17
/-- LINK0 or LINK1 of an entry. -/
def entLink (w : Word) (a : Nat) : Bool := w.getLsbD (19 + a)

/-- The current entry of a wing's table. -/
def Chip.entryNow (c : Chip) (n : Nat) : Word := nth 0 (c.schedule n) (c.fld (Reg.schedPos n) 11 0)

/-- The table position set: ENTRY and LEFT. -/
def Chip.setPos (c : Chip) (n entry left : Nat) : Chip := (c.setFld (Reg.schedPos n) 11 0 entry).setFld (Reg.schedPos n) 31 16 left

/-- The table position of a wing moved on by one tick (R31); the wing reads the entry that it reaches, with its parity (R366). -/
def Chip.advancePos (c : Chip) (n : Nat) : Chip :=
  let entry := c.fld (Reg.schedPos n) 11 0
  let left := c.fld (Reg.schedPos n) 31 16
  if 1 < left then c.setPos n entry (left - 1)
  else
    let next := if entry + 1 < c.fld (Reg.schedLen n) 12 0 then entry + 1 else 0
    let c := (c.useRange (.wing n) (c.fld (Reg.schedBase n) 43 0 + 8 * next) 8 none).1
    c.setPos n next (entLen (nth 0 (c.schedule n) next))

/-! ### Power states (R45 to R47, R442) -/

/-- The idle run that starts with entries given: its further ticks and shallowest MAXST, none where no entry has work (R45). -/
def idleRun : List Word → Nat → Nat → Option (Nat × Nat)
  | [], _, _ => none
  | w :: ws, d, bound => if entWork w then some (d, bound) else idleRun ws (d + entLen w) (min bound (entMax w))

/-- The minimum idle ticks of a state; 0 acts as 1 (R54). -/
def Chip.minIdle (c : Chip) (n s : Nat) : Nat :=
  max 1 (if s = 1 then c.fld (Reg.pwrMinIdle n) 15 0 else if s = 2 then c.fld (Reg.pwrMinIdle n) 31 16 else c.fld (Reg.pwrMinIdle n) 47 32)

/-- The deepest state that the table allows a wing from this edge on, with the task tick at which its wake begins (R45). -/
def Chip.chooseState (c : Chip) (n : Nat) : Nat × Option Nat :=
  let es := c.schedule n
  let pos := c.fld (Reg.schedPos n) 11 0
  let top := c.fld (Reg.pwrState n) 5 4
  let pick := fun (ok : Nat → Bool) => ([3, 2, 1].find? ok).getD 0
  match idleRun (es.drop (pos + 1) ++ es.take (pos + 1)) (c.fld (Reg.schedPos n) 31 16) (entMax (c.entryNow n)) with
  | some (d, bound) =>
    let s := pick fun s => decide (wakeCost s c.period + 1 ≤ d ∧ c.minIdle n s ≤ d ∧ s ≤ bound ∧ s ≤ top)
    (s, if s = 0 then none else some (c.taskTick n + d - wakeCost s c.period))
  | none => (pick fun s => decide (s ≤ es.foldl (fun m w => min m (entMax w)) 3 ∧ s ≤ top), none)

/-- A wing enters a state, with the task tick at which it is to wake. -/
def Chip.sleepTo (c : Chip) (n : Nat) (s : Nat × Option Nat) : Chip :=
  (if c.wingState n = s.1 then c else c.enterState n s.1).modWing n fun w => { w with wakeAt := s.2 }

/-- A wing whose task runs picks its state at an edge (R45, R46). One that sleeps to a planned wake stays until it; one in a deeper state
than the table now allows, as at the task's start, enters the state that the table gives. DEDUCED (log 114). -/
def Chip.pickState (c : Chip) (n : Nat) : Chip :=
  let w := c.wing n
  if w.waking.isSome then c
  else
    match w.wakeAt with
    | some e =>
      if e ≤ c.taskTick n then (c.modWing n fun w => { w with wakeAt := none }).wakeUp n else c
    | none =>
      if entWork (c.entryNow n) then c.wakeUp n
      else if !(c.wingTags n).isEmpty then c
      else
        let s := c.chooseState n
        if s.1 = 0 then c.wakeUp n else c.sleepTo n s

/-- Ports whose LINK bit is clear in the current entry sleep while their wing is in nap or rest (R47). -/
def Chip.sleepLinks (c : Chip) (n : Nat) : Chip :=
  if 2 ≤ c.wingState n then
    [0, 1].foldl (fun d a => if entLink (d.entryNow n) a then d else d.portSleep n a) c
  else c

/-- A wing that no begun task holds stays in rest while it holds no command; the register path keeps it awake (R165, R442). -/
def Chip.restIdle (c : Chip) (n : Nat) : Chip :=
  let w := c.wing n
  if c.wingState n = 3 ∨ w.keepAwake = true ∨ w.waking.isSome = true ∨ (c.wingTags n).isEmpty = false then c else c.enterState n 3

/-- A wing's state at an edge. In a pause it keeps its state (R44). -/
def Chip.wingEdge (c : Chip) (n : Nat) : Chip :=
  if c.paused then c
  else match c.holder n with
    | some t => if c.running t then (c.pickState n).sleepLinks n else if (c.task t).started then c else c.restIdle n
    | none => c.restIdle n

/-! ### The census task (R71) -/

/-- The task whose steps or cycles are census steps: the training task that has begun, else the one in the lowest slot. -/
def Chip.censusOwner (c : Chip) : Option Nat :=
  let on := c.tasks.filter fun p => decide (p.2.phase = .running)
  match on.find? fun p => match p.2.img with | some im => im.training | none => false with
  | some p => some p.1
  | none => on.head?.map fun p => p.1

/-- The first census step of a census task begins: it fixes the scales of the step in force (R72). -/
def Chip.beginCensus (c : Chip) : Chip :=
  let (c, m) := c.readRecs
  { c with step := { c.step with recs := m, censusArmed := true } }

/-- The census task reviewed after a task begins or stops. A new one counts from its first step or cycle that begins after the
change; a task that begins now begins its first. -/
def Chip.reviewCensus (c : Chip) : Chip :=
  let t := c.censusOwner
  if t = c.step.censusTask then c
  else
    let c := { c with step := { c.step with censusTask := t, censusArmed := false } }
    match t with
    | some k => if c.elapsed k = 0 then c.beginCensus else c
    | none => c

/-- A cycle of the census task ends at this edge: the census step advances, unless the cycle had begun before the change (R71). A
training task's steps are counted by their outcomes. -/
def Chip.cycleEdge (c : Chip) (t : Nat) : Chip :=
  if c.step.censusTask = some t ∧ c.trainTask = none ∧ c.elapsed t % c.cycle t = 0 then
    if c.step.censusArmed then c.advanceCensus else c.beginCensus
  else c

/-! ### Starting (R43) -/

/-- TASK_START: the task begins at the edge whose count is its start tick, its wings at entry 0. -/
def taskStart (t : Nat) (c : Chip) : Chip :=
  let s := c.task t
  if c.up && !c.halted && decide (s.phase = .ready ∧ s.startSet = true ∧ s.stopReq = none ∧
      c.fld (Reg.taskStart t) 47 0 = c.tickCount) && c.tick.hasCount then
    let c := (c.wr (Reg.taskPerf t) 0).modTask t fun s => { s with phase := .running, started := true }
    let c := (c.taskWings t).foldl (fun d n =>
      let d := (d.wr (Reg.tickNow n) 0).setPos n 0 (entLen (nth 0 (d.schedule n) 0))
      d.wingEdge n) c
    c.reviewCensus.tickEvent 0 t
  else c

/-- TASK_START. -/
def execTaskStart (t : Slot) (s : State) : Host.Outcome State Fault Refusal := onChip (taskStart t.val) s

/-! ### A task's own work at an edge -/

/-- Task ticks, the elapsed count and the table positions of a running task advance, its overruns are counted, its plan's copies
come due, and a cycle may end (R34, R37, R53, R71, R272 to R275). -/
def Chip.taskEdge (c : Chip) (t : Nat) : Chip :=
  if c.running t && !c.paused then
    let c := c.setFld (Reg.taskPerf t) 47 0 ((c.elapsed t + 1) % 2 ^ 48)
    let c := c.satBy (Reg.taskPerf t) 63 48 (c.lateWings t)
    let c := (c.taskWings t).foldl (fun d n => (d.setFld (Reg.tickNow n) 47 0 (d.elapsed t)).advancePos n) c
    (c.planEdge t).cycleEdge t
  else c

/-- A task that is to stop does so at this edge (R377, R378, R396, R442, R470). A task stopped by a fault is held. -/
def Chip.stopEdgeOf (c : Chip) (t : Nat) : Chip :=
  let s := c.task t
  match s.stopReq with
  | none => c
  | some reason =>
    if c.stoppable t then
      let tick := if s.started then c.elapsed t else 0
      let c := c.windDown t
      let c := c.modTask t fun s =>
        { s with phase := .stopped, stopReq := none, stopTick := tick, stopEdge := c.tick.halfUs, held := s.byFault }
      let c := c.tell t 8 3 reason tick
      let c := if s.byFault then c else c.endTask t
      if s.started then
        (c.taskWings t).foldl (fun d n => d.sleepTo n (min 2 (d.fld (Reg.pwrState n) 5 4), none)) c
      else c
    else c

/-! ### The wings at an edge -/

/-- The Conservator and the galleries of wing n at the edge that ends a tick of period p: temperature, ages, droop, and the swaps whose due tick
has begun (R28, R137 to R139, R148, R156). -/
def Chip.galleryEdge (c : Chip) (p n : Nat) : Chip :=
  let c :=
    if c.wingState n = 3 then c
    else
      let c := if (c.wing n).stale && !c.sensorOld n (4 * c.tAge n) then c.modWing n fun w => { w with stale := false } else c
      let c := c.setFld (Reg.consTemp n) 11 0 (c.wingTemp n)
      let step := c.droopNow n p
      (c.galsOf n).foldl (fun d g => d.consGal n g step) c
  (c.galsOf n).foldl (fun d g => d.promoteSwaps n g) c

/-! ### The cascade's tick (R38 to R44) -/

/-- CASCADE_PAUSE: SYNC[2] as other parts drive it changes; it takes effect at the next edge (R44). -/
def cascadePause (asserted : Bool) (c : Chip) : Chip :=
  if c.up then { c with tick := { c.tick with pauseSeen := asserted } } else c

/-- CASCADE_PAUSE. -/
def execCascadePause (asserted : Bool) (s : State) : Host.Outcome State Fault Refusal := onChip (cascadePause asserted) s

/-- MASTER_LISTEN_END: a master that heard pulses sets DUP_MASTER and refuses starts from now on; else it drives (R38). -/
def masterListenEnd (c : Chip) : Chip :=
  if c.up && c.tick.listening then
    if c.tick.heard then
      { c with tick := { c.tick with listening := false, dupRefuse := true } }.raise Reg.tickStatus 3 (Reg.tickCtr 3)
    else { c with tick := { c.tick with listening := false, driving := true } }
  else c

/-- MASTER_LISTEN_END. -/
def execMasterListenEnd (s : State) : Host.Outcome State Fault Refusal := onChip masterListenEnd s

/-- SYNC_PULSE: a pulse arrives on SYNC[0], the local edge `offset` nanoseconds from it (R38, R40, R42). -/
def syncPulse (offset : Int) (c : Chip) : Chip :=
  if !c.up then c
  else if c.tick.listening then { c with tick := { c.tick with heard := true } }
  else if c.flag Reg.tickCtrl 0 then c
  else { c with tick := { c.tick with pulsed := true, missed := 0 } }.offsetSeen offset

/-- SYNC_PULSE. -/
def execSyncPulse (offset : Int) (s : State) : Host.Outcome State Fault Refusal := onChip (syncPulse offset) s

/-- TICK_LOSS: sixteen pulses in a row were missed (R42). -/
def tickLoss (c : Chip) : Chip :=
  if c.up && !c.flag Reg.tickCtrl 0 && !c.halted && !c.haltDue && decide (16 ≤ c.tick.missed) then c.tickLost else c

/-- TICK_LOSS. -/
def execTickLoss (s : State) : Host.Outcome State Fault Refusal := onChip tickLoss s

/-- PERIOD_PROPAGATE: the master's PERIOD is known; one that differs sets PERIOD_MIS (R41). DESIGN CHOICE (log 111): a flag that software
clears while the periods differ is set again at the next PERIOD_PROPAGATE. -/
def periodPropagate (p : Nat) (c : Chip) : Chip :=
  if c.up then
    let c := { c with tick := { c.tick with masterP := some p } }
    if c.periodMis then c.raise Reg.tickStatus 4 (Reg.tickCtr 4) else c
  else c

/-- PERIOD_PROPAGATE. -/
def execPeriodPropagate (p : BitVec 8) (s : State) : Host.Outcome State Fault Refusal := onChip (periodPropagate p.toNat) s

/-! ### The edge -/

/-- Time and the cascade's count at an edge: the tick that it ends is counted, but for the first edge, which ends none. The tick that begins
has the period now in the register (R28, R29, R43). DESIGN CHOICE (log 110): an edge without a pulse counts as a missed pulse whatever the
master's period (R41, R42). -/
def Chip.timeEdge (c : Chip) : Chip :=
  let k := c.tick
  let master := c.flag Reg.tickCtrl 0
  let first := k.driving && !k.hasCount
  let c := if first then c.setFld Reg.tickCount 47 0 0
    else if k.hasCount then c.setFld Reg.tickCount 47 0 ((c.tickCount + 1) % 2 ^ 48) else c
  let o := if c.anyRunning then (if 2 < k.offset then k.offset - 2 else if k.offset < -2 then k.offset + 2 else 0) else 0
  let ended := fun (x : Nat) => if k.edges = 0 then 0 else x
  { c with tick := { k with
      edges := k.edges + 1, edgeClk := k.edgeClk + ended c.tickClks, slotCount := k.slotCount + ended c.slots,
      halfUs := k.halfUs + ended c.period,
      curPeriod := c.fld Reg.tickPeriod 7 0, hasCount := k.hasCount || first, offset := o,
      missed := if master || k.pulsed then 0 else k.missed + 1, pulsed := false } }

/-- The pause at an edge, the moves that wait for one, and what the part drives after it (R44, R261, R269). -/
def Chip.pauseEdge (c : Chip) : Chip :=
  let was := c.paused
  let c := c.setFlag Reg.tickCtrl 2 (c.tick.pauseSeen || c.tick.pauseDrive)
  let c := if was = c.paused then c else c.tickEvent (if was then 2 else 1) 0
  let c := if c.paused then
      { c with move := c.move.map fun (m : Move) => if m.pausedAt.isNone then { m with pausedAt := some c.tick.halfUs } else m }
    else c
  let c := c.applyPins.startMove
  { c with tick := { c.tick with pauseDrive := c.flag Reg.tickCtrl 1 } }

/-- A part that is to halt does so (R23, R377). -/
def Chip.haltEdge (c : Chip) : Chip := if c.haltDue then { c with haltDue := false }.setFlag Reg.fltState 1 true else c

/-- The signals of packets that waited are applied as far as they can be. -/
def Chip.signalEdge (c : Chip) : Chip := (List.range 16).foldl (fun d n => (d.flushSigs n 0).flushSigs n 1) c

/-- An uncorrectable fault in a unit of the hub die: tier 3 (R23, R26, R380). -/
def Chip.hubFault (c : Chip) (unit : Nat) : Chip :=
  c.faultTier3 { tier := 3, level := 3, wing := 0, source := 0x10, gallery := 0, unit := 0, task := 0, verdict := 0, detail := unit }

/-- TICK_EDGE, with the levels of SYNC[7:0] and the unit of the hub die found at fault in the tick that ends, if any (R23, R28, R29, R34, R37, R44, R45, R53, R71, R138, R148, R378, R437, R470). A halted part's
wings do nothing more. DEDUCED (log 90). -/
def tickEdge (sync : BitVec 8) (hub : Option (BitVec 32)) (c : Chip) : Chip :=
  if !c.up then c
  else
    let ended := if c.tick.edges = 0 then 0 else c.period
    let c := match hub with | some u => c.hubFault u.toNat | none => c
    let c := ((c.timeEdge.setFld Reg.bootSync 7 0 sync.toNat).haltEdge)
    let c := { c with dies := NMap.update (fun _ => Die.reset) (fun _ d => { d with count := 0 }) c.dies }
    if c.halted then c
    else
      let c := c.pauseEdge
      let ts := c.tasks.map Prod.fst
      let c := ts.foldl (fun d t => d.taskEdge t) c
      let c := (ts.foldl (fun d t => d.stopEdgeOf t) c).reviewCensus
      let c := (List.range 16).foldl (fun d n => ((d.galleryEdge ended n).wingEdge n).notePath n) c
      ({ c with free := c.free + 16 }).signalEdge.settleRecovery.downReady

/-- TICK_EDGE. -/
def execTickEdge (sync : BitVec 8) (s : State) (hub : Option (BitVec 32) := none) : Host.Outcome State Fault Refusal :=
  onChip (tickEdge sync hub) s

end Sys2Proof.Machine
end

