-- ==== Sys2Proof/Machine/Dispatch.lean ====
section
/-! DEFINITION. What each command does: one arm per constructor, each a direct call of its meaning. -/

namespace Sys2Proof.Machine

/-- The effect of a command on everything but the queue. DESIGN CHOICE (log 52). -/
def exec (i : Instr) (s : State) : Host.Outcome State Fault Refusal :=
  match i with
  | .tickEdge sync hub => Sys2Proof.Machine.execTickEdge sync s hub
  | .wakeComplete n => Sys2Proof.Machine.execWakeComplete n s
  | .slipStop t => Sys2Proof.Machine.execSlipStop t s
  | .periodWrite w v => Sys2Proof.Machine.execPeriodWrite w v s
  | .taskStartWrite w t v => Sys2Proof.Machine.execTaskStartWrite w t v s
  | .taskStart t => Sys2Proof.Machine.execTaskStart t s
  | .pauseWrite w v => Sys2Proof.Machine.execPauseWrite w v s
  | .cascadePause asserted => Sys2Proof.Machine.execCascadePause asserted s
  | .masterListenEnd => Sys2Proof.Machine.execMasterListenEnd s
  | .syncPulse offset => Sys2Proof.Machine.execSyncPulse offset s
  | .tickLoss => Sys2Proof.Machine.execTickLoss s
  | .periodPropagate p => Sys2Proof.Machine.execPeriodPropagate p s
  | .commandIssue n u => Sys2Proof.Machine.execCommandIssue n u s
  | .amaxCombine step es => Sys2Proof.Machine.execAmaxCombine step es s
  | .censusRecordWrite step x => Sys2Proof.Machine.execCensusRecordWrite step x s
  | .mvm n g t w0 w1 clk => Sys2Proof.Machine.execMvm n g t w0 w1 clk s
  | .mvmStart n g slot => Sys2Proof.Machine.execMvmStart n g slot s
  | .mvmComplete n g bad => Sys2Proof.Machine.execMvmComplete n g s bad
  | .write n g => Sys2Proof.Machine.execWrite n g s
  | .writeActivate n g => Sys2Proof.Machine.execWriteActivate n g s
  | .stagedCodesArrive n g => Sys2Proof.Machine.execStagedCodesArrive n g s
  | .cellVerify n g v slice code => Sys2Proof.Machine.execCellVerify n g v slice code s
  | .planeWriteComplete n g => Sys2Proof.Machine.execPlaneWriteComplete n g s
  | .swap n g => Sys2Proof.Machine.execSwap n g s
  | .swapRequestWrite w n g v => Sys2Proof.Machine.execSwapRequestWrite w n g v s
  | .swapTakeEffect n g => Sys2Proof.Machine.execSwapTakeEffect n g s
  | .spareRotationPoint n => Sys2Proof.Machine.execSpareRotationPoint n s
  | .vitrineRotate n g v => Sys2Proof.Machine.execVitrineRotate n g v s
  | .spareSelWrite w n v => Sys2Proof.Machine.execSpareSelWrite w n v s
  | .calibrationComplete n g v passed => Sys2Proof.Machine.execCalibrationComplete n g v passed s
  | .columnMeasureDone n g v p col z r => Sys2Proof.Machine.execColumnMeasureDone n g v p col z r s
  | .coefAged n g v p => Sys2Proof.Machine.execCoefAged n g v p s
  | .corrDataWrite w n g v sameClock => Sys2Proof.Machine.execCorrDataWrite w n g v sameClock s
  | .corrDataRead w n g => Sys2Proof.Machine.execCorrDataRead w n g s
  | .watchConversion d code => Sys2Proof.Machine.execWatchConversion d code s
  | .urgentRequest d src ch => Sys2Proof.Machine.execUrgentRequest d src ch s
  | .cmdW1Write w n g v clk => Sys2Proof.Machine.execCmdW1Write w n g v clk s
  | .registerPathIdle n => Sys2Proof.Machine.execRegisterPathIdle n s
  | .tempStale n => Sys2Proof.Machine.execTempStale n s
  | .groupDue n g p m => Sys2Proof.Machine.execGroupDue n g p m s
  | .groupLate n g p m => Sys2Proof.Machine.execGroupLate n g p m s
  | .groupExpired n g p m => Sys2Proof.Machine.execGroupExpired n g p m s
  | .liveRehangStart n g => Sys2Proof.Machine.execLiveRehangStart n g s
  | .idleRehangStart n g => Sys2Proof.Machine.execIdleRehangStart n g s
  | .refreshSlotStart n g p => Sys2Proof.Machine.execRefreshSlotStart n g p s
  | .refreshSlotEnd n g => Sys2Proof.Machine.execRefreshSlotEnd n g s
  | .rehangComplete n g => Sys2Proof.Machine.execRehangComplete n g s
  | .movedResponse n g => Sys2Proof.Machine.execMovedResponse n g s
  | .pass n a upsets => Sys2Proof.Machine.execPass n a upsets s
  | .load n a => Sys2Proof.Machine.execLoad n a s
  | .loadComplete n a => Sys2Proof.Machine.execLoadComplete n a s
  | .flush n a => Sys2Proof.Machine.execFlush n a s
  | .flushBegin n a => Sys2Proof.Machine.execFlushBegin n a s
  | .arrayFenceWrite w n a v => Sys2Proof.Machine.execArrayFenceWrite w n a v s
  | .vectorCommand n => Sys2Proof.Machine.execVectorCommand n s
  | .vVend n => Sys2Proof.Machine.execVVend n s
  | .vMov n => Sys2Proof.Machine.execVMov n s
  | .vBcast n => Sys2Proof.Machine.execVBcast n s
  | .vAdd n => Sys2Proof.Machine.execVAdd n s
  | .vSub n => Sys2Proof.Machine.execVSub n s
  | .vMul n => Sys2Proof.Machine.execVMul n s
  | .vMin n => Sys2Proof.Machine.execVMin n s
  | .vMax n => Sys2Proof.Machine.execVMax n s
  | .vAbs n => Sys2Proof.Machine.execVAbs n s
  | .vNeg n => Sys2Proof.Machine.execVNeg n s
  | .vDiv n => Sys2Proof.Machine.execVDiv n s
  | .vSqrt n => Sys2Proof.Machine.execVSqrt n s
  | .vExp2 n => Sys2Proof.Machine.execVExp2 n s
  | .vLog2 n => Sys2Proof.Machine.execVLog2 n s
  | .vCmpeq n => Sys2Proof.Machine.execVCmpeq n s
  | .vCmplt n => Sys2Proof.Machine.execVCmplt n s
  | .vCmple n => Sys2Proof.Machine.execVCmple n s
  | .vSel n => Sys2Proof.Machine.execVSel n s
  | .vAnd n => Sys2Proof.Machine.execVAnd n s
  | .vOr n => Sys2Proof.Machine.execVOr n s
  | .vXor n => Sys2Proof.Machine.execVXor n s
  | .vShl n => Sys2Proof.Machine.execVShl n s
  | .vShr n => Sys2Proof.Machine.execVShr n s
  | .vCvt n => Sys2Proof.Machine.execVCvt n s
  | .vRsum n => Sys2Proof.Machine.execVRsum n s
  | .vVld n => Sys2Proof.Machine.execVVld n s
  | .vVst n => Sys2Proof.Machine.execVVst n s
  | .vFlag n => Sys2Proof.Machine.execVFlag n s
  | .vSop n => Sys2Proof.Machine.execVSop n s
  | .vSloop n => Sys2Proof.Machine.execVSloop n s
  | .vSbr n => Sys2Proof.Machine.execVSbr n s
  | .ld n g th rd addr size ins => Sys2Proof.Machine.execLd n g th rd addr size s ins
  | .st n g th rs addr size ins => Sys2Proof.Machine.execSt n g th rs addr size s ins
  | .ldf n g th rd addr ins => Sys2Proof.Machine.execLdf n g th rd addr s ins
  | .ldc n g th rd addr ins => Sys2Proof.Machine.execLdc n g th rd addr s ins
  | .stf n g th rs addr ins => Sys2Proof.Machine.execStf n g th rs addr s ins
  | .fence n g th ins => Sys2Proof.Machine.execFence n g th s ins
  | .dinv n g th addr len ins => Sys2Proof.Machine.execDinv n g th addr len s ins
  | .pref n g th addr ins => Sys2Proof.Machine.execPref n g th addr s ins
  | .cmd n g th imm rs clk ins => Sys2Proof.Machine.execCmd n g th imm rs clk s ins
  | .tick n g th rd ins => Sys2Proof.Machine.execTick n g th rd s ins
  | .spawn n g th rd addr ins => Sys2Proof.Machine.execSpawn n g th rd addr s ins
  | .exit n g th ins => Sys2Proof.Machine.execExit n g th s ins
  | .copy n k => Sys2Proof.Machine.execCopy n k s
  | .transferSignal n k => Sys2Proof.Machine.execTransferSignal n k s
  | .tagWaitResend => Sys2Proof.Machine.execTagWaitResend s
  | .fillOverrun word => Sys2Proof.Machine.execFillOverrun word s
  | .signal w n v => Sys2Proof.Machine.execSignal w n v s
  | .consume w n v => Sys2Proof.Machine.execConsume w n v s
  | .queuePut q tok => Sys2Proof.Machine.execQueuePut q tok s
  | .queueTake q => Sys2Proof.Machine.execQueueTake q s
  | .allocation r => Sys2Proof.Machine.execAllocation r s
  | .pendingAdmit => Sys2Proof.Machine.execPendingAdmit s
  | .setFrozen w k => Sys2Proof.Machine.execSetFrozen w k s
  | .clearFrozen w k => Sys2Proof.Machine.execClearFrozen w k s
  | .setPinned w k => Sys2Proof.Machine.execSetPinned w k s
  | .clearPinned w k => Sys2Proof.Machine.execClearPinned w k s
  | .bump w k => Sys2Proof.Machine.execBump w k s
  | .catalogueRead w k => Sys2Proof.Machine.execCatalogueRead w k s
  | .conflictNotice n g => Sys2Proof.Machine.execConflictNotice n g s
  | .galleryRedirect n g => Sys2Proof.Machine.execGalleryRedirect n g s
  | .blockRedirect k => Sys2Proof.Machine.execBlockRedirect k s
  | .moveAbandon => Sys2Proof.Machine.execMoveAbandon s
  | .lend t k => Sys2Proof.Machine.execLend t k s
  | .lendCopyDone t k => Sys2Proof.Machine.execLendCopyDone t k s
  | .returnTile t k => Sys2Proof.Machine.execReturnTile t k s
  | .returnCopyDone t k => Sys2Proof.Machine.execReturnCopyDone t k s
  | .prefetch t k => Sys2Proof.Machine.execPrefetch t k s
  | .prefetchCheck t k => Sys2Proof.Machine.execPrefetchCheck t k s
  | .prefetchCopyDone t k => Sys2Proof.Machine.execPrefetchCopyDone t k s
  | .memSlotGrant n arrivals => Sys2Proof.Machine.execMemSlotGrant n arrivals s
  | .memRead n line asLine us => Sys2Proof.Machine.execMemRead n line asLine us s
  | .memWrite n line off data => Sys2Proof.Machine.execMemWrite n line off data s
  | .accumulateStore n line addends tensor => Sys2Proof.Machine.execAccumulateStore n line addends tensor s
  | .drainingRead n line => Sys2Proof.Machine.execDrainingRead n line s
  | .scrubRead n line us => Sys2Proof.Machine.execScrubRead n line us s
  | .annexClearWrite w n v => Sys2Proof.Machine.execAnnexClearWrite w n v s
  | .annexConfigWrite w n size v => Sys2Proof.Machine.execAnnexConfigWrite w n size v s
  | .annexClearDone n => Sys2Proof.Machine.execAnnexClearDone n s
  | .contributionHeader addr hdr => Sys2Proof.Machine.execContributionHeader addr hdr s
  | .voteSubmit => Sys2Proof.Machine.execVoteSubmit s
  | .outcomeDecide => Sys2Proof.Machine.execOutcomeDecide s
  | .skipLimit => Sys2Proof.Machine.execSkipLimit s
  | .frameSend n a => Sys2Proof.Machine.execFrameSend n a s
  | .frameReceive n a bytes => Sys2Proof.Machine.execFrameReceive n a bytes s
  | .replayTimeout n a => Sys2Proof.Machine.execReplayTimeout n a s
  | .lockLoss n a => Sys2Proof.Machine.execLockLoss n a s
  | .portRetrainDone n a ok => Sys2Proof.Machine.execPortRetrainDone n a ok s
  | .portBringup n a lanes => Sys2Proof.Machine.execPortBringup n a lanes s
  | .capabilityExchange n a farId farPort farVset => Sys2Proof.Machine.execCapabilityExchange n a farId farPort farVset s
  | .portWake n a => Sys2Proof.Machine.execPortWake n a s
  | .portWakeDone n a => Sys2Proof.Machine.execPortWakeDone n a s
  | .portIdleLp n a => Sys2Proof.Machine.execPortIdleLp n a s
  | .idle n a => Sys2Proof.Machine.execIdle n a s
  | .writePacket n a p => Sys2Proof.Machine.execWritePacket n a p s
  | .readPacket n a p => Sys2Proof.Machine.execReadPacket n a p s
  | .rdata n a p => Sys2Proof.Machine.execRdata n a p s
  | .consumePacket n a p => Sys2Proof.Machine.execConsumePacket n a p s
  | .mgmt n a p => Sys2Proof.Machine.execMgmt n a p s
  | .packetForward n a p => Sys2Proof.Machine.execPacketForward n a p s
  | .timestampExchange n a t1 t2 t3 t4 parentOffset => Sys2Proof.Machine.execTimestampExchange n a t1 t2 t3 t4 parentOffset s
  | .tickCountAdopt count => Sys2Proof.Machine.execTickCountAdopt count s
  | .cascadeAssemble c => Sys2Proof.Machine.execCascadeAssemble c s
  | .combineRecord src r => Sys2Proof.Machine.execCombineRecord src r s
  | .guardRun n g results => Sys2Proof.Machine.execGuardRun n g results s
  | .arrayGuardWindow n a r => Sys2Proof.Machine.execArrayGuardWindow n a r s
  | .vectorGuard n r => Sys2Proof.Machine.execVectorGuard n r s
  | .release w v => Sys2Proof.Machine.execRelease w v s
  | .assistWaitExpiry => Sys2Proof.Machine.execAssistWaitExpiry s
  | .assistStart w v => Sys2Proof.Machine.execAssistStart w v s
  | .assistDone => Sys2Proof.Machine.execAssistDone s
  | .logAckWrite w v => Sys2Proof.Machine.execLogAckWrite w v s
  | .hostLoad h img => Sys2Proof.Machine.execHostLoad h img s
  | .taskLoadComplete t => Sys2Proof.Machine.execTaskLoadComplete t s
  | .hostUnload h => Sys2Proof.Machine.execHostUnload h s
  | .hostStop h => Sys2Proof.Machine.execHostStop h s
  | .hostSave h => Sys2Proof.Machine.execHostSave h s
  | .hostRestore h => Sys2Proof.Machine.execHostRestore h s
  | .hostNop h => Sys2Proof.Machine.execHostNop h s
  | .completionWrite h => Sys2Proof.Machine.execCompletionWrite h s
  | .cqHeadWrite h v => Sys2Proof.Machine.execCqHeadWrite h v s
  | .msixArmWrite w h v => Sys2Proof.Machine.execMsixArmWrite w h v s
  | .h2pGoWrite h v => Sys2Proof.Machine.execH2pGoWrite h v s
  | .p2hFullClear h v => Sys2Proof.Machine.execP2hFullClear h v s
  | .primaryWrite w v => Sys2Proof.Machine.execPrimaryWrite w v s
  | .failover => Sys2Proof.Machine.execFailover s
  | .portReset h k => Sys2Proof.Machine.execPortReset h k s
  | .linkLoss h => Sys2Proof.Machine.execLinkLoss h s
  | .apertureAccess h off len wdata => Sys2Proof.Machine.execApertureAccess h off len wdata s
  | .pcieCompletionError h t dst len => Sys2Proof.Machine.execPcieCompletionError h t s dst len
  | .registerWrite w addr size v => Sys2Proof.Machine.execRegisterWrite w addr size v s
  | .stageOpen src => Sys2Proof.Machine.execStageOpen src s
  | .stageEraseDone => Sys2Proof.Machine.execStageEraseDone s
  | .stageData src off data => Sys2Proof.Machine.execStageData src off data s
  | .stageCommit src => Sys2Proof.Machine.execStageCommit src s
  | .stageAbort src => Sys2Proof.Machine.execStageAbort src s
  | .stageStatus src => Sys2Proof.Machine.execStageStatus src s
  | .profileWrite src profile off data partno => Sys2Proof.Machine.execProfileWrite src profile off data partno s
  | .attest src nonce => Sys2Proof.Machine.execAttest src nonce s
  | .getCert src => Sys2Proof.Machine.execGetCert src s
  | .uartFrame bytes => Sys2Proof.Machine.execUartFrame bytes s
  | .accession samples puf hang b => Sys2Proof.Machine.execAccession samples puf hang s b
  | .accWdogExpiry => Sys2Proof.Machine.execAccWdogExpiry s
  | .rsaveTimer => Sys2Proof.Machine.execRsaveTimer s
  | .saveNowWrite w v => Sys2Proof.Machine.execSaveNowWrite w v s
  | .retainedSaveDone => Sys2Proof.Machine.execRetainedSaveDone s
  | .downNotice w v => Sys2Proof.Machine.execDownNotice w v s
  | .turnstileSample vs vv opens => Sys2Proof.Machine.execTurnstileSample vs vv opens s
  | .turnstileReading => Sys2Proof.Machine.execTurnstileReading s
  | .smbusPointerWrite data => Sys2Proof.Machine.execSmbusPointerWrite data s
  | .smbusRead len last => Sys2Proof.Machine.execSmbusRead len last s
  | .smbusReadTimeout => Sys2Proof.Machine.execSmbusReadTimeout s
  | .turnstilePowerUp => Sys2Proof.Machine.execTurnstilePowerUp s
  | .crystalFail => Sys2Proof.Machine.execCrystalFail s
  | .crystalRecover => Sys2Proof.Machine.execCrystalRecover s
  | .resetAssert => Sys2Proof.Machine.execResetAssert s
  | .powerLoss aon => Sys2Proof.Machine.execPowerLoss aon s
  | .turnstilePowerLoss torn => Sys2Proof.Machine.execTurnstilePowerLoss s torn
  | .pcieLinkUp h speed width flit => Sys2Proof.Machine.execPcieLinkUp h speed width flit s

end Sys2Proof.Machine
end

