-- ==== Sys2Proof/Safety.lean ====
section
/-! DEFINITION. What claims are stated with: what a command may touch and the frame that leaves everything else, the runs of the
block, and the invariants of the part and of the Turnstile. -/

namespace Sys2Proof.Machine

/-- The parts of the state that a frame keeps or gives up as a whole. -/
inductive Part where
  | recErr | waits | resends | catLate | planLate | pinDue | redirTask | putWait | takeWait | taken | histStep | tick | step | move
  | toMove | recov | haltDue | assist | hostMem | contexts | busData | busBytes | lineOut | linePoison | boot | free
  deriving DecidableEq, Repr

/-- A part is the same in two states. -/
def Part.same (c d : Chip) : Part → Prop
  | .recErr => d.recErr = c.recErr
  | .waits => d.waits = c.waits
  | .resends => d.resends = c.resends
  | .catLate => d.catLate = c.catLate
  | .planLate => d.planLate = c.planLate
  | .pinDue => d.pinDue = c.pinDue
  | .redirTask => d.redirTask = c.redirTask
  | .putWait => d.putWait = c.putWait
  | .takeWait => d.takeWait = c.takeWait
  | .taken => d.taken = c.taken
  | .histStep => d.histStep = c.histStep
  | .tick => d.tick = c.tick
  | .step => d.step = c.step
  | .move => d.move = c.move
  | .toMove => d.toMove = c.toMove
  | .recov => d.recov = c.recov
  | .haltDue => d.haltDue = c.haltDue
  | .assist => d.assist = c.assist
  | .hostMem => d.hostMem = c.hostMem
  | .contexts => d.contexts = c.contexts
  | .busData => d.busData = c.busData
  | .busBytes => d.busBytes = c.busBytes
  | .lineOut => d.lineOut = c.lineOut
  | .linePoison => d.linePoison = c.linePoison
  | .boot => d.boot = c.boot
  | .free => d.free = c.free

/-- No key. -/
def never (_ : Nat) : Prop := False
/-- Every key. -/
def always (_ : Nat) : Prop := True
/-- The keys of a list. -/
def only (l : List Nat) (k : Nat) : Prop := k ∈ l
/-- Keys of n places from a key on. -/
def span (a n k : Nat) : Prop := a ≤ k ∧ k < a + n
/-- The bits of register fields, each given by register, highest and lowest bit. -/
def fields (l : List (Nat × Nat × Nat)) (a i : Nat) : Prop := ∃ f ∈ l, f.1 = a ∧ f.2.2 ≤ i ∧ i ≤ f.2.1

/-- What a command may change. `regs` gives register bits by offset and bit; `mem` bytes by address; `full` tags by word number;
`par` parity states by 32-bit word number; `gals` galleries by key; the others units by number. -/
structure Touch where
  regs   : Nat → Nat → Prop := fun _ => never
  mem    : Nat → Prop := never
  full   : Nat → Prop := never
  par    : Nat → Prop := never
  gals   : Nat → Prop := never
  wings  : Nat → Prop := never
  dies   : Nat → Prop := never
  tasks  : Nat → Prop := never
  cat    : Nat → Prop := never
  pairs  : Nat → Prop := never
  queues : Nat → Prop := never
  census : Nat → Prop := never
  hosts  : Nat → Prop := never
  parts  : List Part := []

/-- What either of two commands may change. -/
def Touch.or (x y : Touch) : Touch where
  regs a i := x.regs a i ∨ y.regs a i
  mem k := x.mem k ∨ y.mem k
  full k := x.full k ∨ y.full k
  par k := x.par k ∨ y.par k
  gals k := x.gals k ∨ y.gals k
  wings k := x.wings k ∨ y.wings k
  dies k := x.dies k ∨ y.dies k
  tasks k := x.tasks k ∨ y.tasks k
  cat k := x.cat k ∨ y.cat k
  pairs k := x.pairs k ∨ y.pairs k
  queues k := x.queues k ∨ y.queues k
  census k := x.census k ∨ y.census k
  hosts k := x.hosts k ∨ y.hosts k
  parts := x.parts ++ y.parts

/-- Two touches of which the second covers the first. -/
structure Touch.le (x y : Touch) : Prop where
  regs   : ∀ a i, x.regs a i → y.regs a i
  mem    : ∀ k, x.mem k → y.mem k
  full   : ∀ k, x.full k → y.full k
  par    : ∀ k, x.par k → y.par k
  gals   : ∀ k, x.gals k → y.gals k
  wings  : ∀ k, x.wings k → y.wings k
  dies   : ∀ k, x.dies k → y.dies k
  tasks  : ∀ k, x.tasks k → y.tasks k
  cat    : ∀ k, x.cat k → y.cat k
  pairs  : ∀ k, x.pairs k → y.pairs k
  queues : ∀ k, x.queues k → y.queues k
  census : ∀ k, x.census k → y.census k
  hosts  : ∀ k, x.hosts k → y.hosts k
  parts  : ∀ p ∈ x.parts, p ∈ y.parts

/-- A record in the fault log (R380, R389). -/
def Touch.log : Touch := { regs := fun a i => span 0x5200 0x400 a ∨ fields [(Reg.fltLogPos, 23, 0)] a i }

/-- A fault: its record, the tasks that it stops, the recovery, and the escalation of a second one (R377 to R380). -/
def Touch.fault (ts : Nat → Prop) : Touch :=
  Touch.log.or { regs := fields [(Reg.fltStatus, 1, 1), (Reg.fltCtr 1, 47, 0)], tasks := ts, parts := [.recov, .haltDue] }

/-- A token put to queue q by hardware (R232). -/
def Touch.put (q : Nat) : Touch := { queues := only [q], parts := [.putWait, .takeWait, .taken] }

/-- What the part's units may change at a tick edge: everything but the tick logic's own registers and state, the host side, flash and
what commands last delivered. -/
def Touch.units : Touch :=
  { regs := fun a _ => 0x1100 ≤ a, mem := always, full := always, par := always, gals := always, wings := always, tasks := always,
    cat := always, pairs := always, queues := always, census := always, hosts := always,
    parts := [.recErr, .waits, .resends, .catLate, .planLate, .pinDue, .redirTask, .putWait, .takeWait, .taken, .histStep, .step,
      .move, .toMove, .recov, .haltDue, .hostMem, .free] }

/-- A port's state but for the MSI-X messages pending and sent, which follow every command (R402). -/
def HostSt.bare (h : HostSt) : HostSt := { h with pba := 0, sent := [] }

/-- From c to d nothing changes but what `x` may touch. -/
structure Chip.Frame (x : Touch) (c d : Chip) : Prop where
  regs   : ∀ a i, ¬ x.regs a i → (d.rd a).getLsbD i = (c.rd a).getLsbD i
  mem    : ∀ a, ¬ x.mem a → d.byte a = c.byte a
  full   : ∀ k, ¬ x.full k → NMap.get (fun _ => false) d.full k = NMap.get (fun _ => false) c.full k
  par    : ∀ k, ¬ x.par k → NMap.get (fun _ => 0) d.par k = NMap.get (fun _ => 0) c.par k
  gals   : ∀ k, ¬ x.gals k → NMap.get (fun _ => Gal.reset) d.gals k = NMap.get (fun _ => Gal.reset) c.gals k
  wings  : ∀ n, ¬ x.wings n → d.wing n = c.wing n
  dies   : ∀ k, ¬ x.dies k → d.die k = c.die k
  tasks  : ∀ t, ¬ x.tasks t → d.task t = c.task t
  cat    : ∀ i, ¬ x.cat i → d.cate i = c.cate i
  pairs  : ∀ k, ¬ x.pairs k → NMap.get (fun _ => Pair.reset) d.pairs k = NMap.get (fun _ => Pair.reset) c.pairs k
  queues : ∀ q, ¬ x.queues q → d.queue q = c.queue q
  census : ∀ k, ¬ x.census k → NMap.get (fun _ => TCount.zero) d.census k = NMap.get (fun _ => TCount.zero) c.census k
  hosts  : ∀ h, ¬ x.hosts h → (d.host h).bare = (c.host h).bare
  parts  : ∀ p, p ∉ x.parts → p.same c d

/-- The arming bits that an MSI-X message clears (R402). -/
def Touch.msix : Touch := { regs := fun a _ => a = Reg.hostMsixArm 0 ∨ a = Reg.hostMsixArm 1 }

/-- A command of the part goes from s to t and changes nothing but what `x` may touch and the MSI-X messages it causes: the
commands that wait and the Turnstile are as before (R446). -/
def State.Frame (x : Touch) (s t : State) : Prop :=
  t.pending = s.pending ∧ t.ts = s.ts ∧ Chip.Frame (x.or Touch.msix) s.chip t.chip

/-- A command completes: `exec` answers a next state, of which P holds. -/
def Runs (i : Instr) (s : State) (P : State → Prop) : Prop := ∃ t, exec i s = .next t ∧ P t

/-- Every word of the stores has good parity, and every record of local memory is a codeword. -/
def Chip.good (c : Chip) : Prop := (∀ a, c.parAt a = 0) ∧ c.recErr = []

/-- Memory, tags and parity states in their canonical form. -/
def Chip.Canon (c : Chip) : Prop := Memory.wf c.mem ∧ NMap.wf (fun _ => false) c.full = true ∧ NMap.wf (fun _ => 0) c.par = true

/-- From s to t nothing changes but the Turnstile (R446). -/
def State.TsFrame (s t : State) : Prop := t.pending = s.pending ∧ t.chip = s.chip

/-- The commands of the Turnstile. -/
def Instr.ofTurnstile : Instr → Bool
  | .turnstileSample _ _ _ | .turnstileReading | .smbusPointerWrite _ | .smbusRead _ _ | .smbusReadTimeout
  | .turnstilePowerUp | .turnstilePowerLoss _ | .crystalFail | .crystalRecover => true
  | _ => false

/-- The Turnstile's own invariant: what it would go on from after a power loss, the newer sealed copy, is the last reading's SEQ, TOTAL and
seconds; the two copies differ in SEQ; and every slot holds a reading whose SEQ belongs there (R448, R450, R452). -/
structure Turnstile.Inv (t : Turnstile) : Prop where
  sealed : t.newerCopy = { seq := t.seq, total := t.total, secs := t.secs }
  apart  : ∀ x y, t.copy0 = some x → t.copy1 = some y → x.seq ≠ y.seq
  slots  : ∀ k r, NMap.find t.slots k = some r → tsSlot r = k
  ptr    : t.pointer < 2 ^ 24
  four   : t.total.length = 4 ∧ t.delta.length = 4 ∧ t.ovr.length = 4 ∧ t.opens.length = 4

end Sys2Proof.Machine
end

