-- ==== Sys2Proof/Certificates/Slice0/Obligations.lean ====
section
/-! DEFINITION. The statements for the provers. Each `Claim` states one thing about one command or about the block, and each
obligation joins the claims of one family. The docstrings name the rules of the spec that a claim rests on, and the rows of the
assumption log where it rests on a choice of the model. -/

namespace Sys2Proof.Machine

/-! ### The tick (R28 to R47) -/

/-- TICK_EDGE on a part that is up and neither halted nor about to halt, no unit of the hub die at fault: time, the gallery clock and the
slot count move on by the tick that ends, of which the first edge ends none, the tick that begins has the register's period, the count
moves on, the pause is what was sampled or driven, and the SYNC levels are latched. A part of the state that no tick moves is left. -/
def Claim.tickEdge : Prop :=
  ∀ (s : State) (sync : BitVec 8), s.chip.up = true → s.chip.halted = false → s.chip.haltDue = false →
    Runs (.tickEdge sync none) s fun t =>
      t.chip.tick.edges = s.chip.tick.edges + 1 ∧
      (s.chip.tick.edges = 0 → t.chip.tick.halfUs = s.chip.tick.halfUs ∧ t.chip.tick.edgeClk = s.chip.tick.edgeClk ∧
        t.chip.tick.slotCount = s.chip.tick.slotCount) ∧
      (s.chip.tick.edges ≠ 0 → t.chip.tick.halfUs = s.chip.tick.halfUs + s.chip.tick.curPeriod ∧
        t.chip.tick.edgeClk = s.chip.tick.edgeClk + 250 * s.chip.tick.curPeriod ∧
        t.chip.tick.slotCount = s.chip.tick.slotCount + 250 * s.chip.tick.curPeriod / 64) ∧
      t.chip.tick.curPeriod = s.chip.fld Reg.tickPeriod 7 0 ∧
      (s.chip.tick.hasCount = true → t.chip.tickCount = (s.chip.tickCount + 1) % 2 ^ 48) ∧
      (s.chip.tick.hasCount = false → s.chip.tick.driving = true → t.chip.tickCount = 0) ∧
      (s.chip.tick.hasCount = false → s.chip.tick.driving = false → t.chip.tickCount = s.chip.tickCount) ∧
      t.chip.paused = (s.chip.tick.pauseSeen || s.chip.tick.pauseDrive) ∧
      t.chip.fld Reg.bootSync 7 0 = sync.toNat ∧
      State.Frame (Touch.units.or
        { regs := fields [(Reg.tickCount, 47, 0), (Reg.tickCtrl, 2, 1), (Reg.bootSync, 7, 0), (Reg.pwrCtrl, 1, 1)],
          dies := always, parts := [.tick, .boot] }) s t

/-- TICK_EDGE on a halted part: only its time goes on (R23). -/
def Claim.tickEdgeHalted : Prop :=
  ∀ (s : State) (sync : BitVec 8), s.chip.up = true → s.chip.halted = true → s.chip.haltDue = false →
    Runs (.tickEdge sync none) s fun t =>
      t.chip.tick.edges = s.chip.tick.edges + 1 ∧
      t.chip.tick.halfUs = (if s.chip.tick.edges = 0 then s.chip.tick.halfUs else s.chip.tick.halfUs + s.chip.tick.curPeriod) ∧
      State.Frame { regs := fields [(Reg.tickCount, 47, 0), (Reg.bootSync, 7, 0)], dies := always, parts := [.tick] } s t

/-- TICK_EDGE on a part with a halt due: the part halts at this edge (R23, R377). -/
def Claim.tickEdgeHalts : Prop :=
  ∀ (s : State) (sync : BitVec 8), s.chip.up = true → s.chip.haltDue = true →
    Runs (.tickEdge sync none) s fun t =>
      t.chip.halted = true ∧ t.chip.haltDue = false ∧
      State.Frame { regs := fields [(Reg.tickCount, 47, 0), (Reg.bootSync, 7, 0), (Reg.fltState, 1, 1)], dies := always,
                    parts := [.tick, .haltDue] } s t

/-- TICK_EDGE with a unit of the hub die found at fault, on a part that is not halted: a tier 3 record of the hub die is logged with the
unit, and the part halts at this edge (R23, R26, R380). -/
def Claim.tickEdgeHubFault : Prop :=
  ∀ (s : State) (sync : BitVec 8) (u : BitVec 32), s.chip.up = true → s.chip.halted = false →
    Runs (.tickEdge sync (some u)) s fun t =>
      t.chip.halted = true ∧ t.chip.haltDue = false ∧
      t.chip.fld Reg.fltLogPos 23 0 = (s.chip.fld Reg.fltLogPos 23 0 + 1) % 2 ^ 24 ∧
      wbits (t.chip.rd (Reg.fltLog (2 * (s.chip.fld Reg.fltLogPos 23 0 % 64)))) 51 48 = 0xF ∧
      wbits (t.chip.rd (Reg.fltLog (2 * (s.chip.fld Reg.fltLogPos 23 0 % 64)))) 63 56 = 0x10 ∧
      wbits (t.chip.rd (Reg.fltLog (2 * (s.chip.fld Reg.fltLogPos 23 0 % 64) + 1))) 63 32 = u.toNat ∧
      State.Frame (Touch.log.or
        { regs := fields [(Reg.tickCount, 47, 0), (Reg.bootSync, 7, 0), (Reg.fltState, 1, 1)], dies := always,
          parts := [.tick, .haltDue] }) s t

/-- WAKE_COMPLETE: a wing that wakes is in run, with no wake under way or planned (R46). -/
def Claim.wakeComplete : Prop :=
  ∀ (s : State) (n : Wing), (s.chip.wing n).waking ≠ none →
    Runs (.wakeComplete n) s fun t =>
      t.chip.wingState n = 0 ∧ t.chip.wing n = { s.chip.wing n with waking := none, wakeAt := none } ∧
      State.Frame { regs := fields [(Reg.pwrState n, 1, 0)], wings := only [n.val] } s t

/-- SLIP_STOP: a running task with a command more than SLIP_LIMIT ticks past its deadline is to stop at the next edge, with REASON
0x10 unless a stop is asked already, and queue 52 takes an event (R35, R231, R396). -/
def Claim.slipStop : Prop :=
  ∀ (s : State) (k : Slot) (n : Wing) (g : CmdTag), s.chip.running k = true → g ∈ s.chip.wingTags n → g.task = some k.val →
    g.due + g.budget + s.chip.fld Reg.tickSlip 15 0 < s.chip.elapsed k →
    Runs (.slipStop k) s fun t =>
      t.chip.task k = { s.chip.task k with stopReq := some ((s.chip.task k).stopReq.getD 0x10) } ∧
      State.Frame ((Touch.put 52).or { tasks := only [k.val] }) s t

/-- PERIOD_WRITE: PERIOD takes a value of 1 to 128 while no task is loaded; any other write is discarded with BAD_WRITE (R28). -/
def Claim.periodWrite : Prop :=
  ∀ (s : State) (w : Writer) (v : Word), s.chip.up = true → s.chip.mayWrite w Reg.tickPeriod = true →
    Runs (.periodWrite w v) s fun t =>
      if s.chip.anyLoaded = false ∧ 1 ≤ wbits v 7 0 ∧ wbits v 7 0 ≤ 128 then
        t.chip.fld Reg.tickPeriod 7 0 = wbits v 7 0 ∧ State.Frame { regs := fields [(Reg.tickPeriod, 7, 0)] } s t
      else
        t.chip.flag Reg.tickStatus 0 = true ∧
        t.chip.fld (Reg.tickCtr 0) 47 0 = (s.chip.fld (Reg.tickCtr 0) 47 0 + 1) % 2 ^ 48 ∧
        State.Frame { regs := fields [(Reg.tickStatus, 0, 0), (Reg.tickCtr 0, 47, 0)] } s t

/-- TASK_START_WRITE of the owner of a loaded task that has not begun: a start tick 16 to 2^47 − 1 ticks ahead is set and reported
done; another is refused with REASON 0x08 (R43, R396). The port's completion queue has room and nobody waits at it. -/
def Claim.taskStartWrite : Prop :=
  ∀ (s : State) (h : HostPort) (k : Slot) (v : Word), s.chip.up = true → s.chip.mayWrite (.host h) (Reg.taskStart k) = true →
    (s.chip.task k).phase = .ready → (s.chip.task k).owner = some h → s.chip.tick.dupRefuse = false →
    50 + portIx h ∉ s.chip.takeWait → (s.chip.queue (50 + portIx h)).length < 256 →
    Runs (.taskStartWrite (.host h) k v) s fun t =>
      if 16 ≤ serialDist 48 (wbits v 47 0) s.chip.tickCount ∧ serialDist 48 (wbits v 47 0) s.chip.tickCount < 2 ^ 47 then
        t.chip.fld (Reg.taskStart k) 47 0 = wbits v 47 0 ∧ t.chip.task k = { s.chip.task k with startSet := true } ∧
        t.chip.queue (50 + portIx h) = s.chip.queue (50 + portIx h) ++ [ctoken 9 k 0 0 0 0] ∧
        State.Frame { regs := fields [(Reg.taskStart k, 47, 0)], tasks := only [k.val], queues := only [50 + portIx h] } s t
      else
        t.chip.queue (50 + portIx h) = s.chip.queue (50 + portIx h) ++ [ctoken 9 k 0 1 0x08 0] ∧
        State.Frame { queues := only [50 + portIx h] } s t

/-- TASK_START: at its start tick the task runs, its elapsed count is 0, and each wing whose table it supplies stands at task tick 0,
entry 0; queue 52 takes an event. The wings may change their power state, which may let planes go, and the task may become the census task,
whose first step fixes its scales (R43, R45, R47, R71, R72, R231). -/
def Claim.taskStart : Prop :=
  ∀ (s : State) (k : Slot), s.chip.up = true → s.chip.halted = false → s.chip.tick.hasCount = true →
    (s.chip.task k).phase = .ready → (s.chip.task k).startSet = true → (s.chip.task k).stopReq = none →
    s.chip.fld (Reg.taskStart k) 47 0 = s.chip.tickCount →
    Runs (.taskStart k) s fun t =>
      (t.chip.task k).phase = .running ∧ (t.chip.task k).started = true ∧
      (s.chip.recErr = [] → t.chip.task k = { s.chip.task k with phase := .running, started := true }) ∧ t.chip.rd (Reg.taskPerf k) = 0 ∧
      (∀ n ∈ s.chip.taskWings k, n < 16 → t.chip.taskTick n = 0 ∧ t.chip.fld (Reg.schedPos n) 11 0 = 0) ∧
      State.Frame Touch.units s t

/-- PAUSE_WRITE: PAUSE takes its value; the drive of SYNC[2] follows at the next edge (R44, R49). -/
def Claim.pauseWrite : Prop :=
  ∀ (s : State) (w : Writer) (v : Word), s.chip.up = true → s.chip.mayWrite w Reg.tickCtrl = true →
    Runs (.pauseWrite w v) s fun t =>
      t.chip.flag Reg.tickCtrl 1 = v.getLsbD 1 ∧ State.Frame { regs := fields [(Reg.tickCtrl, 1, 1)] } s t

/-- CASCADE_PAUSE: the level of SYNC[2] is what the next edge samples (R44). -/
def Claim.cascadePause : Prop :=
  ∀ (s : State) (b : Bool), s.chip.up = true →
    Runs (.cascadePause b) s fun t =>
      t.chip.tick = { s.chip.tick with pauseSeen := b } ∧ State.Frame { parts := [.tick] } s t

/-- MASTER_LISTEN_END: a master that heard a pulse sets DUP_MASTER and refuses starts; one that heard none drives SYNC[0] (R38). -/
def Claim.masterListenEnd : Prop :=
  ∀ (s : State), s.chip.up = true → s.chip.tick.listening = true →
    Runs .masterListenEnd s fun t =>
      if s.chip.tick.heard = true then
        t.chip.tick = { s.chip.tick with listening := false, dupRefuse := true } ∧ t.chip.flag Reg.tickStatus 3 = true ∧
        State.Frame { regs := fields [(Reg.tickStatus, 3, 3), (Reg.tickCtr 3, 47, 0)], parts := [.tick] } s t
      else
        t.chip.tick = { s.chip.tick with listening := false, driving := true } ∧ State.Frame { parts := [.tick] } s t

/-- SYNC_PULSE: a listening master has heard it; another part that is not master has its pulse and its offset, with SYNC_SLEW beyond
32 ns, unless its period differs from the master's and no task runs; beyond 250 ns while a task runs it is a tick loss (R38, R40 to R42). -/
def Claim.syncPulse : Prop :=
  ∀ (s : State) (o : Int), s.chip.up = true →
    Runs (.syncPulse o) s fun t =>
      if s.chip.tick.listening = true then
        t.chip.tick = { s.chip.tick with heard := true } ∧ State.Frame { parts := [.tick] } s t
      else if s.chip.flag Reg.tickCtrl 0 = true then State.Frame {} s t
      else
        t.chip.tick = { s.chip.tick with pulsed := true, missed := 0, offset := o } ∧
        t.chip.flag Reg.tickStatus 1 =
          (s.chip.flag Reg.tickStatus 1 || (decide (32 < o.natAbs) && !(s.chip.periodMis && !s.chip.anyRunning))) ∧
        (250 < o.natAbs → s.chip.anyRunning = true → s.chip.halted = false → t.chip.flag Reg.tickStatus 2 = true ∧ t.chip.haltDue = true) ∧
        (o.natAbs ≤ 250 ∨ s.chip.anyRunning = false →
          State.Frame { regs := fields [(Reg.tickStatus, 1, 1), (Reg.tickCtr 1, 47, 0)], parts := [.tick] } s t) ∧
        State.Frame ((Touch.log.or (Touch.put 52)).or
          { regs := fields [(Reg.tickStatus, 2, 1), (Reg.tickCtr 1, 47, 0), (Reg.tickCtr 2, 47, 0)], parts := [.tick, .haltDue] }) s t

/-- TICK_LOSS: after 16 missed pulses the part sets TICK_LOSS, logs a tier 3 record, and halts at its next edge; queue 52 takes an event
(R42, R231, R380). -/
def Claim.tickLoss : Prop :=
  ∀ (s : State), s.chip.up = true → s.chip.flag Reg.tickCtrl 0 = false → s.chip.halted = false → s.chip.haltDue = false →
    16 ≤ s.chip.tick.missed →
    Runs .tickLoss s fun t =>
      t.chip.flag Reg.tickStatus 2 = true ∧ t.chip.haltDue = true ∧
      t.chip.fld Reg.fltLogPos 23 0 = (s.chip.fld Reg.fltLogPos 23 0 + 1) % 2 ^ 24 ∧
      State.Frame ((Touch.log.or (Touch.put 52)).or
        { regs := fields [(Reg.tickStatus, 2, 2), (Reg.tickCtr 2, 47, 0)], parts := [.haltDue] }) s t

/-- PERIOD_PROPAGATE: the master's period is known, and a part whose PERIOD differs sets PERIOD_MIS (R41). -/
def Claim.periodPropagate : Prop :=
  ∀ (s : State) (p : BitVec 8), s.chip.up = true →
    Runs (.periodPropagate p) s fun t =>
      t.chip.tick = { s.chip.tick with masterP := some p.toNat } ∧
      t.chip.flag Reg.tickStatus 4 = (s.chip.flag Reg.tickStatus 4 || decide (p.toNat ≠ s.chip.fld Reg.tickPeriod 7 0)) ∧
      State.Frame { regs := fields [(Reg.tickStatus, 4, 4), (Reg.tickCtr 4, 47, 0)], parts := [.tick] } s t

/-- COMMAND_ISSUE, in a running wing, outside a pause, while the unit has room: the first held command of the unit in issue order whose due
tick has begun leaves the arbiter; for an array or the vector engine it stands next in the unit's queue, for the DMA engines it has a
slot, unbegun (R22, R44, R46, R175, R212). Further commands may follow it. -/
def Claim.commandIssueFirst : Prop :=
  ∀ (s : State) (n : Wing) (u : ArbUnit) (h : HeldCmd), s.chip.inRun n = true → s.chip.paused = false → s.chip.halted = false →
    s.chip.unitRoom n u = true → s.chip.nextHeld n u = some h →
    Runs (.commandIssue n u) s fun t =>
      (u = .mx0 → ((s.chip.wing n).mx0.queue ++ [{ tag := h.tag, words := h.words }]) <+: (t.chip.wing n).mx0.queue) ∧
      (u = .mx1 → ((s.chip.wing n).mx1.queue ++ [{ tag := h.tag, words := h.words }]) <+: (t.chip.wing n).mx1.queue) ∧
      (u = .vec → ((s.chip.wing n).vec.queue ++ [{ tag := h.tag, words := h.words }]) <+: (t.chip.wing n).vec.queue) ∧
      (u = .dma → ∃ (k : Nat) (j : DmaJob), k < 8 ∧ NMap.find (s.chip.wing n).dma k = none ∧ NMap.find (t.chip.wing n).dma k = some j ∧
        j.cmd = { tag := h.tag, words := h.words } ∧ j.begun = false ∧ j.moved = 0 ∧ j.xfer = (s.chip.wing n).xfer) ∧
      State.Frame { gals := always, wings := only [n.val] } s t

/-- COMMAND_ISSUE: the one command that an arbiter holds for a matrix array or vector engine leaves the arbiter for the unit's queue
once its due tick has begun, in a running wing, outside a pause, while the unit has room and no thread waits for a place (R22, R44,
R46, R175). -/
def Claim.commandIssue : Prop :=
  ∀ (s : State) (n : Wing) (u : ArbUnit) (h : HeldCmd), u ≠ .dma → s.chip.inRun n = true → s.chip.paused = false →
    s.chip.halted = false → s.chip.unitRoom n u = true → (s.chip.wing n).held = [h] → h.unit = u → s.chip.dueBegun h.tag = true →
    s.chip.parkedFor n u = none →
    Runs (.commandIssue n u) s fun t =>
      (t.chip.wing n).held = [] ∧
      (u = .mx0 → (t.chip.wing n).mx0 = { (s.chip.wing n).mx0 with queue := (s.chip.wing n).mx0.queue ++ [{ tag := h.tag, words := h.words }] }) ∧
      (u = .mx1 → (t.chip.wing n).mx1 = { (s.chip.wing n).mx1 with queue := (s.chip.wing n).mx1.queue ++ [{ tag := h.tag, words := h.words }] }) ∧
      (u = .vec → (t.chip.wing n).vec = { (s.chip.wing n).vec with queue := (s.chip.wing n).vec.queue ++ [{ tag := h.tag, words := h.words }] }) ∧
      State.Frame { wings := only [n.val] } s t

/-! ### The census (R71 to R77) -/

/-- AMAX_COMBINE of a step that waits for it and that no MVM is still to count into: every tensor that some part counted is combined and its
history entry leads the list, with the combined magnitude where each tensor has one record; the step waits no more (R73, R356). Where no
record of memory has an error, no watch is held and no pair is enabled, only memory, the step's counts and the histories change. -/
def Claim.amaxCombine : Prop :=
  ∀ (s : State) (st : Nat) (es : List AmaxEntry), s.chip.step.waitSteps.contains st = true → s.chip.stepDrained st = true →
    Runs (.amaxCombine st es) s fun t =>
      (∀ e ∈ mergeAmax es (s.chip.ownAmax st), e.tensor < s.chip.tensors → e.counted = true →
        (t.chip.counts st e.tensor).combined = true ∧ (t.chip.histOwn e.tensor).head? = some st) ∧
      (((mergeAmax es (s.chip.ownAmax st)).map fun e => e.tensor).Nodup →
        ∀ e ∈ mergeAmax es (s.chip.ownAmax st), e.tensor < s.chip.tensors → e.counted = true →
          (t.chip.counts st e.tensor).gamax = e.amax) ∧
      t.chip.step.waitSteps = s.chip.step.waitSteps.erase st ∧
      State.Frame Touch.units s t ∧
      (s.chip.recErr = [] → s.chip.pairs = [] → (∀ n < 16, (s.chip.wing n).watch = []) →
        State.Frame { mem := always, par := always, census := fun k => k / 2 ^ 24 = st, parts := [.step, .histStep, .hostMem, .free] } s t)

/-- AMAX_COMBINE for one tensor that some other part counted and this part did not: the combined magnitude is the other parts' (R73). -/
def Claim.amaxOther : Prop :=
  ∀ (s : State) (st : Nat) (e : AmaxEntry), s.chip.step.waitSteps.contains st = true → s.chip.stepDrained st = true →
    s.chip.ownAmax st = [] → e.tensor < s.chip.tensors → e.counted = true →
    Runs (.amaxCombine st [e]) s fun t =>
      (t.chip.counts st e.tensor).combined = true ∧ (t.chip.counts st e.tensor).gamax = e.amax ∧
      (t.chip.histOwn e.tensor).head? = some st ∧ t.chip.step.waitSteps = s.chip.step.waitSteps.erase st

/-- CENSUS_RECORD_WRITE of a tensor whose combine has come: its counts are done with, and, where its place in the census table lies in local
memory that no redirect serves elsewhere and that holds no error, its eight words lie there (R76, R77). Where no watch is held either, nothing
else changes. -/
def Claim.censusRecordWrite : Prop :=
  ∀ (s : State) (st x : Nat), (s.chip.counts st x).combined = true → s.chip.step.waitSteps.contains st = false → x < s.chip.tensors →
    Runs (.censusRecordWrite st x) s fun t =>
      t.chip.counts st x = TCount.zero ∧ State.Frame Touch.units s t ∧
      ∀ n < 16, s.chip.region (s.chip.censusAddr st x) = .localMem n → s.chip.home (s.chip.censusAddr st x) = s.chip.censusAddr st x →
        s.chip.recErr = [] →
        t.chip.bytes (s.chip.censusAddr st x) 64 = ((List.range 8).flatMap fun k => leBytes 8 (s.chip.censusWord st x k)) ∧
        ((∀ m < 16, (s.chip.wing m).watch = []) →
          State.Frame { mem := span (s.chip.censusAddr st x) 64, census := only [countKey st x] } s t)

/-! ### Galleries (R97 to R103, R155 to R165) -/

/-- MVM of the task that holds the gallery, or the one that a redirect names for it, with a valid word and room in the queue: the command is
the queue's last, with its arrival clock and the swaps asked before it, and a wing that is not in run is woken (R46, R156, R262). -/
def Claim.mvm : Prop :=
  ∀ (s : State) (n : Wing) (g : GalIx) (k : Slot) (w0 w1 : Word) (clk : Nat),
    s.chip.galTask n (s.chip.served n g) = some k.val → s.chip.stoppable k = true → gOp w0 = 1 → s.chip.refFwd (some k.val) = false →
    (s.chip.gal n (s.chip.served n g)).cmdQ.length < 16 → s.chip.gValid false w0 w1 = true →
    Runs (.mvm n g k w0 w1 clk) s fun t =>
      (∃ q : GCmd, (t.chip.gal n (s.chip.served n g)).cmdQ = (s.chip.gal n (s.chip.served n g)).cmdQ ++ [q] ∧ q.w0 = w0 ∧ q.w1 = w1 ∧
        q.clk = clk ∧ q.tag.task = some k.val ∧ q.tag.due = gDue w1 ∧ q.needSwaps = (s.chip.gal n (s.chip.served n g)).swapAsked) ∧
      (s.chip.wingState n ≠ 0 → (t.chip.wing n).waking ≠ none) ∧
      State.Frame { gals := only [galKey n (s.chip.served n g)], wings := only [n.val] } s t

/-- MVM with an invalid word: it is discarded, CMD_BAD is set and its task is to stop (R158). -/
def Claim.mvmBad : Prop :=
  ∀ (s : State) (n : Wing) (g : GalIx) (k : Slot) (w0 w1 : Word) (clk : Nat),
    s.chip.galTask n (s.chip.served n g) = some k.val → s.chip.stoppable k = true → gOp w0 = 1 → s.chip.refFwd (some k.val) = false →
    (s.chip.gal n (s.chip.served n g)).cmdQ.length < 16 → s.chip.gValid false w0 w1 = false →
    Runs (.mvm n g k w0 w1 clk) s fun t =>
      t.chip.flag (Reg.cmdStatus n (s.chip.served n g)) 8 = true ∧
      t.chip.task k = { s.chip.task k with stopReq := some ((s.chip.task k).stopReq.getD 0x11) } ∧
      State.Frame { regs := fields [(Reg.cmdStatus n (s.chip.served n g), 8, 8), (Reg.cmdCtr n (s.chip.served n g) 0, 47, 0)],
                    wings := only [n.val], tasks := only [k.val] } s t

/-- MVM of a reference-forward task: it is not performed, and its task is to stop (R79). -/
def Claim.mvmRefForward : Prop :=
  ∀ (s : State) (n : Wing) (g : GalIx) (k : Slot) (w0 w1 : Word) (clk : Nat),
    s.chip.galTask n (s.chip.served n g) = some k.val → s.chip.stoppable k = true → gOp w0 = 1 → s.chip.refFwd (some k.val) = true →
    (s.chip.gal n (s.chip.served n g)).cmdQ.length < 16 →
    Runs (.mvm n g k w0 w1 clk) s fun t =>
      t.chip.task k = { s.chip.task k with stopReq := some ((s.chip.task k).stopReq.getD 0x11) } ∧
      State.Frame { tasks := only [k.val] } s t

/-- MVM_START at a boundary that meets R156, its slots fitting there, with the history complete that its gain needs: the MVM is in progress
with its plane, bands and output place, no band has more phases than its plane's budget or runs while not chosen, its inputs are those of
the store's bytes that its bands choose, and the next may start once the budget's slots have passed (R74, R97 to R99, R156). -/
def Claim.mvmStart : Prop :=
  ∀ (s : State) (n : Wing) (g : GalIx) (slot : Nat) (q : GCmd) (rest : List GCmd), (s.chip.gal n g).cmdQ = q :: rest → gOp q.w0 = 1 →
    s.chip.mvmLeaves n g slot q (s.chip.mvmPlane n g (gPlane q.w0)) = true →
    slot + s.chip.budget n g (s.chip.mvmPlane n g (gPlane q.w0)) ≤ s.chip.slots →
    ((s.chip.stepAt slot (s.chip.gal n g)).1.gainCounts (s.chip.mvmPlane n g (gPlane q.w0)) = true →
      s.chip.histReady (s.chip.stepAt slot (s.chip.gal n g)).2 = true) →
    Runs (.mvmStart n g slot) s fun t =>
      (∃ m : Mvm, ((t.chip.gal n g).mvms.getLast? = some m) ∧ m.tag = q.tag ∧ m.plane = s.chip.mvmPlane n g (gPlane q.w0) ∧
        m.bands = gBands q.w0 ∧ m.out = gOut q.w0 ∧ m.ended = false ∧
        (∀ i < 8, nth 0 m.runs i ≤ s.chip.budget n g m.plane ∧ (bit m.bands i = false → nth 0 m.runs i = 0)) ∧
        (gIn q.w0 ≤ 0xFE00 → ∀ i < 8, ∀ k < 64, nth 0 m.inputs (64 * i + k) =
          if bit m.bands i then s.chip.byte (s.chip.home (galStoreBase n g + gIn q.w0 + 64 * i + k)) else 0)) ∧
      (t.chip.gal n g).mvmFree = s.chip.tick.edgeClk + 64 * slot + 64 * s.chip.budget n g (s.chip.mvmPlane n g (gPlane q.w0)) ∧
      State.Frame Touch.units s t

/-- MVM_START of an MVM that leaves the queue with a budget beyond the tick's slots: it is discarded, CMD_BAD is set and its task, if it has
one that can still stop, is to stop (R158). -/
def Claim.mvmOverBudget : Prop :=
  ∀ (s : State) (n : Wing) (g : GalIx) (slot : Nat) (q : GCmd) (rest : List GCmd), (s.chip.gal n g).cmdQ = q :: rest → gOp q.w0 = 1 →
    s.chip.mvmLeaves n g slot q (s.chip.mvmPlane n g (gPlane q.w0)) = true →
    s.chip.slots < s.chip.budget n g (s.chip.mvmPlane n g (gPlane q.w0)) → (s.chip.gal n g).threads = [] →
    Runs (.mvmStart n g slot) s fun t =>
      (t.chip.gal n g).cmdQ = rest ∧ (t.chip.gal n g).mvms = (s.chip.gal n g).mvms ∧ t.chip.flag (Reg.cmdStatus n g) 8 = true ∧
      (∀ k, q.tag.task = some k → s.chip.stoppable k = true →
        t.chip.task k = { s.chip.task k with stopReq := some ((s.chip.task k).stopReq.getD 0x11) }) ∧
      State.Frame { regs := fields [(Reg.cmdStatus n g, 8, 8), (Reg.cmdCtr n g 0, 47, 0)], gals := only [galKey n g],
                    tasks := fun k => q.tag.task = some k } s t

/-- MVM_START of an MVM whose gain needs a history that is not complete: it stays in the queue, and HIST_WAIT is set once for its wait
(R74). -/
def Claim.mvmHistWait : Prop :=
  ∀ (s : State) (n : Wing) (g : GalIx) (slot : Nat) (q : GCmd) (rest : List GCmd), (s.chip.gal n g).cmdQ = q :: rest → gOp q.w0 = 1 →
    s.chip.mvmLeaves n g slot q (s.chip.mvmPlane n g (gPlane q.w0)) = true →
    slot + s.chip.budget n g (s.chip.mvmPlane n g (gPlane q.w0)) ≤ s.chip.slots →
    (s.chip.stepAt slot (s.chip.gal n g)).1.gainCounts (s.chip.mvmPlane n g (gPlane q.w0)) = true →
    s.chip.histReady (s.chip.stepAt slot (s.chip.gal n g)).2 = false →
    Runs (.mvmStart n g slot) s fun t =>
      t.chip.gal n g = { s.chip.gal n g with histWait := true } ∧
      ((s.chip.gal n g).histWait = false → t.chip.flag Reg.censusStatus 0 = true ∧
        t.chip.fld (Reg.censusCtr 0) 47 0 = (s.chip.fld (Reg.censusCtr 0) 47 0 + 1) % 2 ^ 48) ∧
      ((s.chip.gal n g).histWait = true → State.Frame {} s t) ∧
      State.Frame { regs := fields [(Reg.censusStatus, 0, 0), (Reg.censusCtr 0, 47, 0)], gals := only [galKey n g] } s t

/-- MVM_COMPLETE of the oldest MVM in progress: it is in progress no more. Where its output words are empty with nothing waiting at them, its
256 results fill them, all zero for one that took no slot; where no tree word failed its parity and such an MVM counts nowhere, nothing else
changes, and alone in its gallery it is done (R86, R99, R159, R160). -/
def Claim.mvmComplete : Prop :=
  ∀ (s : State) (n : Wing) (g : GalIx) (bad : Bool) (m : Mvm), (s.chip.gal n g).mvms.find? (fun x => !x.ended) = some m →
    Runs (.mvmComplete n g bad) s fun t =>
      ((t.chip.gal n g).mvms.filter fun x => !x.ended) = ((s.chip.gal n g).mvms.filter fun x => !x.ended).tail ∧
      State.Frame Touch.units s t ∧
      (m.out % 16 = 0 → m.out ≤ 0xFC00 → s.chip.waits = [] → (∀ k < 128, s.chip.isFull (galStoreBase n g + m.out + 8 * k) = false) →
        (∀ k < 128, t.chip.isFull (galStoreBase n g + m.out + 8 * k) = true) ∧
        (m.noSlot = true → ∀ k < 128, t.chip.word (galStoreBase n g + m.out + 8 * k) = 0) ∧
        ((s.chip.gal n g).mvms = [m] → (t.chip.gal n g).mvms = []) ∧
        (m.noSlot = true → m.tensor = noTensor → bad = false →
          State.Frame { mem := span (galStoreBase n g + m.out) 1024, full := span ((galStoreBase n g + m.out) / 8) 128,
                        par := span ((galStoreBase n g + m.out) / 4) 256, gals := only [galKey n g] } s t))

/-- WRITE at the head of the queue in a running wing, outside a pause, with a write slot free: it leaves the queue for the slot, to wait for
every swap asked before it; a parked thread's command may take its place, and with none nothing else changes (R156, R157). -/
def Claim.write : Prop :=
  ∀ (s : State) (n : Wing) (g : GalIx) (q : GCmd) (rest : List GCmd), (s.chip.gal n g).cmdQ = q :: rest → gOp q.w0 = 2 →
    s.chip.inRun n = true → s.chip.paused = false →
    (s.chip.gal n g).pendW.length + (if (s.chip.gal n g).wjob.isSome then 1 else 0) < 2 →
    Runs (.write n g) s fun t =>
      (t.chip.gal n g).pendW = (s.chip.gal n g).pendW ++ [{ q with needSwaps := (s.chip.gal n g).swapAsked }] ∧
      rest <+: (t.chip.gal n g).cmdQ ∧
      State.Frame { regs := fields [(Reg.cmdStatus n g, 8, 8), (Reg.cmdCtr n g 0, 47, 0)], gals := only [galKey n g],
                    wings := only [n.val], tasks := fun k => s.chip.galTask n g = some k } s t ∧
      ((s.chip.gal n g).threads = [] →
        t.chip.gal n g = { s.chip.gal n g with cmdQ := rest, histWait := false,
                                               pendW := (s.chip.gal n g).pendW ++ [{ q with needSwaps := (s.chip.gal n g).swapAsked }] } ∧
        State.Frame { gals := only [galKey n g] } s t)

/-- The plane that a WRITE fills: its own in resident mode, else the idle one (R157). -/
def Chip.writePlane (c : Chip) (n g : Nat) (q : GCmd) : Plane :=
  if c.resident n g then gPlane q.w0 else otherPlane (c.livePlane n g)

/-- WRITE_ACTIVATE of the pending WRITE, with no write active, in a running wing, its due tick begun and, in streaming mode, no rehang swap
waiting and every swap before it in effect: it streams its plane from its source, whose weight scale and generation are noted, its
vitrines starve until their first codes come, the plane holds the task's tile, and the slot is free (R157, R162, R165, R166). -/
def Claim.writeActivate : Prop :=
  ∀ (s : State) (n : Wing) (g : GalIx) (q : GCmd) (rest : List GCmd), (s.chip.gal n g).pendW = q :: rest →
    (s.chip.gal n g).wjob = none → s.chip.inRun n = true → s.chip.dueBegun q.tag = true →
    (s.chip.resident n g = true ∨ (s.chip.rhSwap n g = false ∧ q.needSwaps ≤ (s.chip.gal n g).swapDone)) →
    Runs (.writeActivate n g) s fun t =>
      (t.chip.gal n g).pendW = rest ∧
      (∃ j : WriteJob, (t.chip.gal n g).wjob = some j ∧ j.form = .stream ∧ j.plane = s.chip.writePlane n g q ∧ j.src = gSrc q.w0 ∧
        j.staged = 0 ∧ j.order = List.range 8 ∧ j.tag = q.tag ∧ j.vits = []) ∧
      t.chip.fld (Reg.streamStatus n g) (23 + 8 * planeIx (s.chip.writePlane n g q)) (16 + 8 * planeIx (s.chip.writePlane n g q)) = gW q.w0 ∧
      t.chip.flag (Reg.streamStatus n g) 32 = true ∧
      t.chip.fld (Reg.consSrc n g (planeIx (s.chip.writePlane n g q))) 43 0 = gSrc q.w0 ∧
      (q.tag.task = none → ((t.chip.gal n g).plane (s.chip.writePlane n g q)).holds = none) ∧
      State.Frame Touch.units s t ∧
      (q.tag.task = none → (s.chip.gal n g).rjob = none → (s.chip.gal n g).rhOpen = none →
        ((s.chip.gal n g).plane (s.chip.writePlane n g q)).holds = none →
        ((s.chip.gal n g).plane (s.chip.writePlane n g q)).watched = false →
        State.Frame { regs := fields [(Reg.streamStatus n g, 32, 16), (Reg.streamCtr n g, 47, 0),
                                      (Reg.consSrc n g (planeIx (s.chip.writePlane n g q)), 63, 0)],
                      gals := only [galKey n g] } s t)

/-- STAGED_CODES_ARRIVE: one more tile row of the active write has been fetched and lies in its place of the staging ring, byte for byte
where its source is local memory with no error and no redirect; the vitrines have taken the row that lay there before (R161, R162). -/
def Claim.stagedCodesArrive : Prop :=
  ∀ (s : State) (n : Wing) (g : GalIx) (j : WriteJob), (s.chip.gal n g).wjob = some j → j.staged < 512 →
    Runs (.stagedCodesArrive n g) s fun t =>
      (∃ j' : WriteJob, (t.chip.gal n g).wjob = some j' ∧ j'.staged = j.staged + 1 ∧ j'.plane = j.plane ∧ j'.form = j.form ∧
        j'.src = j.src ∧ j'.order = j.order ∧ (j.staged < 16 → j'.vits = j.vits)) ∧
      State.Frame Touch.units s t ∧
      ∀ m < 16, s.chip.recErr = [] → s.chip.home (s.chip.ringAt n g j.staged) = s.chip.ringAt n g j.staged →
        (∀ k < 256, s.chip.region (j.src + 256 * (64 * (j.staged % 8) + j.staged / 8) + k) = .localMem m ∧
          s.chip.home (j.src + 256 * (64 * (j.staged % 8) + j.staged / 8) + k) = j.src + 256 * (64 * (j.staged % 8) + j.staged / 8) + k) →
        t.chip.bytes (s.chip.ringAt n g j.staged) 256 = s.chip.bytes (j.src + 256 * (64 * (j.staged % 8) + j.staged / 8)) 256

/-- The millivolts by which a verify code misses a target. -/
def missBy (code target : Nat) : Nat := if code < target then target - code else code - target

/-- What the verify of cell e of vitrine v by slice sl with a code makes of a plane write j (R88): within the accept band, or after the
third pulse, the cell is done; else it stays in progress with one more pulse, at the correction's level. One beyond twice its band is noted
as failed. -/
def WriteJob.Verified (j j' : WriteJob) (v sl code : Nat) (e : CellProg) : Prop :=
  (j'.vit v).next = (j.vit v).next ∧
  (j'.vit v).cells = ((j.vit v).cells.filter fun z => decide (z.slice ≠ sl)) ++
    (if verifyResult e.idx e.pulses (missBy code (j.cellTarget v e.idx)) = .again then
       [{ slice := sl, idx := e.idx, pulses := e.pulses + 1, level := correctionLevel (j.cellTarget v e.idx) code }]
     else []) ∧
  (verifyResult e.idx e.pulses (missBy code (j.cellTarget v e.idx)) = .fail → j.cellKey v e.idx ∈ j'.failed ∧ j'.raised = true)

/-- CELL_VERIFY of a cell in progress of the active write: accepted, corrected, marginal or failed, with the vitrine's flags; where no cell
failed before and this one does not fail, nothing else changes but STARVE (R83, R88, R110, R114, R162). -/
def Claim.cellVerify : Prop :=
  ∀ (s : State) (n : Wing) (g : GalIx) (v : VitIx) (sl : Fin 3) (code : BitVec 10) (j : WriteJob) (e : CellProg),
    (s.chip.gal n g).wjob = some j → j.cellOf v sl = some e → j.aborted = false →
    Runs (.cellVerify n g v sl code) s fun t =>
      (∃ j' : WriteJob, (t.chip.gal n g).wjob = some j' ∧ j.Verified j' v sl code.toNat e) ∧
      (verifyResult e.idx e.pulses (missBy code.toNat (j.cellTarget v e.idx)) = .marginal → t.chip.flag (Reg.vitStatus n g v) 24 = true) ∧
      (verifyResult e.idx e.pulses (missBy code.toNat (j.cellTarget v e.idx)) = .fail → t.chip.flag (Reg.vitStatus n g v) 25 = true) ∧
      State.Frame Touch.units s t ∧
      (((s.chip.gal n g).plane j.plane).failed = [] →
        (verifyResult e.idx e.pulses (missBy code.toNat (j.cellTarget v e.idx)) = .again ∨
         verifyResult e.idx e.pulses (missBy code.toNat (j.cellTarget v e.idx)) = .accept) →
        State.Frame { regs := fields [(Reg.streamStatus n g, 32, 32), (Reg.streamCtr n g, 47, 0)], gals := only [galKey n g] } s t)

/-- CELL_VERIFY by an active slice with no cell in progress, of the active write with no rehang beside it, whose next cell's codes are
staged: the slice has written the vitrine's next cell and verified it after its first pulse (R87, R88, R111, R162). -/
def Claim.cellNext : Prop :=
  ∀ (s : State) (n : Wing) (g : GalIx) (v : VitIx) (sl : Fin 3) (code : BitVec 10) (j : WriteJob),
    (s.chip.gal n g).wjob = some j → (s.chip.gal n g).rjob = none → ((s.chip.gal n g).vit v).spare ≠ sl.val → j.cellOf v sl = none →
    j.mayBegin v = true →
    Runs (.cellVerify n g v sl code) s fun t =>
      (∃ j' : WriteJob, (t.chip.gal n g).wjob = some j' ∧ (j'.vit v).next = (j.vit v).next + 1 ∧ j'.staged = j.staged) ∧
      State.Frame Touch.units s t

/-- CELL_VERIFY of a cell in progress of a rehang, no WRITE active: the same of the rehang (R88, R142). -/
def Claim.cellRehang : Prop :=
  ∀ (s : State) (n : Wing) (g : GalIx) (v : VitIx) (sl : Fin 3) (code : BitVec 10) (j : WriteJob) (e : CellProg),
    (s.chip.gal n g).wjob = none → (s.chip.gal n g).rjob = some j → j.cellOf v sl = some e → j.aborted = false →
    Runs (.cellVerify n g v sl code) s fun t =>
      (∃ j' : WriteJob, (t.chip.gal n g).rjob = some j' ∧ j.Verified j' v sl code.toNat e) ∧ State.Frame Touch.units s t

/-- PLANE_WRITE_COMPLETE of an active write whose codes have all been staged, no rehang writing its plane: the write is over, the plane is
written with the CMAX of its codes, its tile is resident and the other plane is as before; where every cell had begun, the codes are those
taken, and with no cell failed before and no tile held nothing else changes (R85, R87, R252). -/
def Claim.planeWriteComplete : Prop :=
  ∀ (s : State) (n : Wing) (g : GalIx) (j : WriteJob), (s.chip.gal n g).wjob = some j → j.staged = 512 →
    (∀ r, (s.chip.gal n g).rjob = some r → r.plane ≠ j.plane) →
    Runs (.planeWriteComplete n g) s fun t =>
      (t.chip.gal n g).wjob = none ∧ ((t.chip.gal n g).plane j.plane).written = true ∧
      ((t.chip.gal n g).plane j.plane).cmax = cmaxAll ((t.chip.gal n g).plane j.plane).codes ∧
      (t.chip.gal n g).plane (otherPlane j.plane) = (s.chip.gal n g).plane (otherPlane j.plane) ∧
      (∀ i, ((s.chip.gal n g).plane j.plane).holds = some i → (s.chip.catNow i).state = 2 → validIx i = true →
        (t.chip.catNow i).state = 1 ∨ (t.chip.catNow i).state = 5) ∧
      State.Frame Touch.units s t ∧
      ((∀ v < 64, j.cellCount ≤ (j.vit v).next) →
        ((t.chip.gal n g).plane j.plane).codes = j.buf ∧
        (((s.chip.gal n g).plane j.plane).failed = [] → ((s.chip.gal n g).plane j.plane).holds = none →
          State.Frame { gals := only [galKey n g], parts := [.free] } s t))

/-- PLANE_WRITE_COMPLETE of a rehang that is not cut off and has groups to rewrite, no WRITE active: they are rewritten, and a live rehang's
plane is written and asks for its swap (R141, R142). -/
def Claim.rehangWritten : Prop :=
  ∀ (s : State) (n : Wing) (g : GalIx) (j : WriteJob), (s.chip.gal n g).wjob = none → (s.chip.gal n g).rjob = some j → j.aborted = false →
    j.order ≠ [] →
    Runs (.planeWriteComplete n g) s fun t =>
      (∃ j' : WriteJob, (t.chip.gal n g).rjob = some j' ∧ j'.order = [] ∧ j'.form = j.form ∧ j'.plane = j.plane) ∧
      (j.form = .live → t.chip.rhSwap n g = true ∧ ((t.chip.gal n g).plane j.plane).written = true ∧
        ((t.chip.gal n g).plane j.plane).codes = j.buf) ∧
      (j.form ≠ .live → ((t.chip.gal n g).plane j.plane).codes = ((s.chip.gal n g).plane j.plane).codes) ∧
      State.Frame Touch.units s t

/-- SWAP at the head of the queue in a running wing, outside a pause, with no thread parked: it leaves the queue. Before its due tick it
waits; at it the swap waits in SWAP_PEND, or, in resident mode or with one pending, is discarded and SWAP_DROP is set (R103, R156). -/
def Claim.swap : Prop :=
  ∀ (s : State) (n : Wing) (g : GalIx) (q : GCmd) (rest : List GCmd), (s.chip.gal n g).cmdQ = q :: rest → gOp q.w0 = 3 →
    s.chip.inRun n = true → s.chip.paused = false →
    Runs (.swap n g) s fun t =>
      rest <+: (t.chip.gal n g).cmdQ ∧
      (if s.chip.dueBegun q.tag = false then (t.chip.gal n g).swapDue = (s.chip.gal n g).swapDue ++ [q]
       else if s.chip.resident n g = false ∧ s.chip.swapPend n g = false then
         t.chip.swapPend n g = true ∧ (t.chip.gal n g).swapAsked = (s.chip.gal n g).swapAsked + 1 ∧
         (t.chip.gal n g).swapSeq = (s.chip.gal n g).swapAsked + 1
       else t.chip.flag (Reg.galMode n g) 9 = true ∧ t.chip.swapPend n g = s.chip.swapPend n g) ∧
      State.Frame Touch.units s t ∧
      (s.chip.dueBegun q.tag = true → (s.chip.gal n g).threads = [] → s.chip.resident n g = false → s.chip.swapPend n g = false →
        (s.chip.gal n g).rjob = none →
        t.chip.gal n g = { s.chip.gal n g with cmdQ := rest, swapAsked := (s.chip.gal n g).swapAsked + 1, swapSeq := (s.chip.gal n g).swapAsked + 1 } ∧
        State.Frame { regs := fields [(Reg.galMode n g, 3, 3)], gals := only [galKey n g] } s t)

/-- SWAP_REQUEST_WRITE with SWAP set: MODE takes its bit while no task is loaded; in streaming mode with no swap pending the swap then waits
in SWAP_PEND; else it is discarded and SWAP_DROP is set. LIVE stays (R103, R109). -/
def Claim.swapRequestWrite : Prop :=
  ∀ (s : State) (w : Writer) (n : Wing) (g : GalIx) (v : Word), s.chip.up = true → s.chip.mayWrite w (Reg.galMode n g) = true →
    v.getLsbD 2 = true →
    Runs (.swapRequestWrite w n g v) s fun t =>
      t.chip.resident n g = (if s.chip.anyLoaded then s.chip.resident n g else v.getLsbD 0) ∧
      (if t.chip.resident n g = false ∧ s.chip.swapPend n g = false then
         t.chip.swapPend n g = true ∧ (t.chip.gal n g).swapAsked = (s.chip.gal n g).swapAsked + 1
       else t.chip.flag (Reg.galMode n g) 9 = true ∧ t.chip.swapPend n g = s.chip.swapPend n g) ∧
      t.chip.livePlane n g = s.chip.livePlane n g ∧
      State.Frame { regs := fields [(Reg.galMode n g, 9, 0), (Reg.modeCtr n g 1, 47, 0), (Reg.consStatus n, 2, 2), (Reg.consCtr n 2, 47, 0),
                                    (Reg.consCount n, 47, 0), (Reg.regStatus, 7, 7), (Reg.regCtr 7, 47, 0)],
                    gals := only [galKey n g], cat := always, parts := [.catLate, .planLate] } s t ∧
      ((s.chip.gal n g).rjob = none →
        State.Frame { regs := fields [(Reg.galMode n g, 9, 0), (Reg.modeCtr n g 1, 47, 0)], gals := only [galKey n g] } s t)

/-- SWAP_TAKE_EFFECT in streaming mode with a swap pending, no rehang's swap waiting, no write outstanding, no WRITE pending that was
asked before it and no MVM in progress: LIVE names the other plane and SWAP_PEND clears (R103). -/
def Claim.swapTakeEffect : Prop :=
  ∀ (s : State) (n : Wing) (g : GalIx), s.chip.resident n g = false → s.chip.swapPend n g = true → s.chip.rhSwap n g = false →
    (s.chip.gal n g).swapHeld = false → (∀ q ∈ (s.chip.gal n g).pendW, (s.chip.gal n g).swapDone < q.needSwaps) →
    (∀ m ∈ (s.chip.gal n g).mvms, m.ended = true ∨ m.noSlot = true) →
    Runs (.swapTakeEffect n g) s fun t =>
      t.chip.livePlane n g = otherPlane (s.chip.livePlane n g) ∧ t.chip.swapPend n g = false ∧
      (t.chip.gal n g).swapDone = (s.chip.gal n g).swapDone + 1 ∧
      State.Frame { regs := fields [(Reg.galMode n g, 1, 1), (Reg.galMode n g, 3, 3)], gals := only [galKey n g] } s t

/-- SWAP_TAKE_EFFECT of a rehang's swap, which goes first: LIVE names the other plane, RH_SWAP clears, the tile moves to the plane that the
rehang wrote, the rehang is over and counted, and a swap that was asked stays pending (R142, R150). -/
def Claim.swapOfRehang : Prop :=
  ∀ (s : State) (n : Wing) (g : GalIx) (j : WriteJob), s.chip.resident n g = false → s.chip.rhSwap n g = true →
    (s.chip.gal n g).swapHeld = false → (∀ m ∈ (s.chip.gal n g).mvms, m.ended = true ∨ m.noSlot = true) →
    (s.chip.gal n g).rjob = some j →
    Runs (.swapTakeEffect n g) s fun t =>
      t.chip.livePlane n g = otherPlane (s.chip.livePlane n g) ∧ t.chip.rhSwap n g = false ∧ (t.chip.gal n g).rjob = none ∧
      t.chip.swapPend n g = s.chip.swapPend n g ∧
      ((t.chip.gal n g).plane j.plane).holds = ((s.chip.gal n g).plane (otherPlane j.plane)).holds ∧
      ((t.chip.gal n g).plane (otherPlane j.plane)).holds = none ∧
      t.chip.fld (Reg.consCount n) 47 0 = (s.chip.fld (Reg.consCount n) 47 0 + 1) % 2 ^ 48 ∧
      State.Frame Touch.units s t

/-! ### Converters and watch (R116 to R135, R165) -/

/-- SPARE_ROTATION_POINT: while SPARE_SEL is 3, once ROT_SLOTS slots have passed the wing's count of rotation points rises (R116). -/
def Claim.spareRotationPoint : Prop :=
  ∀ (s : State) (n : Wing), s.chip.fld (Reg.spareSel n) 1 0 = 3 →
    (s.chip.wing n).rotSlot + max (s.chip.fld (Reg.convRot n) 15 0) 64 < s.chip.tick.slotCount + s.chip.slots →
    Runs (.spareRotationPoint n) s fun t =>
      t.chip.wing n = { s.chip.wing n with rotSlot := (s.chip.wing n).rotSlot + max (s.chip.fld (Reg.convRot n) 15 0) 64,
                                           rotCount := (s.chip.wing n).rotCount + 1 } ∧
      State.Frame { wings := only [n.val] } s t

/-- VITRINE_ROTATE of a vitrine with no bad slice that is to move its spare index to slice k, after a rotation point to the next slice
modulo 3, or to the one that SPARE_SEL fixes: with its spare calibrated and slice k free, the index is k, and the new spare calibrates
(R116 to R119). -/
def Claim.vitrineRotate : Prop :=
  ∀ (s : State) (n : Wing) (g : GalIx) (v : VitIx) (k : Nat),
    (if s.chip.fld (Reg.spareSel n) 1 0 = 3 then
       ((s.chip.gal n g).vit v).rotSeen < (s.chip.wing n).rotCount ∧ k = (((s.chip.gal n g).vit v).spare + 1) % 3
     else k = s.chip.fld (Reg.spareSel n) 1 0 ∧ ((s.chip.gal n g).vit v).spare ≠ k) →
    s.chip.calBusyNow n ((s.chip.gal n g).vit v) = false → ((s.chip.gal n g).vit v).stale = false →
    (s.chip.gal n g).sliceBusy v k = false →
    Runs (.vitrineRotate n g v) s fun t =>
      t.chip.gal n g = (s.chip.gal n g).modVit v (fun y =>
        { y with spare := k, calBusy := true, calRetried := false, calDone := false,
                 fixSeen := NMap.get (fun _ => 0) (s.chip.wing n).fixEnd k, rotSeen := (s.chip.wing n).rotCount }) ∧
      State.Frame { gals := only [galKey n g] } s t

/-- SPARE_SEL_WRITE: SPARE_SEL takes its value while no task is loaded, and keeps it while one is. A slice that was fixed ends its period of
calibration, and rotation points fall on whole multiples of ROT_SLOTS slots (R116, R117, R131). -/
def Claim.spareSelWrite : Prop :=
  ∀ (s : State) (w : Writer) (n : Wing) (v : Word), s.chip.up = true → s.chip.mayWrite w (Reg.spareSel n) = true →
    Runs (.spareSelWrite w n v) s fun t =>
      t.chip.fld (Reg.spareSel n) 1 0 = (if s.chip.anyLoaded then s.chip.fld (Reg.spareSel n) 1 0 else wbits v 1 0) ∧
      ((s.chip.anyLoaded = true ∨ wbits v 1 0 = s.chip.fld (Reg.spareSel n) 1 0) → t.chip.wing n = s.chip.wing n) ∧
      (s.chip.anyLoaded = false → wbits v 1 0 = 3 → s.chip.fld (Reg.spareSel n) 1 0 ≠ 3 →
        (t.chip.wing n).rotSlot = max (s.chip.wing n).rotSlot
          (s.chip.tick.slotCount / max (s.chip.fld (Reg.convRot n) 15 0) 64 * max (s.chip.fld (Reg.convRot n) 15 0) 64)) ∧
      State.Frame { regs := fields [(Reg.spareSel n, 1, 0)], wings := only [n.val] } s t

/-- CALIBRATION_COMPLETE that passes, of a vitrine with no bad slice whose spare calibrates: the spare is calibrated and has the trims of
this calibration (R118). -/
def Claim.calibrationPass : Prop :=
  ∀ (s : State) (n : Wing) (g : GalIx) (v : VitIx), ((s.chip.gal n g).vit v).stale = false →
    s.chip.calBusyNow n ((s.chip.gal n g).vit v) = true →
    Runs (.calibrationComplete n g v true) s fun t =>
      t.chip.gal n g = (s.chip.gal n g).modVit v (fun y =>
        { y with calBusy := false, calRetried := false, calDone := true,
                 fixSeen := NMap.get (fun _ => 0) (s.chip.wing n).fixEnd y.spare, trims := NMap.put y.trims y.spare s.chip.free }) ∧
      State.Frame { gals := only [galKey n g], parts := [.free] } s t

/-- CALIBRATION_COMPLETE that fails for the first time: it is repeated, and CAL_RETRY is set and counted (R119, R132). -/
def Claim.calibrationRetry : Prop :=
  ∀ (s : State) (n : Wing) (g : GalIx) (v : VitIx), ((s.chip.gal n g).vit v).stale = false →
    s.chip.calBusyNow n ((s.chip.gal n g).vit v) = true → ((s.chip.gal n g).vit v).calRetried = false →
    Runs (.calibrationComplete n g v false) s fun t =>
      t.chip.gal n g = (s.chip.gal n g).modVit v (fun y => { y with calBusy := true, calRetried := true }) ∧
      t.chip.flag (Reg.convStatus n) 2 = true ∧
      t.chip.fld (Reg.convCtr n 2) 47 0 = (s.chip.fld (Reg.convCtr n 2) 47 0 + 1) % 2 ^ 48 ∧
      State.Frame { regs := fields [(Reg.convStatus n, 2, 2), (Reg.convCtr n 2, 47, 0)], gals := only [galKey n g] } s t

/-- CALIBRATION_COMPLETE that fails again: the spare is bad, the vitrine rotates no more, CAL_FAIL and CALF are set, and the verdict is HARD
(R119, R375). -/
def Claim.calibrationFail : Prop :=
  ∀ (s : State) (n : Wing) (g : GalIx) (v : VitIx), ((s.chip.gal n g).vit v).stale = false →
    s.chip.calBusyNow n ((s.chip.gal n g).vit v) = true → ((s.chip.gal n g).vit v).calRetried = true →
    Runs (.calibrationComplete n g v false) s fun t =>
      ((t.chip.gal n g).vit v).bad = ((s.chip.gal n g).vit v).bad ||| 2 ^ ((s.chip.gal n g).vit v).spare ∧
      ((t.chip.gal n g).vit v).stale = true ∧ ((t.chip.gal n g).vit v).calBusy = false ∧
      t.chip.flag (Reg.convStatus n) 0 = true ∧ t.chip.flag (Reg.galFlt n g) 2 = true ∧ t.chip.fld (Reg.galFltState n g) 6 4 = 3 ∧
      State.Frame Touch.units s t

/-- COLUMN_MEASURE_DONE with HOLD set: the sweep moves on and no coefficient changes (R121, R126). -/
def Claim.columnMeasureHeld : Prop :=
  ∀ (s : State) (n : Wing) (g : GalIx) (v : VitIx) (p : Plane) (col : Fin 33) (z r : List Int), s.chip.flag (Reg.corrIndex n g) 16 = true →
    s.chip.calBusyNow n ((s.chip.gal n g).vit v) = false → ((s.chip.gal n g).vit v).calDone = true →
    ((s.chip.gal n g).vit v).stale = false → (s.chip.gal n g).drivesAll p v = false → ((s.chip.gal n g).vit v).sweepPlane = p →
    ((s.chip.gal n g).vit v).sweepCol = col.val → z.length = 4 → r.length = 4 → (s.chip.gal n g).cellsBusy p v = false →
    s.chip.wingState n ≠ 3 →
    Runs (.columnMeasureDone n g v p col z r) s fun t =>
      t.chip.gal n g = (s.chip.gal n g).modVit v (fun y => y.advanceSweep (decide (sumInt r - sumInt z ≤ 0)) s.chip.tick.slotCount) ∧
      State.Frame { gals := only [galKey n g] } s t

/-- COLUMN_MEASURE_DONE by a calibrated spare in slots that no MVM takes: the offset coefficient of the column becomes round_even of 16 times
the mean zero reading, 4 conversions in units of LSB(G), limited to int16; where the readings with the reference exceed them, the gain ratio
of the column is stored and m[x] follows from the eight ratios of its vitrine column; no other coefficient changes; and the sweep moves on
(R121, R123, R133). -/
def Claim.columnMeasureDone : Prop :=
  ∀ (s : State) (n : Wing) (g : GalIx) (v : VitIx) (p : Plane) (col : Fin 33) (z r : List Int), s.chip.flag (Reg.corrIndex n g) 16 = false →
    s.chip.calBusyNow n ((s.chip.gal n g).vit v) = false → ((s.chip.gal n g).vit v).calDone = true →
    ((s.chip.gal n g).vit v).stale = false → (s.chip.gal n g).drivesAll p v = false → ((s.chip.gal n g).vit v).sweepPlane = p →
    ((s.chip.gal n g).vit v).sweepCol = col.val → z.length = 4 → r.length = 4 → (s.chip.gal n g).cellsBusy p v = false →
    s.chip.wingState n ≠ 3 →
    Runs (.columnMeasureDone n g v p col z r) s fun t =>
      NMap.find (t.chip.gal n g).coef (planeIx p * 4096 + 264 + 33 * v.val + col.val) =
        some (BitVec.ofInt 16 (clampInt (-32768) 32767 (4 * sumInt z * (2 ^ (8 - s.chip.gainOf (s.chip.gal n g) p s.chip.censusStep) : Nat)))) ∧
      (sumInt r - sumInt z ≤ 0 → (t.chip.gal n g).rdiff = (s.chip.gal n g).rdiff) ∧
      (0 < sumInt r - sumInt z →
        NMap.find (t.chip.gal n g).rdiff (rdiffKey p v col) = some (sumInt r - sumInt z) ∧
        NMap.find (t.chip.gal n g).coef (planeIx p * 4096 + (if col.val < 32 then 32 * (v.val % 8) + col.val else 256 + v.val % 8)) =
          some (BitVec.ofInt 16 (slopeAt p (if col.val < 32 then 32 * (v.val % 8) + col.val else 256 + v.val % 8) fun k =>
            (NMap.find (t.chip.gal n g).rdiff k).getD (s.chip.sweptRatio n g k)))) ∧
      (∀ i, i ≠ planeIx p * 4096 + 264 + 33 * v.val + col.val →
        (sumInt r - sumInt z ≤ 0 ∨ i ≠ planeIx p * 4096 + (if col.val < 32 then 32 * (v.val % 8) + col.val else 256 + v.val % 8)) →
        NMap.find (t.chip.gal n g).coef i = NMap.find (s.chip.gal n g).coef i) ∧
      (t.chip.gal n g).vits = ((s.chip.gal n g).modVit v (fun y => y.advanceSweep (decide (sumInt r - sumInt z ≤ 0)) s.chip.tick.slotCount)).vits ∧
      State.Frame { gals := only [galKey n g] } s t

/-- COEF_AGED: more than AGE_LIMIT units of 64 slots after the last full sweep of a plane, COEF_AGED is set and counted, once for the
limit (R125). -/
def Claim.coefAged : Prop :=
  ∀ (s : State) (n : Wing) (g : GalIx) (v : VitIx) (p : Plane),
    (∀ l, (match p with | .A => ((s.chip.gal n g).vit v).agedA | .B => ((s.chip.gal n g).vit v).agedB) = some l →
      l < s.chip.fld (Reg.convRot n) 31 16) →
    64 * s.chip.fld (Reg.convRot n) 31 16 <
      s.chip.tick.slotCount - (match p with | .A => ((s.chip.gal n g).vit v).sweptA | .B => ((s.chip.gal n g).vit v).sweptB) →
    Runs (.coefAged n g v p) s fun t =>
      t.chip.flag (Reg.convStatus n) 1 = true ∧
      t.chip.fld (Reg.convCtr n 1) 47 0 = (s.chip.fld (Reg.convCtr n 1) 47 0 + 1) % 2 ^ 48 ∧
      t.chip.gal n g = (s.chip.gal n g).modVit v (fun y => match p with
        | .A => { y with agedA := some (s.chip.fld (Reg.convRot n) 31 16) }
        | .B => { y with agedB := some (s.chip.fld (Reg.convRot n) 31 16) }) ∧
      State.Frame { regs := fields [(Reg.convStatus n, 1, 1), (Reg.convCtr n 1, 47, 0)], gals := only [galKey n g] } s t

/-- CORR_DATA_WRITE: at an index of the store the entry takes the written value, unless hardware updates it in the same clock; at another
nothing is stored; INDEX rises by 1 while AUTOINC is set (R126, R133). -/
def Claim.corrDataWrite : Prop :=
  ∀ (s : State) (w : Writer) (n : Wing) (g : GalIx) (v : Word) (same : Bool), s.chip.up = true → s.chip.mayWrite w (Reg.corrData n g) = true →
    Runs (.corrDataWrite w n g v same) s fun t =>
      t.chip.gal n g = (if same = true ∨ 2376 ≤ s.chip.fld (Reg.corrIndex n g) 12 0 % 4096 then s.chip.gal n g else
        { s.chip.gal n g with coef := NMap.put (s.chip.gal n g).coef (s.chip.fld (Reg.corrIndex n g) 12 0) (BitVec.ofNat 16 (wbits v 15 0)) }) ∧
      t.chip.fld (Reg.corrIndex n g) 12 0 = (if s.chip.flag (Reg.corrIndex n g) 17 then (s.chip.fld (Reg.corrIndex n g) 12 0 + 1) % 2 ^ 13
        else s.chip.fld (Reg.corrIndex n g) 12 0) ∧
      State.Frame { regs := fields [(Reg.corrIndex n g, 12, 0)], gals := only [galKey n g] } s t

/-- CORR_DATA_READ: the coefficient at INDEX is returned, and INDEX rises by 1 while AUTOINC is set (R133). -/
def Claim.corrDataRead : Prop :=
  ∀ (s : State) (w : Writer) (n : Wing) (g : GalIx), s.chip.up = true →
    Runs (.corrDataRead w n g) s fun t =>
      (∀ x : BitVec 16, NMap.find (s.chip.gal n g).coef (s.chip.fld (Reg.corrIndex n g) 12 0) = some x → t.chip.busData.toNat = x.toNat) ∧
      t.chip.busData.toNat = (s.chip.coefAt n g (s.chip.gal n g).coef (s.chip.fld (Reg.corrIndex n g) 12 0)).toNat ∧
      t.chip.fld (Reg.corrIndex n g) 12 0 = (if s.chip.flag (Reg.corrIndex n g) 17 then (s.chip.fld (Reg.corrIndex n g) 12 0 + 1) % 2 ^ 13
        else s.chip.fld (Reg.corrIndex n g) 12 0) ∧
      State.Frame { regs := fields [(Reg.corrIndex n g, 12, 0)], parts := [.busData] } s t

/-- WATCH_CONVERSION with an urgent request pending and none for the thermal check to ask: the result with URG and the tick count lies in the
channel's register, and the request is served. On a channel that is no supply, within WARN, nothing else changes (R128, R129, R135). -/
def Claim.watchConversion : Prop :=
  ∀ (s : State) (d : Fin 8) (code : BitVec 12) (src ch : Nat) (rest : NMap Nat), s.chip.up = true → (s.chip.die d).hot = [] →
    (s.chip.die d).urgent = (src, ch) :: rest → ch < 16 →
    Runs (.watchConversion d code) s fun t =>
      t.chip.fld (Reg.watchResult (2 * d.val) ch) 11 0 = code.toNat ∧ t.chip.flag (Reg.watchResult (2 * d.val) ch) 15 = true ∧
      t.chip.fld (Reg.watchResult (2 * d.val) ch) 63 16 = s.chip.tickCount ∧
      (t.chip.die d).urgent = rest ∧ (t.chip.die d).count = (s.chip.die d).count + 1 ∧
      State.Frame ((Touch.fault always).or
        { regs := fields [(Reg.watchResult (2 * d.val) ch, 63, 0), (Reg.watchStatus (2 * d.val), 1, 0), (Reg.watchCtr (2 * d.val) 0, 47, 0),
                          (Reg.watchCtr (2 * d.val) 1, 47, 0), (Reg.pwrStatus, 27, 0), (Reg.pwrCtr 0, 47, 0), (Reg.pwrCtr 1, 47, 0)],
          dies := only [d.val] }) s t ∧
      (ch < 8 → code.toNat ≤ s.chip.fld (Reg.watchTherm (2 * d.val)) 11 0 →
        (src ≠ 0 ∨ code.toNat ≤ s.chip.fld (Reg.watchTherm (2 * d.val)) 27 16) →
        State.Frame { regs := fields [(Reg.watchResult (2 * d.val) ch, 63, 0)], dies := only [d.val] } s t)

/-- WATCH_CONVERSION with no urgent request pending, while the sequence runs: the entry that is due is converted, its result lies in its
channel's register without URG, and the sequence moves on (R128, R131, R135). -/
def Claim.watchSequence : Prop :=
  ∀ (s : State) (d : Fin 8) (code : BitVec 12) (ch : Nat), s.chip.up = true → (s.chip.die d).hot = [] → (s.chip.die d).urgent = [] →
    s.chip.flag (Reg.watchCtrl (2 * d.val)) 8 = true →
    s.chip.fld (Reg.watchSeq (2 * d.val) (s.chip.fld (Reg.watchCtrl (2 * d.val)) 20 16)) 3 0 = ch →
    Runs (.watchConversion d code) s fun t =>
      t.chip.fld (Reg.watchResult (2 * d.val) ch) 11 0 = code.toNat ∧ t.chip.flag (Reg.watchResult (2 * d.val) ch) 15 = false ∧
      t.chip.fld (Reg.watchResult (2 * d.val) ch) 63 16 = s.chip.tickCount ∧
      (0 < s.chip.fld (Reg.watchCtrl (2 * d.val)) 20 16 →
        t.chip.fld (Reg.watchCtrl (2 * d.val)) 20 16 =
          if s.chip.fld (Reg.watchCtrl (2 * d.val)) 20 16 + 1 < (s.chip.die d).lenNow then s.chip.fld (Reg.watchCtrl (2 * d.val)) 20 16 + 1 else 0) ∧
      State.Frame ((Touch.fault always).or
        { regs := fields [(Reg.watchResult (2 * d.val) ch, 63, 0), (Reg.watchCtrl (2 * d.val), 20, 16), (Reg.watchStatus (2 * d.val), 1, 0),
                          (Reg.watchCtr (2 * d.val) 0, 47, 0), (Reg.watchCtr (2 * d.val) 1, 47, 0), (Reg.pwrStatus, 27, 0),
                          (Reg.pwrCtr 0, 47, 0), (Reg.pwrCtr 1, 47, 0)],
          dies := only [d.val] }) s t

/-- URGENT_REQUEST of the thermal check for a channel that a result above WARN made it ask for: the request is pending, and the check asks no
more for that result; one that was pending already is merged and sets URG_MERGE (R129, R130, R135). -/
def Claim.urgentRequest : Prop :=
  ∀ (s : State) (d : Fin 8) (ch : Fin 16), (s.chip.die d).hot.contains ch.val = true →
    Runs (.urgentRequest d .thermal ch) s fun t =>
      NMap.find (t.chip.die d).urgent 0 = some ch.val ∧ (t.chip.die d).hot = (s.chip.die d).hot.erase ch.val ∧
      t.chip.flag (Reg.watchStatus (2 * d.val)) 2 = (s.chip.flag (Reg.watchStatus (2 * d.val)) 2 || (NMap.find (s.chip.die d).urgent 0).isSome) ∧
      State.Frame { regs := fields [(Reg.watchStatus (2 * d.val), 2, 2), (Reg.watchCtr (2 * d.val) 2, 47, 0)], dies := only [d.val] } s t

/-- URGENT_REQUEST of a Conservator for the stalest of its wing's channels, one of whose results is older than T_AGE, not yet asked at this
edge: the request is pending (R129, R137). -/
def Claim.conservatorRequest : Prop :=
  ∀ (s : State) (d : Fin 8) (odd : Bool) (ch : Fin 16), s.chip.wingState (2 * d.val + b2n odd) ≠ 3 →
    ch.val = s.chip.stalest (2 * d.val + b2n odd) → s.chip.tick.edges ≠ 0 →
    NMap.get (fun _ => 0) (s.chip.die d).asked (1 + b2n odd) ≠ s.chip.tick.edges →
    s.chip.sensorOld (2 * d.val + b2n odd) (s.chip.fld (Reg.consTemp (2 * d.val + b2n odd)) 31 16) = true →
    Runs (.urgentRequest d (if odd then .consOdd else .consEven) ch) s fun t =>
      NMap.find (t.chip.die d).urgent (1 + b2n odd) = some ch.val ∧
      t.chip.flag (Reg.watchStatus (2 * d.val)) 2 =
        (s.chip.flag (Reg.watchStatus (2 * d.val)) 2 || (NMap.find (s.chip.die d).urgent (1 + b2n odd)).isSome) ∧
      State.Frame { regs := fields [(Reg.watchStatus (2 * d.val), 2, 2), (Reg.watchCtr (2 * d.val) 2, 47, 0)], dies := only [d.val] } s t

/-- CMD_W1_WRITE with no task loaded and room in the queue: a valid command enters the queue with no task, at its clock, the wing is kept awake
and woken if it is not in run; an invalid one is discarded with CMD_BAD; with a task loaded, or the queue full, the write is discarded and
CMD_DROP is set (R165, R158). -/
def Claim.cmdW1Write : Prop :=
  ∀ (s : State) (w : Writer) (n : Wing) (g : GalIx) (v : Word) (clk : Nat), s.chip.up = true → s.chip.mayWrite w (Reg.cmdW1 n g) = true →
    Runs (.cmdW1Write w n g v clk) s fun t =>
      if s.chip.anyLoaded = true ∨ 16 ≤ (s.chip.gal n g).cmdQ.length then
        t.chip.flag (Reg.cmdStatus n g) 9 = true ∧ State.Frame { regs := fields [(Reg.cmdStatus n g, 9, 9), (Reg.cmdCtr n g 1, 47, 0)] } s t
      else
        (s.chip.gValid true (s.chip.rd (Reg.cmdW0 n g)) v = true → ∃ q : GCmd, (t.chip.gal n g).cmdQ = (s.chip.gal n g).cmdQ ++ [q] ∧
          q.tag.task = none ∧ q.w0 = s.chip.rd (Reg.cmdW0 n g) ∧ q.w1 = v ∧ q.clk = clk) ∧
        (s.chip.gValid true (s.chip.rd (Reg.cmdW0 n g)) v = false →
          t.chip.flag (Reg.cmdStatus n g) 8 = true ∧ (t.chip.gal n g).cmdQ = (s.chip.gal n g).cmdQ) ∧
        (t.chip.wing n).keepAwake = true ∧ (t.chip.wing n).busyAt = s.chip.tick.halfUs ∧
        (s.chip.wingState n ≠ 0 → (t.chip.wing n).waking ≠ none) ∧
        State.Frame { regs := fields [(Reg.cmdW1 n g, 63, 0), (Reg.cmdStatus n g, 8, 8), (Reg.cmdCtr n g 0, 47, 0)],
                      gals := only [galKey n g], wings := only [n.val] } s t

/-- REGISTER_PATH_IDLE of a wing that the register path keeps awake, 1 ms after its last command or write ended: it is kept awake no more and
enters rest, unless a task that has begun holds it (R165, R442). -/
def Claim.registerPathIdle : Prop :=
  ∀ (s : State) (n : Wing), (s.chip.wing n).keepAwake = true → s.chip.pathBusy n = false → s.chip.pathRested n = true →
    Runs (.registerPathIdle n) s fun t =>
      (t.chip.wing n).keepAwake = false ∧
      ((∀ k, s.chip.holder n = some k → (s.chip.task k).started = false) → t.chip.wingState n = 3) ∧
      (∀ k, s.chip.holder n = some k → (s.chip.task k).started = true →
        t.chip.wing n = { s.chip.wing n with keepAwake := false } ∧ State.Frame { wings := only [n.val] } s t) ∧
      State.Frame Touch.units s t

/-! ### The Conservator (R136 to R152, R255) -/

/-- TEMP_STALE: a sensor result older than 4 × T_AGE begins a stale episode, with TEMP_STALE set and counted (R137, R150). -/
def Claim.tempStale : Prop :=
  ∀ (s : State) (n : Wing), (s.chip.wing n).stale = false → s.chip.wingState n ≠ 3 →
    s.chip.sensorOld n (4 * s.chip.fld (Reg.consTemp n) 31 16) = true →
    Runs (.tempStale n) s fun t =>
      t.chip.wing n = { s.chip.wing n with stale := true } ∧ t.chip.flag (Reg.consStatus n) 5 = true ∧ t.chip.wingTemp n = (105 + 64) * 16 ∧
      State.Frame { regs := fields [(Reg.consStatus n, 5, 5), (Reg.consCtr n 5, 47, 0)], wings := only [n.val] } s t

/-- GROUP_DUE of a group that reaches 7/8 of the interval or of DLIM: it is due. A live plane in streaming mode with no live rehang whose
idle plane is not free sets CONFLICT, once in a due episode, and the Conservator reports it in queue n (R140, R142, R150, R231). -/
def Claim.groupDue : Prop :=
  ∀ (s : State) (n : Wing) (g : GalIx) (p : Plane) (m : Fin 8), s.chip.groupReaches n g p m 7 8 = true →
    hasMark ((s.chip.gal n g).plane p).due m = false →
    Runs (.groupDue n g p m) s fun t =>
      hasMark ((t.chip.gal n g).plane p).due m = true ∧
      (s.chip.resident n g = false → s.chip.livePlane n g = p → s.chip.idleFree n g = false →
        (∀ j, (s.chip.gal n g).rjob = some j → j.form ≠ .live) →
        (t.chip.gal n g).conflict = true ∧ ((s.chip.gal n g).conflict = false → t.chip.flag (Reg.consStatus n) 3 = true ∧
          t.chip.fld (Reg.consCtr n 3) 47 0 = (s.chip.fld (Reg.consCtr n 3) 47 0 + 1) % 2 ^ 48)) ∧
      ((s.chip.resident n g = true ∨ s.chip.livePlane n g ≠ p ∨ s.chip.idleFree n g = true ∨ (s.chip.gal n g).conflict = true) →
        State.Frame { gals := only [galKey n g] } s t) ∧
      State.Frame ((Touch.put n.val).or { regs := fields [(Reg.consStatus n, 3, 3), (Reg.consCtr n 3, 47, 0)], gals := only [galKey n g] }) s t

/-- GROUP_LATE of a group that reaches the interval or DLIM: it is late, and in a plane in use LATE is set and counted (R140, R150). The
Registrar may then move the role of a conflict (R265). -/
def Claim.groupLate : Prop :=
  ∀ (s : State) (n : Wing) (g : GalIx) (p : Plane) (m : Fin 8), s.chip.groupReaches n g p m 1 1 = true →
    hasMark ((s.chip.gal n g).plane p).late m = false →
    Runs (.groupLate n g p m) s fun t =>
      hasMark ((t.chip.gal n g).plane p).late m = true ∧
      (s.chip.inUse n g p = true → t.chip.flag (Reg.consStatus n) 0 = true ∧
        t.chip.fld (Reg.consCtr n 0) 47 0 = (s.chip.fld (Reg.consCtr n 0) 47 0 + 1) % 2 ^ 48) ∧
      (s.chip.inUse n g p = false → State.Frame { gals := only [galKey n g], parts := [.toMove] } s t) ∧
      State.Frame { regs := fields [(Reg.consStatus n, 0, 0), (Reg.consCtr n 0, 47, 0)], gals := only [galKey n g], parts := [.toMove] } s t

/-- GROUP_EXPIRED of a group of a plane that holds no tile: it is expired, and nothing else follows (R140). -/
def Claim.groupExpired : Prop :=
  ∀ (s : State) (n : Wing) (g : GalIx) (p : Plane) (m : Fin 8), s.chip.groupReaches n g p m 4 1 = true →
    hasMark ((s.chip.gal n g).plane p).expired m = false → ((s.chip.gal n g).plane p).holds = none →
    Runs (.groupExpired n g p m) s fun t =>
      hasMark ((t.chip.gal n g).plane p).expired m = true ∧ State.Frame { gals := only [galKey n g] } s t

/-- GROUP_EXPIRED of a plane that holds a tile: the group is expired and EXPIRED is set; with no event of the plane raised yet its tier 1
event is raised, and its role is to move (R140, R264); with one raised, nothing else follows. -/
def Claim.groupExpiredTile : Prop :=
  ∀ (s : State) (n : Wing) (g : GalIx) (p : Plane) (m : Fin 8), s.chip.groupReaches n g p m 4 1 = true →
    hasMark ((s.chip.gal n g).plane p).expired m = false → ((s.chip.gal n g).plane p).holds ≠ none →
    Runs (.groupExpired n g p m) s fun t =>
      hasMark ((t.chip.gal n g).plane p).expired m = true ∧
      t.chip.flag (Reg.consStatus n) 1 = true ∧ ((t.chip.gal n g).plane p).expRaised = true ∧
      (((s.chip.gal n g).plane p).expRaised = true →
        State.Frame { regs := fields [(Reg.consStatus n, 1, 1), (Reg.consCtr n 1, 47, 0)], gals := only [galKey n g] } s t) ∧
      State.Frame ((Touch.fault always).or
        { regs := fields [(Reg.consStatus n, 1, 1), (Reg.consCtr n 1, 47, 0), (Reg.regStatus, 7, 7), (Reg.regCtr 7, 47, 0)],
          gals := only [galKey n g], cat := always, parts := [.catLate, .planLate, .toMove] }) s t

/-- The commands that start a rehang: each with its form and the plane that it refreshes (R141). -/
def startsRehang (s : State) (n : Wing) (g : GalIx) (i : Instr) (form : WriteForm) (p : Plane) : Prop :=
  (i = .liveRehangStart n g ∧ form = .live ∧ p = s.chip.livePlane n g) ∨
  (i = .idleRehangStart n g ∧ form = .idle ∧ p = otherPlane (s.chip.livePlane n g)) ∨
  (i = .refreshSlotStart n g p ∧ form = .resident)

/-- A rehang that may start, of a plane whose source moved and that was not found moved before (R141, R146): it does not start, SRC_MOVED is
set and counted, and the Registrar has a notice in queue n (R231). -/
def Claim.rehangSourceMoved : Prop :=
  ∀ (s : State) (n : Wing) (g : GalIx) (i : Instr) (form : WriteForm) (p : Plane), startsRehang s n g i form p →
    s.chip.rehangReady n g form p = true → s.chip.sourceOk n g p = false → ((s.chip.gal n g).plane p).moved = false →
    Runs i s fun t =>
      t.chip.flag (Reg.consStatus n) 4 = true ∧
      t.chip.fld (Reg.consCtr n 4) 47 0 = (s.chip.fld (Reg.consCtr n 4) 47 0 + 1) % 2 ^ 48 ∧
      (t.chip.gal n g).rjob = none ∧ ((t.chip.gal n g).plane p).moved = true ∧
      ((s.chip.gal n g).rhOpen = none →
        State.Frame ((Touch.put n.val).or { regs := fields [(Reg.consStatus n, 4, 4), (Reg.consCtr n 4, 47, 0)], gals := only [galKey n g] }) s t) ∧
      State.Frame Touch.units s t

/-- LIVE_REHANG_START: the idle plane is being written from the live plane's source, all eight groups in order, and a tile that the live plane
holds is in state rehang (R141, R142, R145, R252). -/
def Claim.liveRehangStart : Prop :=
  ∀ (s : State) (n : Wing) (g : GalIx), s.chip.rehangReady n g .live (s.chip.livePlane n g) = true →
    s.chip.sourceOk n g (s.chip.livePlane n g) = true → s.chip.rehangTurn n g (s.chip.livePlane n g) = true →
    Runs (.liveRehangStart n g) s fun t =>
      (∃ j : WriteJob, (t.chip.gal n g).rjob = some j ∧ j.form = .live ∧ j.plane = otherPlane (s.chip.livePlane n g) ∧
        j.src = s.chip.fld (Reg.consSrc n g (planeIx (s.chip.livePlane n g))) 43 0 ∧
        j.order = List.range 8 ∧ j.vits = [] ∧ j.aborted = false) ∧
      (∀ k, ((s.chip.gal n g).plane (s.chip.livePlane n g)).holds = some k → (s.chip.catNow k).state = 1 → validIx k = true →
        (t.chip.catNow k).state = 3 ∨ (t.chip.catNow k).state = 5) ∧
      State.Frame Touch.units s t

/-- IDLE_REHANG_START: the idle plane is rewritten in place, its groups from the oldest (R143, R145). -/
def Claim.idleRehangStart : Prop :=
  ∀ (s : State) (n : Wing) (g : GalIx), s.chip.rehangReady n g .idle (otherPlane (s.chip.livePlane n g)) = true →
    s.chip.sourceOk n g (otherPlane (s.chip.livePlane n g)) = true → s.chip.rehangTurn n g (otherPlane (s.chip.livePlane n g)) = true →
    Runs (.idleRehangStart n g) s fun t =>
      (∃ j : WriteJob, (t.chip.gal n g).rjob = some j ∧ j.form = .idle ∧ j.plane = otherPlane (s.chip.livePlane n g) ∧
        j.src = s.chip.fld (Reg.consSrc n g (planeIx (otherPlane (s.chip.livePlane n g)))) 43 0 ∧
        j.order = groupsBy (fun m => NMap.get (fun _ => 0) ((s.chip.gal n g).plane (otherPlane (s.chip.livePlane n g))).age m) (List.range 8) ∧
        j.aborted = false) ∧
      State.Frame Touch.units s t

/-- REFRESH_SLOT_START of a resident plane whose rehang is open or may be opened: it is rewritten in a refresh slot that began at this edge,
first the groups left partly rewritten, then those due by D (R144, R145). -/
def Claim.refreshSlotStart : Prop :=
  ∀ (s : State) (n : Wing) (g : GalIx) (p : Plane), s.chip.rehangReady n g .resident p = true → s.chip.sourceOk n g p = true →
    ((s.chip.gal n g).rhOpen ≠ none ∨ s.chip.rehangTurn n g p = true) →
    Runs (.refreshSlotStart n g p) s fun t =>
      (∃ j : WriteJob, (t.chip.gal n g).rjob = some j ∧ j.form = .resident ∧ j.plane = p ∧
        j.order = (s.chip.gal n g).slotOrder p (s.chip.isDue n ((s.chip.gal n g).plane p)) ∧ j.vits = (s.chip.gal n g).rhParts) ∧
      (t.chip.gal n g).rhOpen = some p ∧ (t.chip.gal n g).slotStart = some s.chip.tick.edges ∧ State.Frame Touch.units s t

/-- The tick edge at which a refresh slot that began at edge e ends, over RT whole ticks or once its groups are rewritten (R144). -/
def Chip.slotEnds (c : Chip) (n g e : Nat) (p : Plane) : Nat :=
  if e + c.fld (Reg.consCtrl n) 19 16 + 1 ≤ c.tick.edges then e + c.fld (Reg.consCtrl n) 19 16 + 1
  else if ((c.gal n g).plane p).restart = [] then c.tick.edges else c.tick.edges + 1

/-- A plane write whose cells in progress are done. -/
def WriteJob.settled (j : WriteJob) : WriteJob := { j with vits := j.vits.map fun (p : Nat × VitProg) => (p.1, { p.2 with cells := [] }) }

/-- REFRESH_SLOT_END after RT ticks, or once its groups are rewritten: the slot is over with the cells done that it had begun, and the groups
left partly rewritten come first in the next (R144). -/
def Claim.refreshSlotEnd : Prop :=
  ∀ (s : State) (n : Wing) (g : GalIx) (j : WriteJob) (e : Nat), (s.chip.gal n g).rjob = some j → (s.chip.gal n g).slotStart = some e →
    j.form = .resident → (j.finished = true ∨ e + s.chip.fld (Reg.consCtrl n) 19 16 + 1 ≤ s.chip.tick.edges) →
    Runs (.refreshSlotEnd n g) s fun t =>
      (t.chip.gal n g).rjob = none ∧ (t.chip.gal n g).rhOpen = (s.chip.gal n g).rhOpen ∧ (t.chip.gal n g).slotStart = none ∧
      (t.chip.gal n g).slotEnd = some (s.chip.slotEnds n g e j.plane) ∧
      (t.chip.gal n g).rhLeft = j.settled.leftOver.1 ∧ (t.chip.gal n g).rhParts = j.settled.leftOver.2 ∧
      ((t.chip.gal n g).plane j.plane).codes = ((s.chip.gal n g).plane j.plane).codes ∧
      (t.chip.gal n g).plane (otherPlane j.plane) = (s.chip.gal n g).plane (otherPlane j.plane) ∧
      State.Frame (Touch.log.or { regs := fields [(Reg.galFltState n g, 6, 4)], gals := only [galKey n g], parts := [.free] }) s t ∧
      (((s.chip.gal n g).plane j.plane).failed = [] → State.Frame { gals := only [galKey n g], parts := [.free] } s t)

/-- REHANG_COMPLETE of an idle rehang whose groups are all rewritten: it is over, its tile is resident again, and cons.count rises; where the
plane holds no tile nothing else changes (R143, R150, R252). -/
def Claim.rehangComplete : Prop :=
  ∀ (s : State) (n : Wing) (g : GalIx) (j : WriteJob), (s.chip.gal n g).rjob = some j → j.form = .idle → j.order = [] → j.aborted = false →
    Runs (.rehangComplete n g) s fun t =>
      t.chip.gal n g = { s.chip.gal n g with rjob := none } ∧
      t.chip.fld (Reg.consCount n) 47 0 = (s.chip.fld (Reg.consCount n) 47 0 + 1) % 2 ^ 48 ∧
      (∀ k, ((s.chip.gal n g).plane j.plane).holds = some k → (s.chip.catNow k).state = 3 → validIx k = true → (t.chip.catNow k).state = 1) ∧
      State.Frame { regs := fields [(Reg.consCount n, 47, 0), (Reg.regStatus, 7, 7), (Reg.regCtr 7, 47, 0)], gals := only [galKey n g],
                    cat := always, parts := [.catLate, .planLate] } s t ∧
      (((s.chip.gal n g).plane j.plane).holds = none →
        State.Frame { regs := fields [(Reg.consCount n, 47, 0)], gals := only [galKey n g] } s t)

/-- REHANG_COMPLETE of a resident rehang between two refresh slots that left no group due: it is open no more, and cons.count rises (R144,
R150). -/
def Claim.refreshComplete : Prop :=
  ∀ (s : State) (n : Wing) (g : GalIx) (p : Plane), (s.chip.gal n g).rjob = none → (s.chip.gal n g).rhOpen = some p →
    s.chip.anyDue n ((s.chip.gal n g).plane p) = false →
    Runs (.rehangComplete n g) s fun t =>
      (t.chip.gal n g).rhOpen = none ∧ (t.chip.gal n g).rhLeft = [] ∧
      t.chip.fld (Reg.consCount n) 47 0 = (s.chip.fld (Reg.consCount n) 47 0 + 1) % 2 ^ 48 ∧
      State.Frame { regs := fields [(Reg.consCount n, 47, 0), (Reg.regStatus, 7, 7), (Reg.regCtr 7, 47, 0)], gals := only [galKey n g],
                    cat := always, parts := [.catLate, .planLate] } s t

/-- MOVED_RESPONSE of a rehang that has groups to rewrite and whose source's generation has moved: SRC_MOVED is set, and the rehang is over, but
for the cells in progress, which complete (R142, R146, R255). -/
def Claim.movedResponse : Prop :=
  ∀ (s : State) (n : Wing) (g : GalIx) (j : WriteJob) (p : Plane), (s.chip.gal n g).rjob = some j → j.order ≠ [] → j.aborted = false →
    p = (if j.form = .live then otherPlane j.plane else j.plane) → s.chip.sourceOk n g p = false →
    Runs (.movedResponse n g) s fun t =>
      (((s.chip.gal n g).plane p).moved = false → t.chip.flag (Reg.consStatus n) 4 = true ∧
        t.chip.fld (Reg.consCtr n 4) 47 0 = (s.chip.fld (Reg.consCtr n 4) 47 0 + 1) % 2 ^ 48) ∧
      ((t.chip.gal n g).plane p).moved = true ∧ (t.chip.gal n g).rhOpen = none ∧
      (t.chip.gal n g).rjob =
        (if j.vits.any (fun q => !q.2.cells.isEmpty) then some { j with aborted := true } else none) ∧
      State.Frame Touch.units s t

/-! ### Matrix arrays (R169 to R190) -/

/-- What an array's PASS may set: EXP_MIX and ACC_SAT, and on a checksum that differs ROW_MISS, COL_MISS, chk.last and the capture. -/
def Touch.matrix (n a : Nat) : Touch :=
  { regs := fun r i => fields [(Reg.censusStatus, 2, 1), (Reg.censusCtr 1, 47, 0), (Reg.censusCtr 2, 47, 0), (Reg.mxStatus n a, 1, 0),
      (mxCtr n a 0, 47, 0), (mxCtr n a 1, 47, 0), (Reg.mxLast n a, 63, 0), (Reg.wingFlt n, 4 + a, 4 + a)] r i ∨
      ∃ k < 6, r = (if a = 0 then Reg.mxCap0 n k else Reg.mxCap1 n k),
    wings := only [n], parts := [.free] }

/-- PASS at the head of an array's queue, valid, with no FLUSH that trails it and no LOAD to wait for: it leaves the queue, and each of
its entries holds its chunk's index; the bank's other entries, the load and the flush slot are as before (R173, R175, R179). -/
def Claim.pass : Prop :=
  ∀ (s : State) (n : Wing) (a : Fin 2) (ups : List CellUpset) (q : UCmd) (rest : List UCmd),
    ((s.chip.wing n).arr a).queue = q :: rest → mOp q.words = 1 → s.chip.arrayOn n a = true →
    ((s.chip.wing n).arr a).trails q.words = false → ((s.chip.wing n).arr a).passOk s.chip q.words = true →
    (mStat q.words ≠ 1 ∨ ((s.chip.wing n).arr a).bg ≠ .loading) →
    Runs (.pass n a ups) s fun t =>
      ((t.chip.wing n).arr a).queue = rest ∧
      (∀ e ∈ entriesOf q.words, ∃ b : BankEntry, NMap.find ((t.chip.wing n).arr a).bank e = some b ∧ b.chunk = mChunk q.words) ∧
      (∀ e, e ∉ entriesOf q.words → NMap.find ((t.chip.wing n).arr a).bank e = NMap.find ((s.chip.wing n).arr a).bank e) ∧
      (mStat q.words = 1 → ((t.chip.wing n).arr a).bg = .empty ∧ ∃ x, ((s.chip.wing n).arr a).bg = .ready x ∧ ((t.chip.wing n).arr a).fg = some x) ∧
      ((t.chip.wing n).arr a).load = ((s.chip.wing n).arr a).load ∧ ((t.chip.wing n).arr a).flush = ((s.chip.wing n).arr a).flush ∧
      State.Frame Touch.units s t ∧ (s.chip.good → State.Frame (Touch.matrix n a) s t)

/-- PASS of one BX8 vector without ACC against a BX8 foreground tile, no arithmetic upset: each data row's accumulator is the exact product
sum with the exponent of vector and row, and so is the checksum row's; zero stays empty (R66, R169, R172, R173). -/
def Claim.passProduct : Prop :=
  ∀ (s : State) (n : Wing) (a : Fin 2) (q : UCmd) (rest : List UCmd) (x : Tile),
    ((s.chip.wing n).arr a).queue = q :: rest → mOp q.words = 1 → s.chip.arrayOn n a = true →
    ((s.chip.wing n).arr a).trails q.words = false → ((s.chip.wing n).arr a).passOk s.chip q.words = true →
    mStat q.words = 0 → mCount q.words = 1 → mVwide q.words = false → mAcc q.words = false →
    ((s.chip.wing n).arr a).fg = some x → x.fmt = 3 → x.rows.length = 256 →
    Runs (.pass n a []) s fun t => ∃ b : BankEntry, NMap.find ((t.chip.wing n).arr a).bank (mBase q.words) = some b ∧ b.accs.length = 257 ∧
      ∀ r < 257,
        let v := (s.chip.readBlocks n a false (mAddr q.words) 0 8 q.tag.task).2
        let row := if r < 256 then nth (0, []) x.rows r else (x.sumExp, x.sum)
        let p := sumInt ((row.2.zip v.2.1).map fun z => z.1 * z.2)
        p.natAbs < 2 ^ 47 →
          nth Acc.zero b.accs r = if p = 0 then Acc.zero else { acc := p, ea := v.1 + row.1, sat := false, used := true }

/-- PASS whose token vector meets a LOAD that has not completed: it waits, and SWAP_WAIT is set once (R180). -/
def Claim.passWaits : Prop :=
  ∀ (s : State) (n : Wing) (a : Fin 2) (ups : List CellUpset) (q : UCmd) (rest : List UCmd),
    ((s.chip.wing n).arr a).queue = q :: rest → mOp q.words = 1 → s.chip.arrayOn n a = true →
    ((s.chip.wing n).arr a).trails q.words = false → ((s.chip.wing n).arr a).passOk s.chip q.words = true →
    mStat q.words = 1 → ((s.chip.wing n).arr a).bg = .loading →
    Runs (.pass n a ups) s fun t =>
      (t.chip.wing n).arr a = { (s.chip.wing n).arr a with stalled := true } ∧
      (((s.chip.wing n).arr a).stalled = false → t.chip.flag (Reg.mxStatus n a) 3 = true ∧
        t.chip.fld (mxCtr n a 3) 47 0 = (s.chip.fld (mxCtr n a 3) 47 0 + 1) % 2 ^ 48) ∧
      (((s.chip.wing n).arr a).stalled = true → State.Frame {} s t) ∧
      State.Frame { regs := fields [(Reg.mxStatus n a, 3, 3), (mxCtr n a 3, 47, 0)], wings := only [n.val] } s t

/-- What an invalid command of an array changes: CMD_BAD, its place in the queue, and its task (R177). -/
def Touch.arrayBad (n a : Nat) (q : UCmd) : Touch :=
  { regs := fields [(Reg.mxStatus n a, 2, 2), (mxCtr n a 2, 47, 0)], wings := only [n], tasks := fun k => q.tag.task = some k }

/-- A command at the head of an array's queue whose OP is none of PASS, LOAD and FLUSH is discarded, whichever row meets it: CMD_BAD is set
and its task is to stop (R177). -/
def Claim.arrayBadOp : Prop :=
  ∀ (s : State) (n : Wing) (a : Fin 2) (i : Instr) (q : UCmd) (rest : List UCmd),
    (i = .pass n a [] ∨ i = .load n a ∨ i = .flush n a) → ((s.chip.wing n).arr a).queue = q :: rest →
    (mOp q.words = 0 ∨ 3 < mOp q.words) → s.chip.arrayOn n a = true →
    Runs i s fun t =>
      (t.chip.wing n).arr a = { (s.chip.wing n).arr a with queue := rest, stalled := false } ∧
      t.chip.flag (Reg.mxStatus n a) 2 = true ∧
      (∀ k, q.tag.task = some k → s.chip.stoppable k = true → (t.chip.task k).stopReq = some ((s.chip.task k).stopReq.getD 0x11)) ∧
      State.Frame (Touch.arrayBad n a q) s t

/-- LOAD at the head of the queue with the load slot free: a valid one moves into the slot and the background set is loading; an invalid
one is discarded, sets CMD_BAD and stops its task (R175, R177, R178). -/
def Claim.load : Prop :=
  ∀ (s : State) (n : Wing) (a : Fin 2) (q : UCmd) (rest : List UCmd),
    ((s.chip.wing n).arr a).queue = q :: rest → mOp q.words = 2 → s.chip.arrayOn n a = true → ((s.chip.wing n).arr a).load = none →
    Runs (.load n a) s fun t =>
      if ((s.chip.wing n).arr a).loadOk q.words = true then
        (t.chip.wing n).arr a = { (s.chip.wing n).arr a with queue := rest, load := some q, bg := .loading } ∧
        State.Frame { wings := only [n.val] } s t
      else
        (t.chip.wing n).arr a = { (s.chip.wing n).arr a with queue := rest, stalled := false } ∧
        t.chip.flag (Reg.mxStatus n a) 2 = true ∧
        (∀ k, q.tag.task = some k → s.chip.stoppable k = true → (t.chip.task k).stopReq = some ((s.chip.task k).stopReq.getD 0x11)) ∧
        State.Frame (Touch.arrayBad n a q) s t

/-- LOAD_COMPLETE: the background set is ready with the tile, whose checksum row is the column sums of its 256 data rows; an AC8 gather
gives a BX16 tile with W as every row's exponent. A PASS that waited goes on (R178, R180, R183). -/
def Claim.loadComplete : Prop :=
  ∀ (s : State) (n : Wing) (a : Fin 2) (q : UCmd), ((s.chip.wing n).arr a).load = some q → s.chip.arrayOn n a = true →
    Runs (.loadComplete n a) s fun t =>
      (∃ x : Tile, ((t.chip.wing n).arr a).load = none ∧ ((t.chip.wing n).arr a).bg = .ready x ∧ ((t.chip.wing n).arr a).stalled = false ∧
        ((t.chip.wing n).arr a).queue = ((s.chip.wing n).arr a).queue ∧ ((t.chip.wing n).arr a).bank = ((s.chip.wing n).arr a).bank ∧
        ((t.chip.wing n).arr a).fg = ((s.chip.wing n).arr a).fg ∧
        x.rows.length = 256 ∧ x.sum = checksumRow x.rows ∧ x.fmt = (if mSfmt q.words = 2 then 4 else mSfmt q.words) ∧
        (mSfmt q.words = 2 → ∀ r < 256, (nth (0, []) x.rows r).1 = sext 8 (mW q.words)) ∧
        (s.chip.good → (t.chip.wing n).arr a =
          { (s.chip.wing n).arr a with load := none, bg := .ready x, bgLoad := q.words.take 2, stalled := false })) ∧
      State.Frame Touch.units s t ∧
      (s.chip.good →
        State.Frame { regs := fields [(Reg.censusStatus, 1, 1), (Reg.censusCtr 1, 47, 0)], wings := only [n.val], parts := [.free] } s t)

/-- FLUSH at the head of the queue with the flush slot free: a valid one moves into the slot; an invalid one, as with a void entry, is
discarded with CMD_BAD and a task error (R174, R175, R177). -/
def Claim.flush : Prop :=
  ∀ (s : State) (n : Wing) (a : Fin 2) (q : UCmd) (rest : List UCmd),
    ((s.chip.wing n).arr a).queue = q :: rest → mOp q.words = 3 → s.chip.arrayOn n a = true → ((s.chip.wing n).arr a).flush = none →
    Runs (.flush n a) s fun t =>
      if ((s.chip.wing n).arr a).flushOk q.words = true then
        (t.chip.wing n).arr a = { (s.chip.wing n).arr a with queue := rest, flush := some q } ∧ State.Frame { wings := only [n.val] } s t
      else
        t.chip.flag (Reg.mxStatus n a) 2 = true ∧ ((t.chip.wing n).arr a).queue = rest ∧
        (∀ k, q.tag.task = some k → s.chip.stoppable k = true → (t.chip.task k).stopReq = some ((s.chip.task k).stopReq.getD 0x11)) ∧
        State.Frame (Touch.arrayBad n a q) s t

/-- FLUSH_BEGIN: the FLUSH leaves the flush slot and the array is otherwise as before; its entries stay in the bank (R74, R174, R182). -/
def Claim.flushBegin : Prop :=
  ∀ (s : State) (n : Wing) (a : Fin 2) (q : UCmd), ((s.chip.wing n).arr a).flush = some q → s.chip.arrayOn n a = true →
    (mOutfmt q.words = 3 ∨ mOutfmt q.words = 4 ∨ mOutfmt q.words = 9 → s.chip.histReady s.chip.censusStep = true) →
    Runs (.flushBegin n a) s fun t =>
      (t.chip.wing n).arr a = { (s.chip.wing n).arr a with flush := none, histWait := false } ∧ State.Frame Touch.units s t

/-- FLUSH_BEGIN of a scaled output whose history is not complete: it waits, and HIST_WAIT is set once for its wait (R74). -/
def Claim.flushWaits : Prop :=
  ∀ (s : State) (n : Wing) (a : Fin 2) (q : UCmd), ((s.chip.wing n).arr a).flush = some q → s.chip.arrayOn n a = true →
    (mOutfmt q.words = 3 ∨ mOutfmt q.words = 4 ∨ mOutfmt q.words = 9) → s.chip.histReady s.chip.censusStep = false →
    Runs (.flushBegin n a) s fun t =>
      (t.chip.wing n).arr a = { (s.chip.wing n).arr a with histWait := true } ∧
      (((s.chip.wing n).arr a).histWait = false → t.chip.flag Reg.censusStatus 0 = true ∧
        t.chip.fld (Reg.censusCtr 0) 47 0 = (s.chip.fld (Reg.censusCtr 0) 47 0 + 1) % 2 ^ 48) ∧
      (((s.chip.wing n).arr a).histWait = true → State.Frame {} s t) ∧
      State.Frame { regs := fields [(Reg.censusStatus, 0, 0), (Reg.censusCtr 0, 47, 0)], wings := only [n.val] } s t

/-- FLUSH_BEGIN of one entry as raw records, to a wing store that no redirect serves elsewhere and no counter pair uses: the 16 bytes of
record r, at OUT + 16r, are accumulator r's value and its exponent, SAT and EMPTY (R174). -/
def Claim.flushRaw : Prop :=
  ∀ (s : State) (n : Wing) (a : Fin 2) (q : UCmd) (b : BankEntry) (m : Nat), ((s.chip.wing n).arr a).flush = some q → s.chip.arrayOn n a = true →
    mOutfmt q.words = 0 → mCount q.words = 1 → mTensor q.words = noTensor →
    NMap.find ((s.chip.wing n).arr a).bank (mBase q.words) = some b → b.accs.length = 257 → s.chip.pairs = [] →
    (∀ k < 4096, s.chip.region (mAddr q.words + k) = .wingStore m ∧ s.chip.home (mAddr q.words + k) = mAddr q.words + k) →
    Runs (.flushBegin n a) s fun t =>
      (∀ r < 256, t.chip.bytes (mAddr q.words + 16 * r) 16 = (nth Acc.zero b.accs r).record) ∧
      State.Frame { mem := span (mAddr q.words) 4096, par := span (mAddr q.words / 4) 1024, wings := only [n.val] } s t

/-- ARRAY_FENCE_WRITE with FENCE 1 on an array that is not fenced: FENCE is set; on a part not halted and not in recovery a tier 2 record is
logged, and each task bound to the array, or each loaded one where none is, is to stop (R190, R377). Else nothing changes. -/
def Claim.arrayFenceWrite : Prop :=
  ∀ (s : State) (w : Writer) (n : Wing) (a : Fin 2) (v : Word), s.chip.up = true → s.chip.mayWrite w (Reg.mxIdent n a) = true →
    Runs (.arrayFenceWrite w n a v) s fun t =>
      if v.getLsbD 9 = true ∧ s.chip.flag (Reg.mxIdent n a) 9 = false then
        t.chip.flag (Reg.mxIdent n a) 9 = true ∧
        State.Frame ((Touch.fault always).or { regs := fields [(Reg.mxIdent n a, 9, 9)] }) s t ∧
        (s.chip.halted = false →
          t.chip.fld Reg.fltLogPos 23 0 = (s.chip.fld Reg.fltLogPos 23 0 + 1) % 2 ^ 24 ∧
          (∀ k ∈ s.chip.boundTo n a, s.chip.stoppable k = true → (t.chip.task k).stopReq ≠ none ∧ (t.chip.task k).byFault = true) ∧
          (s.chip.boundTo n a = [] → ∀ k ∈ s.chip.allTasks, (t.chip.task k).stopReq ≠ none)) ∧
        (s.chip.halted = false → s.chip.recov = none →
          (∃ r : Recovery, t.chip.recov = some r ∧ r.tier = 2 ∧ r.source = 0x07) ∧
          State.Frame (Touch.log.or { regs := fields [(Reg.mxIdent n a, 9, 9)], tasks := always, parts := [.recov] }) s t)
      else State.Frame {} s t

/-! ### Vector engines (R195 to R203) -/

/-- The program of wing n's engine is at instruction w, of operation `op`: the wing runs, nothing waits, the instruction lies in the
wing's own store and is valid, and every register has its 1,024 lanes. -/
structure Chip.VecAt (c : Chip) (n op : Nat) (r : VecRun) (w : Word) : Prop where
  run   : (c.wing n).vec.run = some r
  inRun : c.inRun n = true
  halt  : c.halted = false
  waits : c.vecWaits n = false
  own   : c.inOwnStore n (vProg r.cmd.words + 8 * r.pc) 8 = true
  word  : c.word (c.home (vProg r.cmd.words + 8 * r.pc)) = w
  ok    : vOk w = true
  op_   : vOp w = op
  lanes : ∀ k, ((c.wing n).vec.reg k).length = 1024

/-- The run that goes on with the next instruction. -/
def VecRun.next (r : VecRun) : VecRun := { r with pc := r.pc + 1, wait := none, histWait := false }

/-- What an instruction that counts its results may touch besides its engine (R77, R200). -/
def Touch.vec (c : Chip) (n : Nat) (r : VecRun) (w : Word) : Touch :=
  { regs := fun a i => vCe w = true ∧ fields [(Reg.censusStatus, 4, 4), (Reg.censusCtr 4, 47, 0)] a i,
    census := fun k => vCe w = true ∧ k = countKey c.censusStep (nth noTensor (c.wing n).vec.cslots (vCslot w)),
    tasks := fun k => vCe w = true ∧ r.cmd.tag.task = some k, wings := only [n], parts := [.free] }

/-- What an instruction changes: the part's units, and where no word of the stores fails its parity only wing n's engine and what `x`
names (R366). -/
def State.VecFrame (x : Touch) (n : Nat) (s t : State) : Prop :=
  State.Frame Touch.units s t ∧
    (s.chip.good → t.chip.wing n = { s.chip.wing n with vec := (t.chip.wing n).vec } ∧ State.Frame x s t)

/-- After an instruction the engine differs only in the registers of a destination, in flags that only grow, and in its run. -/
def VecSt.writes (x y : VecSt) (r : VecRun) (ds : List Nat) : Prop :=
  y = { x with v := y.v, flags := y.flags, run := some r.next } ∧ (∀ k, k ∉ ds → y.reg k = x.reg k) ∧
    ∀ k i, (nth 0 x.flags k).getLsbD i = true → k < 5 → x.flags.length = 5 → (nth 0 y.flags k).getLsbD i = true

/-- Lane i of a destination, as low and high half, where the instruction's result is p: of an inactive lane zero with ZM, else as before
(R199). -/
def VecSt.laneAfter (x : VecSt) (w : Word) (td i : Nat) (p : Lane × Lane) (y : VecSt) : Prop :=
  let keep := fun r => if vZm w = true then 0 else nth 0 (x.reg r) i
  let act := (x.mask (vMask w)).getLsbD i
  nth 0 (y.reg (vVd w)) i = (if act = true then p.1 else keep (vVd w)) ∧
    (td = 4 → nth 0 (y.reg (vVd w + 1)) i = if act = true then p.2 else keep (vVd w + 1))

/-- The destination registers of an instruction whose results are of type td. -/
def vDests (w : Word) (td : Nat) : List Nat := if td = 4 then [vVd w, vVd w + 1] else [vVd w]

/-- The elements of lane i of a source of type t. -/
def VecSt.elems (x : VecSt) (t r i : Nat) : List Nat :=
  lanesToElems t (nth 0 (x.reg r) i) (if t = 4 then nth 0 (x.reg (r + 1)) i else 0)

/-- A source register that the rules give a content: any, or of a wide instruction an even one (R196, R202). -/
def vSrcEven (w : Word) (r : Nat) : Prop := vType w = 4 → r % 2 = 0

/-- A lane-wise instruction on two sources, with the value that the rule gives each pair of elements (none where it gives none). -/
def Claim.lanes2 (ctor : Wing → Instr) (op : Nat) (val : Nat → Nat → Nat → Option Nat) : Prop :=
  ∀ (s : State) (n : Wing) (r : VecRun) (w : Word), s.chip.VecAt n op r w →
    Runs (ctor n) s fun t =>
      (s.chip.wing n).vec.writes (t.chip.wing n).vec r (vDests w (vType w)) ∧
      (vSrcEven w (vVa w) → vSrcEven w (vVb w) → ∀ i < 1024, ∀ l : List Nat,
        ((((s.chip.wing n).vec.elems (vType w) (vVa w) i).zip ((s.chip.wing n).vec.elems (vType w) (vVb w) i)).map
          fun p => val (vType w) p.1 p.2) = l.map some →
        (s.chip.wing n).vec.laneAfter w (vType w) i (elemsToLanes (vType w) l) (t.chip.wing n).vec) ∧
      State.VecFrame (Touch.vec s.chip n r w) n s t

/-- A lane-wise instruction on one source; the value may depend on the lane and on the engine's registers. -/
def Claim.lanes1 (ctor : Wing → Instr) (op : Nat) (val : VecSt → Word → Nat → Nat → Nat → Option Nat) : Prop :=
  ∀ (s : State) (n : Wing) (r : VecRun) (w : Word), s.chip.VecAt n op r w →
    Runs (ctor n) s fun t =>
      (s.chip.wing n).vec.writes (t.chip.wing n).vec r (vDests w (vType w)) ∧
      (vSrcEven w (vVa w) → ∀ i < 1024, ∀ l : List Nat,
        (((s.chip.wing n).vec.elems (vType w) (vVa w) i).map fun a => val (s.chip.wing n).vec w i (vType w) a) = l.map some →
        (s.chip.wing n).vec.laneAfter w (vType w) i (elemsToLanes (vType w) l) (t.chip.wing n).vec) ∧
      State.VecFrame (Touch.vec s.chip n r w) n s t

/-- An integer of w bits clamped to ±(2^(w − 1) − 1) (R197). -/
def clampBits (w : Nat) (x : Int) : Nat := twos w (clampInt (-(2 ^ (w - 1) - 1)) (2 ^ (w - 1) - 1) x)

/-- An element as a move gives it: of a float type every NaN canonical (R63). -/
def canonNan (t a : Nat) : Nat :=
  if isFloat t then (match elemFl t a with | .nan _ => (typeFmt t).qnan | _ => a) else a

/-- ADD: integers clamp, floats round once (R61, R197). -/
def Claim.vAdd : Prop := Claim.lanes2 .vAdd 0x08 fun t a b => some
  (if isFloat t then ((typeFmt t).add (elemFl t a) (elemFl t b)).1 else clampBits (elemWidth t) (elemInt t a + elemInt t b))
/-- SUB (R197). -/
def Claim.vSub : Prop := Claim.lanes2 .vSub 0x09 fun t a b => some
  (if isFloat t then ((typeFmt t).add (elemFl t a) (elemFl t b).neg).1 else clampBits (elemWidth t) (elemInt t a - elemInt t b))
/-- MUL (R197). -/
def Claim.vMul : Prop := Claim.lanes2 .vMul 0x0A fun t a b => some
  (if isFloat t then ((typeFmt t).mul (elemFl t a) (elemFl t b)).1 else clampBits (elemWidth t) (elemInt t a * elemInt t b))

/-- MIN (less true) or MAX of two elements: of integers, of floats by their order, of two zeros by the sign; two NaNs give the canonical one,
and of one NaN the rules give no value (R63, R197). -/
def pickOf (less : Bool) (t a b : Nat) : Option Nat :=
  if isFloat t then
    match (elemFl t a).cmp (elemFl t b), elemFl t a, elemFl t b with
    | some .lt, _, _ => some (if less then a else b)
    | some .gt, _, _ => some (if less then b else a)
    | some .eq, _, _ => some (if a.testBit (elemWidth t - 1) == less then a else b)
    | none, .nan _, .nan _ => some (typeFmt t).qnan
    | none, _, _ => none
  else some (clampBits (elemWidth t) (if less then min (elemInt t a) (elemInt t b) else max (elemInt t a) (elemInt t b)))

/-- MIN (R197). -/
def Claim.vMin : Prop := Claim.lanes2 .vMin 0x0B (pickOf true)
/-- MAX (R197). -/
def Claim.vMax : Prop := Claim.lanes2 .vMax 0x0C (pickOf false)
/-- DIV (R197). -/
def Claim.vDiv : Prop := Claim.lanes2 .vDiv 0x10 fun t a b => some ((typeFmt t).div (elemFl t a) (elemFl t b)).1
/-- AND (R197). -/
def Claim.vAnd : Prop := Claim.lanes2 .vAnd 0x20 fun _ a b => some (a &&& b)
/-- OR (R197). -/
def Claim.vOr : Prop := Claim.lanes2 .vOr 0x21 fun _ a b => some (a ||| b)
/-- XOR (R197). -/
def Claim.vXor : Prop := Claim.lanes2 .vXor 0x22 fun _ a b => some (a ^^^ b)

/-- MOV: each element, a NaN canonical (R63, R197). -/
def Claim.vMov : Prop := Claim.lanes1 .vMov 0x01 fun _ _ _ t a => some (canonNan t a)
/-- ABS: the magnitude, clamped; a NaN is canonical (R63, R197). -/
def Claim.vAbs : Prop := Claim.lanes1 .vAbs 0x0D fun _ _ _ t a => some
  (if isFloat t then (match elemFl t a with | .nan _ => (typeFmt t).qnan | _ => a % 2 ^ (elemWidth t - 1))
   else clampBits (elemWidth t) ((elemInt t a).natAbs : Int))
/-- NEG: the value with its sign changed, clamped; a NaN is canonical (R63, R197). -/
def Claim.vNeg : Prop := Claim.lanes1 .vNeg 0x0E fun _ _ _ t a => some
  (if isFloat t then (match elemFl t a with
      | .nan _ => (typeFmt t).qnan
      | _ => if a < 2 ^ (elemWidth t - 1) then a + 2 ^ (elemWidth t - 1) else a - 2 ^ (elemWidth t - 1))
   else clampBits (elemWidth t) (-elemInt t a))
/-- SQRT (R197). -/
def Claim.vSqrt : Prop := Claim.lanes1 .vSqrt 0x11 fun _ _ _ t a => some ((typeFmt t).sqrt (elemFl t a)).1
/-- EXP2: of a NaN the canonical NaN. The other results are Kwedin's tables, which are free values of the model (log 7; R63, R197). -/
def Claim.vExp2 : Prop := Claim.lanes1 .vExp2 0x12 fun _ _ _ t a => match elemFl t a with | .nan _ => some (typeFmt t).qnan | _ => none
/-- LOG2, as EXP2 (log 7; R63, R197). -/
def Claim.vLog2 : Prop := Claim.lanes1 .vLog2 0x13 fun _ _ _ t a => match elemFl t a with | .nan _ => some (typeFmt t).qnan | _ => none

/-- The amount of a shift in lane i: s[SR], or with IMM[0] the lane of VB, which counts up to 63 (R197). -/
def shiftBy (x : VecSt) (w : Word) (i : Nat) : Option Nat :=
  let k : Int := if vImm w 0 0 = 1 then (nth 0 (x.reg (vVb w)) i).toInt else (x.scal (vSr w)).toInt
  if 0 ≤ k ∧ k ≤ 63 then some k.toNat else none

/-- SHL: the product with a power of two, clamped (R197). -/
def Claim.vShl : Prop := Claim.lanes1 .vShl 0x23 fun x w i t a =>
  (shiftBy x w i).map fun k => clampBits (elemWidth t) (elemInt t a * 2 ^ k)
/-- SHR: arithmetic, rounded to nearest even (R197). -/
def Claim.vShr : Prop := Claim.lanes1 .vShr 0x24 fun x w i t a =>
  (shiftBy x w i).map fun k => clampBits (elemWidth t) (roundEven (elemInt t a) (2 ^ k))

/-- SEL: each lane from VA where the mask is 1, else from VB, NaNs canonical (R63, R197). -/
def Claim.vSel : Prop :=
  ∀ (s : State) (n : Wing) (r : VecRun) (w : Word), s.chip.VecAt n 0x1B r w →
    Runs (.vSel n) s fun t =>
      (s.chip.wing n).vec.writes (t.chip.wing n).vec r (vDests w (vType w)) ∧
      (vSrcEven w (vVa w) → vSrcEven w (vVb w) → ∀ i < 1024,
        let src := if ((s.chip.wing n).vec.mask (vMask w)).getLsbD i = true then vVa w else vVb w
        let p := elemsToLanes (vType w) (((s.chip.wing n).vec.elems (vType w) src i).map (canonNan (vType w)))
        nth 0 ((t.chip.wing n).vec.reg (vVd w)) i = p.1 ∧ (vType w = 4 → nth 0 ((t.chip.wing n).vec.reg (vVd w + 1)) i = p.2)) ∧
      State.VecFrame (Touch.vec s.chip n r w) n s t

/-- BCAST: s[SR] clamped to the element of an integer type, or as the float that holds it exactly, in every lane whatever the mask
(R197). -/
def Claim.vBcast : Prop :=
  ∀ (s : State) (n : Wing) (r : VecRun) (w : Word), s.chip.VecAt n 0x02 r w →
    Runs (.vBcast n) s fun t =>
      (s.chip.wing n).vec.writes (t.chip.wing n).vec r (vDests w (vType w)) ∧
      (let x := ((s.chip.wing n).vec.scal (vSr w)).toInt
       let f := (typeFmt (vType w)).ofInt x 0
       (isFloat (vType w) = true → f.2.inexact = false ∧ f.2.overflow = false) → ∀ i < 1024,
        let v := if isFloat (vType w) then f.1 else clampBits (elemWidth (vType w)) x
        let p := elemsToLanes (vType w) (if vType w = 1 ∨ vType w = 3 then [v, v] else [v])
        nth 0 ((t.chip.wing n).vec.reg (vVd w)) i = p.1 ∧ (vType w = 4 → nth 0 ((t.chip.wing n).vec.reg (vVd w + 1)) i = p.2)) ∧
      State.VecFrame (Touch.vec s.chip n r w) n s t

/-- The truth of a comparison of two elements by the order that it asks for: of floats no order holds with a NaN (R63, R197). -/
def truthOf (rel : Ordering → Bool) (t a b : Nat) : Bool :=
  if isFloat t then (match (elemFl t a).cmp (elemFl t b) with | some o => rel o | none => false)
  else rel (if elemInt t a < elemInt t b then .lt else if elemInt t a = elemInt t b then .eq else .gt)

/-- A comparison: mask VD holds the truth in active lanes, of a packed lane where its two elements agree; inactive lanes follow ZM, and m0
stays all ones (R195, R197, R199). -/
def Claim.compares (ctor : Wing → Instr) (op : Nat) (rel : Ordering → Bool) : Prop :=
  ∀ (s : State) (n : Wing) (r : VecRun) (w : Word), s.chip.VecAt n op r w → (s.chip.wing n).vec.m.length = 8 →
    Runs (ctor n) s fun t =>
      (∃ (m : List (BitVec 1024)) (fl : List (BitVec 1024)),
        (t.chip.wing n).vec = { (s.chip.wing n).vec with m := m, flags := fl, run := some r.next }) ∧
      (∀ k, k ≠ vVd w % 8 → (t.chip.wing n).vec.mask k = (s.chip.wing n).vec.mask k) ∧
      (vSrcEven w (vVa w) → vSrcEven w (vVb w) → vVd w % 8 ≠ 0 → ∀ i < 1024, ∀ b : Bool,
        (∀ p ∈ ((s.chip.wing n).vec.elems (vType w) (vVa w) i).zip ((s.chip.wing n).vec.elems (vType w) (vVb w) i),
          truthOf rel (vType w) p.1 p.2 = b) →
        ((t.chip.wing n).vec.mask (vVd w % 8)).getLsbD i =
          if ((s.chip.wing n).vec.mask (vMask w)).getLsbD i = true then b
          else if vZm w = true then false else ((s.chip.wing n).vec.mask (vVd w % 8)).getLsbD i) ∧
      State.VecFrame (Touch.vec s.chip n r w) n s t

/-- CMPEQ (R197). -/
def Claim.vCmpeq : Prop := Claim.compares .vCmpeq 0x18 fun o => o == .eq
/-- CMPLT (R197). -/
def Claim.vCmplt : Prop := Claim.compares .vCmplt 0x19 fun o => o == .lt
/-- CMPLE (R197). -/
def Claim.vCmple : Prop := Claim.compares .vCmple 0x1A fun o => o != .gt

/-- The tensor in whose census a CVT with CE counts, where the format has a delayed scale (R72, R74, R77). -/
def Chip.cvtScaled (c : Chip) (n : Nat) (w : Word) : Prop :=
  (c.wing n).vec.cvtTensor w < c.tensors ∧ isCodeFmt (vImm w 3 0) = true

/-- CVT whose tensor's history is complete: only its destination and its flags change. An element of one lane goes into AI8, AC8, BX8, BX16
or int32 codes as the number nearest to x × 2^−s, ties to even, clamped to the format's limit, s the low byte of s[SR], or 0 for a census
slot beyond TENSORS; and a float or integer goes into binary32 with one rounding (R62, R70, R77, R198). -/
def Claim.vCvt : Prop :=
  ∀ (s : State) (n : Wing) (r : VecRun) (w : Word), s.chip.VecAt n 0x28 r w →
    (s.chip.cvtScaled n w → s.chip.histReady s.chip.censusStep = true) →
    Runs (.vCvt n) s fun t =>
      (s.chip.wing n).vec.writes (t.chip.wing n).vec r (vDests w (if vImm w 3 0 = 0x0A then 4 else 2)) ∧
      (let x := (s.chip.wing n).vec
       let ten := x.cvtTensor w
       let sc : Int := if s.chip.tensors ≤ ten ∧ ten ≠ noTensor then 0 else sext 8 (x.scal (vSr w)).toNat
       vSrcEven w (vVa w) → (vType w = 0 ∨ vType w = 2 ∨ vType w = 4) → vImm w 5 5 = 0 → ∀ i < 1024, (x.mask (vMask w)).getLsbD i = true →
        ∀ (neg : Bool) (m : Nat) (e : Int), elemVal (vType w) (nth 0 (x.elems (vType w) (vVa w) i) 0) = .fin neg m e →
        ((1 ≤ vImm w 3 0 ∧ vImm w 3 0 ≤ 4) ∨ vImm w 3 0 = 9 →
          nth 0 ((t.chip.wing n).vec.reg (vVd w)) i =
            BitVec.ofInt 32 (clampInt (-cvtLimit (vImm w 3 0)) (cvtLimit (vImm w 3 0)) (finToInt neg m e sc))) ∧
        (vImm w 3 0 = 5 → nth 0 ((t.chip.wing n).vec.reg (vVd w)) i =
          BitVec.ofNat 32 (fmt32.round neg m (if isFloat (vType w) then e else e + sc) false).1)) ∧
      State.VecFrame ((Touch.vec s.chip n r w).or
        { regs := fields [(Reg.stepVote, 2, 2), (Reg.stepStatus, 2, 2), (Reg.stepCtr 2, 47, 0)] }) n s t

/-- CVT of a tensor whose history is not complete: it waits, and HIST_WAIT is set once for its wait (R74). -/
def Claim.vCvtWaits : Prop :=
  ∀ (s : State) (n : Wing) (r : VecRun) (w : Word), s.chip.VecAt n 0x28 r w → s.chip.good → s.chip.cvtScaled n w →
    s.chip.histReady s.chip.censusStep = false →
    Runs (.vCvt n) s fun t =>
      t.chip.wing n = { s.chip.wing n with vec := { (s.chip.wing n).vec with run := some { r with histWait := true } } } ∧
      (r.histWait = false → t.chip.flag Reg.censusStatus 0 = true ∧
        t.chip.fld (Reg.censusCtr 0) 47 0 = (s.chip.fld (Reg.censusCtr 0) 47 0 + 1) % 2 ^ 48) ∧
      State.Frame { regs := fun a i => r.histWait = false ∧ fields [(Reg.censusStatus, 0, 0), (Reg.censusCtr 0, 47, 0)] a i,
                    wings := only [n.val] } s t

/-- RSUM: the results lie in lanes 0, 256, 512 and 768, zero elsewhere in active lanes; of int32 they are the exact sums of each 256
lanes, an inactive lane adding zero, as wide results (R197, R68). -/
def Claim.vRsum : Prop :=
  ∀ (s : State) (n : Wing) (r : VecRun) (w : Word), s.chip.VecAt n 0x2C r w →
    Runs (.vRsum n) s fun t =>
      (s.chip.wing n).vec.writes (t.chip.wing n).vec r (vDests w (if vType w = 2 then 4 else vType w)) ∧
      (∀ i < 1024, i % 256 ≠ 0 → (s.chip.wing n).vec.laneAfter w (if vType w = 2 then 4 else vType w) i (0, 0) (t.chip.wing n).vec) ∧
      (vType w = 2 → ∀ k < 4,
        let v := sumInt ((List.range 256).map fun j =>
          if ((s.chip.wing n).vec.mask (vMask w)).getLsbD (256 * k + j) then (nth 0 ((s.chip.wing n).vec.reg (vVa w)) (256 * k + j)).toInt else 0)
        (s.chip.wing n).vec.laneAfter w 4 (256 * k) (BitVec.ofInt 32 v, BitVec.ofInt 32 (v / 2 ^ 32)) (t.chip.wing n).vec) ∧
      State.VecFrame (Touch.vec s.chip n r w) n s t

/-- Bytes of a lane in memory (R201). -/
def vLaneBytes (w : Word) : Nat := if vImm w 1 0 = 0 then 4 else if vImm w 1 0 = 1 then 2 else 1

/-- The registers that a VLD writes: with WIDTH 3 a pair and the exponents' register (R201). -/
def vLoadDests (w : Word) : List Nat := if vImm w 1 0 = 3 then [vVd w, vVd w + 1, vVd w + 2] else vDests w (vType w)

/-- VLD without TAG at an address that it may read: its destination is written. From memory that is free of error and not redirected, lane i
of VD holds item i sign-extended in active lanes, and the pairs of a wide load hold the sign too (R201). -/
def Claim.vVld : Prop :=
  ∀ (s : State) (n : Wing) (r : VecRun) (w : Word) (a : Nat), s.chip.VecAt n 0x30 r w → vImm w 2 2 = 0 →
    s.chip.vTarget (s.chip.wing n).vec w = some a →
    Runs (.vVld n) s fun t =>
      (s.chip.wing n).vec.writes (t.chip.wing n).vec r (vLoadDests w) ∧
      (vImm w 1 0 ≠ 3 → s.chip.good → (∀ k < vBytes w, s.chip.home (a + k) = a + k) → ∀ i < 1024,
        let v := sext (8 * vLaneBytes w) (ofLeBytes (s.chip.bytes (a + vLaneBytes w * i) (vLaneBytes w)))
        (s.chip.wing n).vec.laneAfter w (vType w) i (BitVec.ofInt 32 v, BitVec.ofInt 32 (v / 2 ^ 32)) (t.chip.wing n).vec) ∧
      State.VecFrame (Touch.vec s.chip n r w) n s t

/-- VLD with TAG whose words are all full, with no counter pair: it is done, with CONS its words are empty, else as full as before (R201,
R220). -/
def Claim.vVldTag : Prop :=
  ∀ (s : State) (n : Wing) (r : VecRun) (w : Word) (a : Nat), s.chip.VecAt n 0x30 r w → vImm w 2 2 = 1 → r.wait = none →
    s.chip.vTarget (s.chip.wing n).vec w = some a → s.chip.pairs = [] → s.chip.waits = [] →
    (∀ k < vBytes w / 8, s.chip.home (a + 8 * k) = a + 8 * k ∧ s.chip.isFull (a + 8 * k) = true) →
    Runs (.vVld n) s fun t =>
      (s.chip.wing n).vec.writes (t.chip.wing n).vec r (vLoadDests w) ∧
      (∀ k < vBytes w / 8, t.chip.isFull (a + 8 * k) = decide (vImm w 3 3 = 0)) ∧ State.Frame Touch.units s t

/-- VLD or VST at an address that R201 does not allow: VFAULT with the address and the instruction's index, and the command and its task
stop (R201). -/
def Claim.vAccessFault : Prop :=
  ∀ (s : State) (n : Wing) (r : VecRun) (w : Word) (st : Bool), s.chip.VecAt n (if st then 0x31 else 0x30) r w →
    s.chip.vTarget (s.chip.wing n).vec w = none →
    Runs (if st then .vVst n else .vVld n) s fun t =>
      t.chip.flag (Reg.vecStatus n) 5 = true ∧ (t.chip.wing n).vec.run = none ∧
      t.chip.fld (Reg.vecFault n) 63 48 = r.pc % 2 ^ 16 ∧ t.chip.fld (Reg.vecFault n) 43 0 = vAddr (s.chip.wing n).vec w % 2 ^ 44 ∧
      (∀ k, r.cmd.tag.task = some k → s.chip.stoppable k = true → (t.chip.task k).stopReq ≠ none) ∧
      (s.chip.good → ∀ k, r.cmd.tag.task = some k → s.chip.stoppable k = true →
        (t.chip.task k).stopReq = some ((s.chip.task k).stopReq.getD 0x11)) ∧
      State.VecFrame { regs := fun q i => fields [(Reg.vecStatus n, 5, 0), (Reg.vecFault n, 63, 0)] q i ∨ ∃ k < 6, q = Reg.vecCtr n k,
                       wings := only [n.val], tasks := fun k => r.cmd.tag.task = some k, parts := [.free] } n s t

/-- VST without TAG at an address that it may write: the instruction is done. To a gallery store that no redirect serves elsewhere, with
WIDTH 0 to 2, item i takes the low bytes of lane i of VA in active lanes, and in an inactive lane zero with ZM, else keeps its bytes
(R201). -/
def Claim.vVst : Prop :=
  ∀ (s : State) (n : Wing) (r : VecRun) (w : Word) (a : Nat), s.chip.VecAt n 0x31 r w → vImm w 2 2 = 0 →
    s.chip.vTarget (s.chip.wing n).vec w = some a →
    Runs (.vVst n) s fun t =>
      (t.chip.wing n).vec = { (s.chip.wing n).vec with run := some r.next } ∧
      State.Frame Touch.units s t ∧
      (vImm w 1 0 ≠ 3 → ∀ m g, (∀ k < vBytes w, s.chip.region (a + k) = .galStore m g ∧ s.chip.home (a + k) = a + k) →
        (∀ i < 1024, t.chip.bytes (a + vLaneBytes w * i) (vLaneBytes w) =
          if ((s.chip.wing n).vec.mask (vMask w)).getLsbD i = true then leBytes (vLaneBytes w) (nth 0 ((s.chip.wing n).vec.reg (vVa w)) i).toNat
          else if vZm w = true then List.replicate (vLaneBytes w) 0
          else s.chip.bytes (a + vLaneBytes w * i) (vLaneBytes w)) ∧
        (s.chip.good → State.Frame { mem := span a (vBytes w), par := span (a / 4) (vBytes w / 4), wings := only [n.val], parts := [.free] } s t))

/-- VST with TAG of full lanes whose words are all empty, every lane active, no access waiting and no counter pair: it is done and its words
are full (R201, R220). -/
def Claim.vVstTag : Prop :=
  ∀ (s : State) (n : Wing) (r : VecRun) (w : Word) (a : Nat), s.chip.VecAt n 0x31 r w → vImm w 2 2 = 1 → vImm w 1 0 = 0 → vMask w = 0 →
    r.wait = none → s.chip.vTarget (s.chip.wing n).vec w = some a → s.chip.pairs = [] → s.chip.waits = [] →
    (∀ k < 512, s.chip.home (a + 8 * k) = a + 8 * k ∧ s.chip.isFull (a + 8 * k) = false) →
    Runs (.vVst n) s fun t =>
      (t.chip.wing n).vec = { (s.chip.wing n).vec with run := some r.next } ∧
      (∀ k < 512, t.chip.isFull (a + 8 * k) = true) ∧ State.Frame Touch.units s t

/-- VEND: the command ends, and each flag raised in some lane goes into vec.status (R197, R200). -/
def Claim.vVend : Prop :=
  ∀ (s : State) (n : Wing) (r : VecRun) (w : Word), s.chip.VecAt n 0x00 r w →
    Runs (.vVend n) s fun t =>
      (t.chip.wing n).vec = { (s.chip.wing n).vec with run := none } ∧
      (∀ k < 5, t.chip.flag (Reg.vecStatus n) k = (s.chip.flag (Reg.vecStatus n) k || decide (nth 0 (s.chip.wing n).vec.flags k ≠ 0))) ∧
      State.VecFrame { regs := fun q i => fields [(Reg.vecStatus n, 4, 0)] q i ∨ ∃ k < 5, q = Reg.vecCtr n k, wings := only [n.val],
                       parts := [.free] } n s t

/-- FLAG: of a flag 0 to 4 mask VD holds the flag in active lanes, inactive lanes follow ZM, and IMM[3] clears the flag in the active lanes;
no other mask changes (R195, R197). -/
def Claim.vFlag : Prop :=
  ∀ (s : State) (n : Wing) (r : VecRun) (w : Word), s.chip.VecAt n 0x38 r w → (s.chip.wing n).vec.m.length = 8 →
    (s.chip.wing n).vec.flags.length = 5 →
    Runs (.vFlag n) s fun t =>
      (∃ (m : List (BitVec 1024)) (fl : List (BitVec 1024)),
        (t.chip.wing n).vec = { (s.chip.wing n).vec with m := m, flags := fl, run := some r.next }) ∧
      (∀ k, k ≠ vVd w % 8 → (t.chip.wing n).vec.mask k = (s.chip.wing n).vec.mask k) ∧
      (vImm w 2 0 < 5 → ∀ i < 1024,
        (vVd w % 8 ≠ 0 → ((t.chip.wing n).vec.mask (vVd w % 8)).getLsbD i =
          if ((s.chip.wing n).vec.mask (vMask w)).getLsbD i = true then (nth 0 (s.chip.wing n).vec.flags (vImm w 2 0)).getLsbD i
          else if vZm w = true then false else ((s.chip.wing n).vec.mask (vVd w % 8)).getLsbD i) ∧
        (∀ k < 5, (nth 0 (t.chip.wing n).vec.flags k).getLsbD i =
          ((nth 0 (s.chip.wing n).vec.flags k).getLsbD i &&
            !(decide (k = vImm w 2 0 ∧ vImm w 3 3 = 1) && ((s.chip.wing n).vec.mask (vMask w)).getLsbD i)))) ∧
      State.VecFrame (Touch.vec s.chip n r w) n s t

/-- SOP: s[VD] takes the sum with the immediate or s[VA], the difference, the shift, or the immediate; codes 6 and 7 leave a free value
(log 10). No other register changes (R197). -/
def Claim.vSop : Prop :=
  ∀ (s : State) (n : Wing) (r : VecRun) (w : Word), s.chip.VecAt n 0x3C r w →
    Runs (.vSop n) s fun t => ∃ v : Word,
      (t.chip.wing n).vec = { (s.chip.wing n).vec with
        sc := setAt (s.chip.wing n).vec.sc (vVd w % 16) v, run := some r.next } ∧
      (let d := (s.chip.wing n).vec.scal (vVd w % 16)
       let a := (s.chip.wing n).vec.scal (vVa w % 16)
       let imm : Word := BitVec.ofInt 64 (sext 20 (vImm w 22 3))
       (vImm w 2 0 = 0 → v = d + imm) ∧ (vImm w 2 0 = 1 → v = d + a) ∧ (vImm w 2 0 = 2 → v = d - a) ∧
       (vImm w 2 0 = 3 → v = d <<< vImm w 8 3) ∧ (vImm w 2 0 = 4 → v = d.sshiftRight (vImm w 8 3)) ∧ (vImm w 2 0 = 5 → v = imm)) ∧
      State.VecFrame { wings := only [n.val], parts := [.free] } n s t

/-- SLOOP: s[SR] falls by 1, and the program goes on IMM instructions from here while it is not zero, else with the next (R197). -/
def Claim.vSloop : Prop :=
  ∀ (s : State) (n : Wing) (r : VecRun) (w : Word), s.chip.VecAt n 0x3D r w →
    ((s.chip.wing n).vec.scal (vSr w) ≠ 1 → 0 ≤ (r.pc : Int) + sext 23 (vImm w 22 0)) →
    Runs (.vSloop n) s fun t =>
      (let v := (s.chip.wing n).vec.scal (vSr w) - 1
       (t.chip.wing n).vec = { (s.chip.wing n).vec with
         sc := setAt (s.chip.wing n).vec.sc (vSr w) v
         run := some (if v = 0 then r.next else { r with pc := ((r.pc : Int) + sext 23 (vImm w 22 0)).toNat }) }) ∧
      State.VecFrame { wings := only [n.val], parts := [.free] } n s t

/-- SBR: the program goes on IMM instructions from here (R197). A branch to before the program's first instruction ends the command with
CMD_BAD, which is the model's reading (log 22). -/
def Claim.vSbr : Prop :=
  ∀ (s : State) (n : Wing) (r : VecRun) (w : Word), s.chip.VecAt n 0x3E r w →
    Runs (.vSbr n) s fun t =>
      (0 ≤ (r.pc : Int) + sext 23 (vImm w 22 0) →
        (t.chip.wing n).vec = { (s.chip.wing n).vec with
          run := some { r with pc := ((r.pc : Int) + sext 23 (vImm w 22 0)).toNat } } ∧
        State.VecFrame { wings := only [n.val], parts := [.free] } n s t) ∧
      ((r.pc : Int) + sext 23 (vImm w 22 0) < 0 → t.chip.flag (Reg.vecStatus n) 6 = true ∧ (t.chip.wing n).vec.run = none) ∧
      State.Frame Touch.units s t

/-- A vector command is valid: its version, addresses and last word, with the program and the arguments in the wing's own store (R202). -/
def Chip.vCmdOk (c : Chip) (n : Nat) (ws : List Word) : Bool :=
  decide (cmdWord ws 0 = 1 ∧ wbits (cmdWord ws 1) 63 44 = 0 ∧ wbits (cmdWord ws 2) 63 44 = 0 ∧ vProg ws % 64 = 0 ∧ vArgs ws % 64 = 0) &&
    lastOk (cmdWord ws 3) && c.inOwnStore n (vProg ws) 8 && c.inOwnStore n (vArgs ws) 256

/-- VECTOR_COMMAND: a valid command at the head of the queue begins its program at instruction 0, with vector registers zero, masks all
ones, flags clear, the scalars from ARGS and the census slots from the words after them (R202, R203). The Pendun update program is carried
out as a whole, which is the model's form of it (R327, log 120). -/
def Claim.vectorCommand : Prop :=
  ∀ (s : State) (n : Wing) (q : UCmd) (rest : List UCmd), (s.chip.wing n).vec.run = none → (s.chip.wing n).vec.queue = q :: rest →
    s.chip.inRun n = true → s.chip.halted = false → s.chip.vCmdOk n q.words = true →
    Runs (.vectorCommand n) s fun t =>
      (∃ (sc : List Word) (sl : List Nat),
        (t.chip.wing n).vec = { (s.chip.wing n).vec with
          queue := rest, run := (if s.chip.isUpdate n (vProg q.words) then none else some { cmd := q, pc := 0, wait := none }), v := [],
          m := List.replicate 8 (BitVec.allOnes 1024), flags := List.replicate 5 0, sc := sc, cslots := sl } ∧
        ((∀ k < 256, s.chip.home (vArgs q.words + k) = vArgs q.words + k) →
          sc = ((List.range 16).map fun k => s.chip.word (vArgs q.words + 8 * k)) ∧
          sl = ((List.range 16).map fun k => wbits (s.chip.word (vArgs q.words + 128 + 8 * k)) 23 0))) ∧
      State.Frame Touch.units s t ∧
      (s.chip.good → s.chip.isUpdate n (vProg q.words) = false → State.Frame { wings := only [n.val] } s t)

/-- VECTOR_COMMAND with an invalid command: CMD_BAD, and its task is to stop (R202). -/
def Claim.vectorCommandBad : Prop :=
  ∀ (s : State) (n : Wing) (q : UCmd) (rest : List UCmd), (s.chip.wing n).vec.run = none → (s.chip.wing n).vec.queue = q :: rest →
    s.chip.inRun n = true → s.chip.halted = false → s.chip.vCmdOk n q.words = false →
    Runs (.vectorCommand n) s fun t =>
      t.chip.flag (Reg.vecStatus n) 6 = true ∧ (t.chip.wing n).vec.run = none ∧ (t.chip.wing n).vec.queue = rest ∧
      (∀ k, q.tag.task = some k → s.chip.stoppable k = true → (t.chip.task k).stopReq = some ((s.chip.task k).stopReq.getD 0x11)) ∧
      State.Frame { regs := fields [(Reg.vecStatus n, 6, 6), (Reg.vecCtr n 6, 47, 0), (Reg.vecFault n, 63, 48)], wings := only [n.val],
                    tasks := fun k => q.tag.task = some k } s t

/-! ### The sign-step update (R325 to R328) -/

/-- A state block has 32 weights, and each of its numbers fits its field. -/
structure StateBlock.Fits (b : StateBlock) : Prop where
  lens : b.q.length = 32 ∧ b.prev.length = 32 ∧ b.zero.length = 32
  e    : -128 ≤ b.e ∧ b.e ≤ 127
  sig  : -128 ≤ b.sig ∧ b.sig ≤ 127
  q    : ∀ x ∈ b.q, -32768 ≤ x ∧ x ≤ 32767

/-- The 80 bytes of a state block hold all of it, and no other block's 80 bytes are the same (R325). -/
def Claim.stateBytes : Prop :=
  ∀ b : StateBlock, b.Fits → b.bytes.length = 80 ∧ StateBlock.ofBytes b.bytes = b

/-- The sign-step rule gives a state block of 32 weights again: elements within ±32,767, the step exponent within SMIN to SMAX, and each
weight's sign as its gradient has it, or as before for a zero gradient (R327). -/
def Claim.signStepRule : Prop :=
  ∀ (l decay : Nat) (smin smax : Int) (signs : List Int) (b : StateBlock), signs.length = 32 → b.Fits → smin ≤ smax →
    (signStep l decay smin smax signs b).1.q.length = 32 ∧
    (∀ x ∈ (signStep l decay smin smax signs b).1.q, -32767 ≤ x ∧ x ≤ 32767) ∧
    smin ≤ (signStep l decay smin smax signs b).1.sig ∧ (signStep l decay smin smax signs b).1.sig ≤ smax ∧
    (∀ i < 32, nth false (signStep l decay smin smax signs b).1.zero i = decide (nth 0 signs i = 0) ∧
      nth false (signStep l decay smin smax signs b).1.prev i =
        if nth 0 signs i = 0 then nth false b.prev i else decide (nth 0 signs i < 0))

/-- One block's update: of a state tile that carries FROZEN nothing is read or written; else the rule's block lies where the block lay, where
that is local memory with no error and no redirect (R325, R327, R328). -/
def Claim.updateBlock : Prop :=
  ∀ (c : Chip) (n : Nat) (r : UpdateRec) (l base signs b : Nat) (task : Option Nat),
    (c.tileFrozen (stateAddr base b) = true → c.updateBlock n r l base signs b task = c) ∧
    ∀ m, c.tileFrozen (stateAddr base b) = false → c.recErr = [] →
      (∀ k < 80, c.region (stateAddr base b + k) = .localMem m ∧ c.home (stateAddr base b + k) = stateAddr base b + k) →
      (∀ k < 8, c.region (signs + 8 * b + k) = .localMem m ∧ c.home (signs + 8 * b + k) = signs + 8 * b + k) →
      (c.updateBlock n r l base signs b task).bytes (stateAddr base b) 80 =
        (signStep l r.decay r.smin r.smax
          ((List.range 32).map fun i => signOf (ofLeBytes (c.bytes (signs + 8 * b) 8) / 4 ^ i % 4))
          (StateBlock.ofBytes (c.bytes (stateAddr base b) 80))).1.bytes

/-! ### Docent threads (R204 to R213) -/

/-- A thread's instruction may issue and its caches are not at fault: it is the thread's turn at the instruction's clock (R204). -/
def Chip.mayDo (c : Chip) (n g th : Nat) (i : DocIssue) : Prop := c.mayIssue n g th (c.clockNow i.clk) = true ∧ i.err = false

/-- A thread that goes on at its next instruction (log 5). -/
def ThreadSt.goesOn (x : ThreadSt) : ThreadSt := { x with pc := Config.docentNextPc x.pc }

/-- A gallery in which an instruction of a thread has issued, which is what the round goes by (R204). -/
def Gal.withIssue (x : Gal) (th now : Nat) : Gal := { x with lastThread := some th, issuedAt := NMap.put x.issuedAt th now }

/-- A thread after an instruction that gives register rd the value v: it goes on at the next instruction (log 5). -/
def ThreadSt.result (x : ThreadSt) (rd : Nat) (v : Word) (y : ThreadSt) : Prop :=
  y = { x.goesOn with regs := y.regs, lastMiss := y.lastMiss } ∧ y.reg rd = v ∧ ∀ k, k ≠ rd → y.reg k = x.reg k

/-- A plain store to a place puts its bytes there: a gallery store; a wing store but for a live counter pair's words; or local memory
whose line is a codeword. -/
def Chip.takesStore (c : Chip) (h : Nat) : Prop :=
  match c.region h with
  | .galStore _ _ => True
  | .wingStore _ => c.pairAt h = none
  | .localMem m => c.lineBad m (h % 0x1000000000 / 64) = false
  | _ => False

/-- No watch of the wing whose local memory holds a place. -/
def Chip.unwatched (c : Chip) (h : Nat) : Prop := ∀ m, c.region h = .localMem m → (c.wing m).watch = []

/-- LD from a store or a host window: the register's low bytes are the bytes at the word's home, and of 8 bytes all of it; the bits above
a shorter load are free, and so is a byte of a host window that the part has not written (logs 6, 8; R205, R206, R399). -/
def Claim.ld : Prop :=
  ∀ (s : State) (n : Wing) (g : GalIx) (th : Thread) (i : DocIssue) (rd : Fin 32) (addr : Word) (size a : Nat) (r : Region),
    s.chip.mayDo n g th i → 1 ≤ size → size ≤ 8 → s.chip.reach n g th addr size false = .mem a r →
    (r.isStore = true ∨ ∃ p, r = .hostWin p) →
    Runs (.ld n g th rd addr size i) s fun t =>
      (∃ v : Word, ((s.chip.gal n g).thread th).result rd v ((t.chip.gal n g).thread th) ∧
        ((s.chip.region (s.chip.home a)).isStore = true → v.toNat % 2 ^ (8 * size) = ofLeBytes (s.chip.bytes (s.chip.home a) size)) ∧
        (∀ p, r = .hostWin p → ∀ k < size, ∀ b, NMap.find s.chip.hostMem (hostKey p (s.chip.hostBus p (a + k))) = some b →
          v.toNat / 2 ^ (8 * k) % 256 = b.toNat)) ∧
      (∀ k : Nat, k ≠ th.val → (t.chip.gal n g).thread k = (s.chip.gal n g).thread k) ∧
      State.Frame Touch.units s t ∧
      (s.chip.good → (s.chip.region (s.chip.home a)).isStore = true ∨ (∃ p, r = .hostWin p) →
        State.Frame { gals := only [galKey n g], parts := [.free] } s t)

/-- LD from a line of local memory that the data cache holds: the bytes are the cache's (R207, R209). -/
def Claim.ldCached : Prop :=
  ∀ (s : State) (n : Wing) (g : GalIx) (th : Thread) (i : DocIssue) (rd : Fin 32) (addr : Word) (size a m : Nat) (l : List Byte),
    s.chip.mayDo n g th i → 1 ≤ size → size ≤ 8 → s.chip.reach n g th addr size false = .mem a (.localMem m) →
    NMap.find (s.chip.gal n g).dcache (a / 64) = some l → l.length = 64 →
    Runs (.ld n g th rd addr size i) s fun t =>
      (∃ v : Word, ((s.chip.gal n g).thread th).result rd v ((t.chip.gal n g).thread th) ∧
        v.toNat % 2 ^ (8 * size) = ofLeBytes ((l.drop (a % 64)).take size)) ∧
      (t.chip.gal n g).dcache = (s.chip.gal n g).dcache ∧ State.Frame { gals := only [galKey n g], parts := [.free] } s t

/-- LD from a line of local memory that the data cache does not hold: the bytes are those that a read of the line delivers, corrected where
they can be, and with no error anywhere the line is in the cache; the next line is the one whose miss starts a stream prefetch (R207,
R209, R288). -/
def Claim.ldMiss : Prop :=
  ∀ (s : State) (n : Wing) (g : GalIx) (th : Thread) (i : DocIssue) (rd : Fin 32) (addr : Word) (size a m : Nat),
    s.chip.mayDo n g th i → 1 ≤ size → size ≤ 8 → s.chip.reach n g th addr size false = .mem a (.localMem m) →
    NMap.find (s.chip.gal n g).dcache (a / 64) = none →
    Runs (.ld n g th rd addr size i) s fun t =>
      (∃ v : Word, ((s.chip.gal n g).thread th).result rd v ((t.chip.gal n g).thread th) ∧
        v.toNat % 2 ^ (8 * size) = ofLeBytes (((s.chip.fetch (a / 64 * 64) 64).2.1.drop (a % 64)).take size)) ∧
      ((t.chip.gal n g).thread th).lastMiss = some (a / 64 + 1) ∧
      State.Frame Touch.units s t ∧
      (s.chip.good → (∃ k, s.chip.region (s.chip.home (a / 64 * 64)) = .localMem k) →
        (s.chip.fetch (a / 64 * 64) 64).2.1 = s.chip.bytes (s.chip.home (a / 64 * 64)) 64 ∧
        NMap.find (t.chip.gal n g).dcache (a / 64) = some (s.chip.bytes (s.chip.home (a / 64 * 64)) 64) ∧
        State.Frame { gals := only [galKey n g], parts := [.free] } s t)

/-- LD of a register by a privileged thread: 8 aligned bytes read as the register reads, any other access reads zeros and faults nothing (R7,
R206). A read of corr.data moves INDEX on (R133). -/
def Claim.ldRegister : Prop :=
  ∀ (s : State) (n : Wing) (g : GalIx) (th : Thread) (i : DocIssue) (rd : Fin 32) (addr : Word) (size a : Nat),
    s.chip.mayDo n g th i → 1 ≤ size → size ≤ 8 → s.chip.reach n g th addr size false = .regs a →
    Runs (.ld n g th rd addr size i) s fun t =>
      (∃ v : Word, ((s.chip.gal n g).thread th).result rd v ((t.chip.gal n g).thread th) ∧
        (size = 8 → a % 8 = 0 → v = s.chip.regRead a) ∧ (size ≠ 8 ∨ a % 8 ≠ 0 → v.toNat % 2 ^ (8 * size) = 0)) ∧
      State.Frame { regs := fun r j => ∃ m k, a = Reg.corrData m k ∧ fields [(Reg.corrIndex m k, 12, 0)] r j, gals := only [galKey n g],
                    parts := [.free] } s t

/-- ST to memory: the thread goes on, and the bytes at the home are the register's low bytes, but for a live counter pair's word, which
keeps its bytes with LWORD set (R227); a line of the own data cache is kept equal (R205 to R207). -/
def Claim.st : Prop :=
  ∀ (s : State) (n : Wing) (g : GalIx) (th : Thread) (i : DocIssue) (rs : Fin 32) (addr : Word) (size a : Nat) (r : Region),
    s.chip.mayDo n g th i → 1 ≤ size → size ≤ 8 → s.chip.reach n g th addr size false = .mem a r →
    Runs (.st n g th rs addr size i) s fun t =>
      let v := leBytes size (((s.chip.gal n g).thread th).reg rs).toNat
      (t.chip.gal n g).thread th = ((s.chip.gal n g).thread th).goesOn ∧
      (s.chip.takesStore (s.chip.home a) → t.chip.bytes (s.chip.home a) size = v) ∧
      (∀ m, s.chip.region (s.chip.home a) = .wingStore m → (s.chip.pairAt (s.chip.home a)).isSome = true →
        t.chip.bytes (s.chip.home a) size = s.chip.bytes (s.chip.home a) size ∧ t.chip.flag (Reg.ledgerStatus m) 2 = true) ∧
      (∀ p, r = .hostWin p → ∀ k < size, NMap.find t.chip.hostMem (hostKey p (s.chip.hostBus p a + k)) = some (nth 0 v k)) ∧
      (∀ l, (∃ m, r = .localMem m) → NMap.find (s.chip.gal n g).dcache (a / 64) = some l → l.length = 64 →
        ∃ l', NMap.find (t.chip.gal n g).dcache (a / 64) = some l' ∧ (l'.drop (a % 64)).take size = v) ∧
      State.Frame Touch.units s t ∧
      (s.chip.takesStore (s.chip.home a) → s.chip.unwatched (s.chip.home a) →
        State.Frame { mem := span (s.chip.home a) size, par := span (s.chip.home a / 4) 2, gals := only [galKey n g] } s t)

/-- ST to register space by a privileged thread is a register write: of another size or alignment it is discarded, and of a mask register it
takes the mask's bits (R7, R206, R383 to R388). -/
def Claim.stRegister : Prop :=
  ∀ (s : State) (n : Wing) (g : GalIx) (th : Thread) (i : DocIssue) (rs : Fin 32) (addr : Word) (size a : Nat),
    s.chip.mayDo n g th i → 1 ≤ size → size ≤ 8 → s.chip.reach n g th addr size false = .regs a →
    (size ≠ 8 ∨ a % 8 ≠ 0 → Runs (.st n g th rs addr size i) s fun t =>
      (t.chip.gal n g).thread th = ((s.chip.gal n g).thread th).goesOn ∧ State.Frame { gals := only [galKey n g] } s t) ∧
    (∀ m < 16, size = 8 → a = Reg.wingMask m → s.chip.mayWrite .pendun a = true → Runs (.st n g th rs addr size i) s fun t =>
      (t.chip.gal n g).thread th = ((s.chip.gal n g).thread th).goesOn ∧
      t.chip.fld a 25 0 = wbits (((s.chip.gal n g).thread th).reg rs) 25 0 ∧
      State.Frame { regs := fields [(a, 25, 0)], gals := only [galKey n g] } s t)

/-- A load, store or tagged access that is out of reach, misaligned or not allowed: it is not performed, the thread halts, the fault is
recorded with its kind and address, and the gallery's task is to stop (R206, R213, R214). -/
def Claim.accessFault : Prop :=
  ∀ (s : State) (n : Wing) (g : GalIx) (th : Thread) (j : DocIssue) (r : Fin 32) (addr : Word) (size k : Nat) (i : Instr),
    s.chip.mayDo n g th j → k < 4 →
    ((1 ≤ size ∧ size ≤ 8 ∧ s.chip.reach n g th addr size false = .fault k ∧ (i = .ld n g th r addr size j ∨ i = .st n g th r addr size j)) ∨
      (s.chip.reach n g th addr 8 true = .fault k ∧ (i = .ldf n g th r addr j ∨ i = .ldc n g th r addr j ∨ i = .stf n g th r addr j))) →
    Runs i s fun t =>
      (t.chip.gal n g).thread th = { (s.chip.gal n g).thread th with halted := true } ∧
      t.chip.flag (Reg.docFault n g) 0 = true ∧ t.chip.fld (Reg.docFault n g) 12 8 = th.val ∧ t.chip.fld (Reg.docFault n g) 18 16 = k ∧
      t.chip.fld (Reg.docFault n g) 63 20 = ((s.chip.gal n g).thread th).pc.toNat ∧ t.chip.rd (Reg.docFaultAddr n g) = addr ∧
      (∀ j, s.chip.galTask n g = some j → s.chip.stoppable j = true → (t.chip.task j).stopReq = some ((s.chip.task j).stopReq.getD 0x11)) ∧
      State.Frame { regs := fields [(Reg.docFault n g, 63, 0), (Reg.docFaultAddr n g, 63, 0), (Reg.docCtr n g, 47, 0)],
                    gals := only [galKey n g], tasks := fun j => s.chip.galTask n g = some j } s t

/-- An instruction of a docent, whichever it is. -/
def Instr.ofDocent (n : Wing) (g : GalIx) (th : Thread) (i : DocIssue) (x : Instr) : Prop :=
  (∃ r a z, x = .ld n g th r a z i ∨ x = .st n g th r a z i) ∨ (∃ r a, x = .ldf n g th r a i ∨ x = .ldc n g th r a i ∨ x = .stf n g th r a i) ∨
    (∃ a z, x = .dinv n g th a z i) ∨ (∃ a, x = .pref n g th a i) ∨ (∃ m r k, x = .cmd n g th m r k i) ∨ (∃ r, x = .tick n g th r i) ∨
    (∃ r a, x = .spawn n g th r a i) ∨ x = .fence n g th i ∨ x = .exit n g th i

/-- An error in a cache of a docent, at an instruction whose turn it is: the instruction is not performed, the docent's parity flag is
set and counted, and the gallery's task is to stop with REASON 0x12 (log 109; R213, R367, R368). -/
def Claim.docentCacheError : Prop :=
  ∀ (s : State) (n : Wing) (g : GalIx) (th : Thread) (i : DocIssue) (x : Instr), s.chip.mayIssue n g th (s.chip.clockNow i.clk) = true →
    i.err = true → Instr.ofDocent n g th i x →
    Runs x s fun t =>
      (t.chip.gal n g).thread th = (s.chip.gal n g).thread th ∧ t.chip.flag (Reg.galFlt n g) 4 = true ∧
      t.chip.fld (Reg.galFltCtr n g 4) 47 0 = (s.chip.fld (Reg.galFltCtr n g 4) 47 0 + 1) % 2 ^ 48 ∧
      (s.chip.recov = none → ∀ k, s.chip.galTask n g = some k → s.chip.stoppable k = true →
        (t.chip.task k).stopReq = some ((s.chip.task k).stopReq.getD 0x12)) ∧
      State.Frame Touch.units s t

/-- An instruction of a thread whose turn it is not at that clock changes nothing: one that is not eligible, one within 4 clocks of its last,
or one with another eligible thread before it in the round (R204). -/
def Claim.docentTurn : Prop :=
  ∀ (s : State) (n : Wing) (g : GalIx) (th : Thread) (i : DocIssue) (x : Instr), Instr.ofDocent n g th i x →
    (s.chip.eligible n g th = false ∨
      (∃ k, NMap.find (s.chip.gal n g).issuedAt th = some k ∧ s.chip.clockNow i.clk < k + 4) ∨
      (∃ k ∈ (s.chip.gal n g).ahead th, s.chip.eligibleAt n g k (s.chip.clockNow i.clk) = true)) →
    Runs x s fun t => State.Frame {} s t

/-- A thread whose access is held by the word's home, or is returned to be sent again where the waiting table is full (R221). -/
def Chip.holds (c d : Chip) (w : Wait) : Prop :=
  if (c.waits.filter fun x => c.sameTable x.addr w.addr).length < c.tableSize w.addr then d.waits = c.waits ++ [w] ∧ d.resends = c.resends
  else d.waits = c.waits ∧ d.resends = c.resends ++ [w] ∧ d.flag (Reg.ledgerStatus (c.region w.addr).wing) 4 = true

/-- What a held access may touch. -/
def Touch.held (c : Chip) (n g : Nat) (a : Nat) : Touch :=
  { regs := fields [(Reg.ledgerStatus (c.region a).wing, 4, 4), (Reg.ledgerCtr (c.region a).wing 4, 47, 0)], gals := only [galKey n g],
    parts := [.waits, .resends] }

/-- LDF of a full word: the register holds the word, which stays full (R205, R220). -/
def Claim.ldf : Prop :=
  ∀ (s : State) (n : Wing) (g : GalIx) (th : Thread) (i : DocIssue) (rd : Fin 32) (addr : Word) (a : Nat) (r : Region),
    s.chip.mayDo n g th i → s.chip.reach n g th addr 8 true = .mem a r → s.chip.isFull (s.chip.home a) = true →
    Runs (.ldf n g th rd addr i) s fun t =>
      ((s.chip.gal n g).thread th).result rd (s.chip.word (s.chip.home a)) ((t.chip.gal n g).thread th) ∧
      State.Frame Touch.units s t ∧ (s.chip.good → State.Frame { gals := only [galKey n g] } s t)

/-- LDF, or LDC, of an empty word: the thread waits at the word, whose home holds the access or, with its waiting table full, returns it
with TWAIT_FULL (R220, R221). -/
def Claim.ldWaits : Prop :=
  ∀ (s : State) (n : Wing) (g : GalIx) (th : Thread) (i : DocIssue) (rd : Fin 32) (addr : Word) (a : Nat) (r : Region) (consume : Bool),
    s.chip.mayDo n g th i → s.chip.reach n g th addr 8 true = .mem a r → s.chip.isFull (s.chip.home a) = false →
    Runs (if consume then .ldc n g th rd addr i else .ldf n g th rd addr i) s fun t =>
      (t.chip.gal n g).thread th = { ((s.chip.gal n g).thread th).goesOn with wait := .word addr.toNat } ∧
      Chip.holds s.chip t.chip { addr := s.chip.home a, issuer := .thread n g th rd, kind := if consume then .consume else .read, value := 0,
                                 pars := [], since := s.chip.tick.edges, task := s.chip.galTask n g } ∧
      State.Frame (Touch.held s.chip n g (s.chip.home a)) s t

/-- LDC of a full word: the register holds the word. One that is no counter pair's is empty after, unless an access that waited there fills
it; a pair's token word takes one off the pair's level, and its space word changes nothing (R205, R220, R227). -/
def Claim.ldc : Prop :=
  ∀ (s : State) (n : Wing) (g : GalIx) (th : Thread) (i : DocIssue) (rd : Fin 32) (addr : Word) (a : Nat) (r : Region),
    s.chip.mayDo n g th i → s.chip.reach n g th addr 8 true = .mem a r → s.chip.isFull (s.chip.home a) = true →
    Runs (.ldc n g th rd addr i) s fun t =>
      ((t.chip.gal n g).thread th).wait = .ready ∧ ((t.chip.gal n g).thread th).pc = Config.docentNextPc ((s.chip.gal n g).thread th).pc ∧
      State.Frame Touch.units s t ∧
      (s.chip.waits = [] →
        ((s.chip.gal n g).thread th).result rd (s.chip.word (s.chip.home a)) ((t.chip.gal n g).thread th) ∧
        (s.chip.pairAt (s.chip.home a) = none → t.chip.isFull (s.chip.home a) = false ∧
          (s.chip.good → State.Frame { full := only [s.chip.home a / 8], gals := only [galKey n g] } s t)) ∧
        (∀ k, s.chip.pairAt (s.chip.home a) = some (k, false) →
          let p := NMap.get (fun _ => Pair.reset) s.chip.pairs k
          NMap.get (fun _ => Pair.reset) t.chip.pairs k = { p with c := (p.c + 1) % 2 ^ 48 }) ∧
        (∀ k, s.chip.pairAt (s.chip.home a) = some (k, true) → s.chip.good → State.Frame { gals := only [galKey n g] } s t))

/-- STF: an empty word that is no counter pair's holds the register's value and is full, unless an access that waited there takes it; a
full one holds the access; a live pair's word is not written, and LWORD is set (R205, R220, R221, R227). -/
def Claim.stf : Prop :=
  ∀ (s : State) (n : Wing) (g : GalIx) (th : Thread) (i : DocIssue) (rs : Fin 32) (addr : Word) (a : Nat) (r : Region),
    s.chip.mayDo n g th i → s.chip.reach n g th addr 8 true = .mem a r →
    Runs (.stf n g th rs addr i) s fun t =>
      (s.chip.pairAt (s.chip.home a) = none → s.chip.isFull (s.chip.home a) = false →
        ((t.chip.gal n g).thread th).wait = .ready ∧ ((t.chip.gal n g).thread th).pc = Config.docentNextPc ((s.chip.gal n g).thread th).pc ∧
        ((∀ w ∈ s.chip.waits, w.on (s.chip.home a) = false) →
          t.chip.word (s.chip.home a) = ((s.chip.gal n g).thread th).reg rs ∧ t.chip.isFull (s.chip.home a) = true ∧
          (t.chip.gal n g).thread th = ((s.chip.gal n g).thread th).goesOn ∧
          State.Frame { mem := span (s.chip.home a / 8 * 8) 8, full := only [s.chip.home a / 8], par := span (s.chip.home a / 8 * 2) 2,
                        gals := only [galKey n g] } s t)) ∧
      (s.chip.pairAt (s.chip.home a) = none → s.chip.isFull (s.chip.home a) = true →
        (t.chip.gal n g).thread th = { ((s.chip.gal n g).thread th).goesOn with wait := .word addr.toNat } ∧
        Chip.holds s.chip t.chip { addr := s.chip.home a, issuer := .thread n g th 0, kind := .fill,
                                   value := ((s.chip.gal n g).thread th).reg rs, pars := [], since := s.chip.tick.edges,
                                   task := s.chip.galTask n g } ∧
        State.Frame (Touch.held s.chip n g (s.chip.home a)) s t) ∧
      ((s.chip.pairAt (s.chip.home a)).isSome = true →
        (t.chip.gal n g).thread th = ((s.chip.gal n g).thread th).goesOn ∧
        t.chip.flag (Reg.ledgerStatus (s.chip.region (s.chip.home a)).wing) 2 = true ∧
        State.Frame { regs := fields [(Reg.ledgerStatus (s.chip.region (s.chip.home a)).wing, 2, 2),
                                      (Reg.ledgerCtr (s.chip.region (s.chip.home a)).wing 2, 47, 0)], gals := only [galKey n g] } s t) ∧
      State.Frame Touch.units s t

/-- FENCE, with every earlier store written since each is one command: the thread goes on (R205). -/
def Claim.fence : Prop :=
  ∀ (s : State) (n : Wing) (g : GalIx) (th : Thread) (i : DocIssue), s.chip.mayDo n g th i →
    Runs (.fence n g th i) s fun t =>
      t.chip.gal n g = ((s.chip.gal n g).withIssue th (s.chip.clockNow i.clk)).setThread th ((s.chip.gal n g).thread th).goesOn ∧
      State.Frame { gals := only [galKey n g] } s t

/-- DINV: no line that the range touches is in the data cache; every other line stands as it did. A range outside the part's own
local addresses touches none (R205, R209). -/
def Claim.dinv : Prop :=
  ∀ (s : State) (n : Wing) (g : GalIx) (th : Thread) (i : DocIssue) (addr : Word) (len : Nat), s.chip.mayDo n g th i →
    Runs (.dinv n g th addr len i) s fun t =>
      (∀ a, s.chip.ownLocal addr.toNat = some a → ∀ l,
        NMap.find (t.chip.gal n g).dcache l =
          if 0 < len ∧ a / 64 ≤ l ∧ l ≤ (a + len - 1) / 64 then none else NMap.find (s.chip.gal n g).dcache l) ∧
      (s.chip.ownLocal addr.toNat = none → (t.chip.gal n g).dcache = (s.chip.gal n g).dcache) ∧
      (t.chip.gal n g).thread th = ((s.chip.gal n g).thread th).goesOn ∧ State.Frame { gals := only [galKey n g] } s t

/-- PREF is a hint: the thread goes on, and with no error in memory nothing but the data cache may differ. Whether the line is taken is free
(log 26; R205). -/
def Claim.pref : Prop :=
  ∀ (s : State) (n : Wing) (g : GalIx) (th : Thread) (i : DocIssue) (addr : Word), s.chip.mayDo n g th i →
    Runs (.pref n g th addr i) s fun t =>
      (t.chip.gal n g).thread th = ((s.chip.gal n g).thread th).goesOn ∧ State.Frame Touch.units s t ∧
      (s.chip.good →
        (∃ m : NMap (List Byte), t.chip.gal n g =
          { ((s.chip.gal n g).withIssue th (s.chip.clockNow i.clk)).setThread th ((s.chip.gal n g).thread th).goesOn with dcache := m }) ∧
        State.Frame { gals := only [galKey n g], parts := [.free] } s t)

/-- CMD to another unit with room in its arbiter: the arbiter of the unit's wing holds the command's four words, tagged with the gallery's
task, and the thread goes on; with 64 held, the thread waits with its command (R210, R211). -/
def Claim.cmd : Prop :=
  ∀ (s : State) (n : Wing) (g : GalIx) (th : Thread) (i : DocIssue) (imm : BitVec 8) (rs : Fin 32) (clk m : Nat) (u : ArbUnit),
    s.chip.mayDo n g th i → rs.val + 4 ≤ 32 → imm.toNat % 8 ≠ 0 → s.chip.cmdTarget n imm (s.chip.galTask n g) = some (m, u) →
    Runs (.cmd n g th imm rs clk i) s fun t =>
      let ws := (List.range 4).map fun k => ((s.chip.gal n g).thread th).reg (rs.val + k)
      if s.chip.heldFor m u < 64 then
        (∃ h : HeldCmd, (t.chip.wing m).held = (s.chip.wing m).held ++ [h] ∧ h.unit = u ∧ h.words = ws ∧ h.wing = n.val ∧
          h.tag = { task := s.chip.galTask n g, due := lastDue (ws.getLastD 0), budget := lastBudget (ws.getLastD 0) }) ∧
        (t.chip.gal n g).thread th = ((s.chip.gal n g).thread th).goesOn ∧
        State.Frame { gals := only [galKey n g], wings := only [m] } s t
      else
        (t.chip.gal n g).thread th = { ((s.chip.gal n g).thread th).goesOn with wait := .queueFull imm ws clk } ∧
        State.Frame { gals := only [galKey n g] } s t

/-- CMD to the own gallery: with room in its queue the thread goes on, and a valid command stands last in the queue while an invalid one
sets CMD_BAD; with none the thread waits with its command. A reference-forward task's MVM is no command (R79, R156, R158, R210). -/
def Claim.cmdOwn : Prop :=
  ∀ (s : State) (n : Wing) (g : GalIx) (th : Thread) (i : DocIssue) (imm : BitVec 8) (rs : Fin 32) (clk : Nat),
    s.chip.mayDo n g th i → rs.val + 2 ≤ 32 → imm.toNat % 8 = 0 →
    Runs (.cmd n g th imm rs clk i) s fun t =>
      let w0 := ((s.chip.gal n g).thread th).reg rs.val
      let w1 := ((s.chip.gal n g).thread th).reg (rs.val + 1)
      let no := s.chip.refFwd (s.chip.galTask n g) = true ∧ gOp w0 = 1
      let room := (s.chip.gal n g).cmdQ.length < 16
      let valid := s.chip.gValid (s.chip.galTask n g).isNone w0 w1 = true
      (room → (t.chip.gal n g).thread th = ((s.chip.gal n g).thread th).goesOn) ∧
      (room → ¬no → valid → ∃ q : GCmd, (t.chip.gal n g).cmdQ = (s.chip.gal n g).cmdQ ++ [q] ∧ q.w0 = w0 ∧ q.w1 = w1 ∧ q.clk = clk ∧
        q.tag.task = s.chip.galTask n g ∧ q.tag.due = gDue w1) ∧
      (room → ¬no → ¬valid → t.chip.flag (Reg.cmdStatus n g) 8 = true ∧ (t.chip.gal n g).cmdQ = (s.chip.gal n g).cmdQ) ∧
      (¬room → (t.chip.gal n g).thread th = { ((s.chip.gal n g).thread th).goesOn with wait := .queueFull imm [w0, w1] clk } ∧
        (t.chip.gal n g).cmdQ = (s.chip.gal n g).cmdQ) ∧
      (room → no ∨ ¬valid → ∀ k, s.chip.galTask n g = some k → s.chip.stoppable k = true →
        (t.chip.task k).stopReq = some ((s.chip.task k).stopReq.getD 0x11)) ∧
      State.Frame { regs := fields [(Reg.cmdStatus n g, 8, 8), (Reg.cmdCtr n g 0, 47, 0)], gals := only [galKey n g], wings := only [n.val],
                    tasks := fun k => s.chip.galTask n g = some k } s t

/-- CMD of a reserved kind, an array that the task does not hold, or registers beyond the last: illegal (R210, R213). -/
def Claim.cmdIllegal : Prop :=
  ∀ (s : State) (n : Wing) (g : GalIx) (th : Thread) (i : DocIssue) (imm : BitVec 8) (rs : Fin 32) (clk : Nat), s.chip.mayDo n g th i →
    (32 < rs.val + cmdLen imm ∨ (imm.toNat % 8 ≠ 0 ∧ s.chip.cmdTarget n imm (s.chip.galTask n g) = none)) →
    Runs (.cmd n g th imm rs clk i) s fun t =>
      (t.chip.gal n g).thread th = { (s.chip.gal n g).thread th with halted := true } ∧
      t.chip.flag (Reg.docFault n g) 0 = true ∧ t.chip.fld (Reg.docFault n g) 18 16 = 2 ∧
      (∀ j, s.chip.galTask n g = some j → s.chip.stoppable j = true → (t.chip.task j).stopReq = some ((s.chip.task j).stopReq.getD 0x11)) ∧
      State.Frame { regs := fields [(Reg.docFault n g, 63, 0), (Reg.docFaultAddr n g, 63, 0), (Reg.docCtr n g, 47, 0)],
                    gals := only [galKey n g], tasks := fun j => s.chip.galTask n g = some j } s t

/-- TICK: the register holds the own wing's task tick (R205). -/
def Claim.tick : Prop :=
  ∀ (s : State) (n : Wing) (g : GalIx) (th : Thread) (i : DocIssue) (rd : Fin 32), s.chip.mayDo n g th i →
    Runs (.tick n g th rd i) s fun t =>
      ((s.chip.gal n g).thread th).result rd (s.chip.rd (Reg.tickNow n)) ((t.chip.gal n g).thread th) ∧
      State.Frame { gals := only [galKey n g] } s t

/-- SPAWN: with every thread live the result is −1; else some free thread starts at the address, as privileged as its parent, with no
miss behind it, and all others are as before (log 27 says what is free; R205). -/
def Claim.spawn : Prop :=
  ∀ (s : State) (n : Wing) (g : GalIx) (th : Thread) (i : DocIssue) (rd : Fin 32) (addr : Word), s.chip.mayDo n g th i →
    Runs (.spawn n g th rd addr i) s fun t =>
      (∃ v : Word, ((s.chip.gal n g).thread th).result rd v ((t.chip.gal n g).thread th) ∧
        ((∀ k < 32, ((s.chip.gal n g).thread k).live = true) → v = BitVec.allOnes 64)) ∧
      (∀ k < 32, ((s.chip.gal n g).thread k).live = false → ∃ j < 32, ((s.chip.gal n g).thread j).live = false ∧
        (t.chip.gal n g).thread j = { (s.chip.gal n g).thread j with live := true, halted := false, priv := ((s.chip.gal n g).thread th).priv,
                                                                     pc := addr.truncate 44, wait := .ready, lastMiss := none } ∧
        ∀ i, i ≠ j → i ≠ th.val → (t.chip.gal n g).thread i = (s.chip.gal n g).thread i) ∧
      State.Frame { gals := only [galKey n g], parts := [.free] } s t

/-- EXIT: the calling thread ends (R205). -/
def Claim.exit : Prop :=
  ∀ (s : State) (n : Wing) (g : GalIx) (th : Thread) (i : DocIssue), s.chip.mayDo n g th i →
    Runs (.exit n g th i) s fun t =>
      t.chip.gal n g = ((s.chip.gal n g).withIssue th (s.chip.clockNow i.clk)).setThread th
        { (s.chip.gal n g).thread th with live := false } ∧
      State.Frame { gals := only [galKey n g] } s t

/-! ### DMA, counter pairs and hub queues (R212, R220 to R232) -/

/-- The command in a slot of a wing's DMA engine that may begin now: those before it have begun, and its words are valid (R212). -/
structure Chip.MayCopy (c : Chip) (n k : Nat) (j : DmaJob) : Prop where
  job  : NMap.find (c.wing n).dma k = some j
  runs : c.halted = false
  rest : j.waiting = false ∧ j.written = false ∧ j.begun = false
  new_ : j.moved = 0 ∧ j.held = none ∧ j.buf = [] ∧ j.bufPars = []
  turn : c.jobTurn n j = true
  ok   : c.dmaOk j.cmd.words = true

/-- COPY of any form, at its turn: it has begun, with its transfer number and words, and what it moves is within what the part's units
own (R212, R220, R343). -/
def Claim.copyBegins : Prop :=
  ∀ (s : State) (n : Wing) (k : Fin 8) (j : DmaJob), s.chip.MayCopy n k j →
    Runs (.copy n k) s fun t =>
      (∃ j' : DmaJob, NMap.find (t.chip.wing n).dma k = some j' ∧ j'.begun = true ∧ j'.cmd = j.cmd ∧ j'.xfer = j.xfer) ∧
      State.Frame Touch.units s t

/-- Two ranges of the stores that no redirect moves and no counter pair uses, with nothing waiting and every word good. -/
structure Chip.PlainRanges (c : Chip) (a b len : Nat) : Prop where
  good  : c.good
  pairs : c.pairs = []
  waits : c.waits = []
  apart : a + len ≤ b ∨ b + len ≤ a
  place : ∀ i < len, c.home (a + i) = a + i ∧ c.home (b + i) = b + i ∧ (c.region (a + i)).isStore = true ∧
    (c.region (b + i)).isStore = true

/-- COPY without tags between places of this part: every packet is written, and the destination's bytes are the source's (R212). -/
def Claim.copy : Prop :=
  ∀ (s : State) (n : Wing) (k : Fin 8) (j : DmaJob) (a b : Nat), s.chip.MayCopy n k j → s.chip.isContrib j.cmd.words = false →
    s.chip.sideOf (dSrc j.cmd.words) = .own a → s.chip.sideOf (dDst j.cmd.words) = .own b →
    dWait j.cmd.words = false → dFill j.cmd.words = false →
    Runs (.copy n k) s fun t =>
      NMap.find (t.chip.wing n).dma k = some { j with begun := true, moved := dLen j.cmd.words, written := true } ∧
      State.Frame Touch.units s t ∧
      (s.chip.PlainRanges a b (dLen j.cmd.words) →
        t.chip.bytes b (dLen j.cmd.words) = s.chip.bytes a (dLen j.cmd.words) ∧
        State.Frame { mem := span b (dLen j.cmd.words), par := span (b / 4) (dLen j.cmd.words / 4), wings := only [n.val] } s t)

/-- COPY with tags between places of this part whose words are all as it needs them, full at the source with WAITSRC and empty at the destination
with FILL: the bytes are moved, the source stays full, and with FILL the destination is full (R212, R220). -/
def Claim.copyTagged : Prop :=
  ∀ (s : State) (n : Wing) (k : Fin 8) (j : DmaJob) (a b : Nat), s.chip.MayCopy n k j → s.chip.isContrib j.cmd.words = false →
    s.chip.sideOf (dSrc j.cmd.words) = .own a → s.chip.sideOf (dDst j.cmd.words) = .own b →
    (dWait j.cmd.words = true ∨ dFill j.cmd.words = true) → s.chip.PlainRanges a b (dLen j.cmd.words) →
    (∀ i < dLen j.cmd.words, (dWait j.cmd.words = true → s.chip.isFull (a + i) = true) ∧
      (dFill j.cmd.words = true → s.chip.isFull (b + i) = false)) →
    Runs (.copy n k) s fun t =>
      t.chip.bytes b (dLen j.cmd.words) = s.chip.bytes a (dLen j.cmd.words) ∧
      (dFill j.cmd.words = true → ∀ i < dLen j.cmd.words, t.chip.isFull (b + i) = true) ∧
      (∃ j' : DmaJob, NMap.find (t.chip.wing n).dma k = some j' ∧ j'.written = true ∧ j'.moved = dLen j.cmd.words) ∧
      State.Frame { mem := span b (dLen j.cmd.words), full := span (b / 8) (dLen j.cmd.words / 8),
                    par := span (b / 4) (dLen j.cmd.words / 4), wings := only [n.val] } s t

/-- The first word of a COPY with WAITSRC, still empty and with room at its home: the job waits there, and the home holds the read (R220,
R221). -/
def Claim.copyWaits : Prop :=
  ∀ (s : State) (n : Wing) (k : Fin 8) (j : DmaJob) (a : Nat), s.chip.MayCopy n k j → s.chip.isContrib j.cmd.words = false →
    s.chip.sideOf (dSrc j.cmd.words) = .own a → dWait j.cmd.words = true →
    s.chip.isFull (s.chip.home a) = false →
    Runs (.copy n k) s fun t =>
      NMap.find (t.chip.wing n).dma k = some { j with begun := true, waiting := true } ∧
      Chip.holds s.chip t.chip { addr := s.chip.home a, issuer := .dma n k, kind := .read, value := 0, pars := [],
                                 since := s.chip.tick.edges, task := j.cmd.tag.task } ∧
      State.Frame { regs := fields [(Reg.ledgerStatus (s.chip.region (s.chip.home a)).wing, 4, 4),
                                    (Reg.ledgerCtr (s.chip.region (s.chip.home a)).wing 4, 47, 0)],
                    wings := only [n.val], parts := [.waits, .resends] } s t

/-- COPY without WAITSRC from stores of this part to another part whose route is set: the data go out as WRITE packets of at most 1,024
bytes at the group's port, in order, and the job is written (R212, R343, R350). -/
def Claim.copyFar : Prop :=
  ∀ (s : State) (n : Wing) (k : Fin 8) (j : DmaJob) (a phys b : Nat), s.chip.MayCopy n k j → s.chip.isContrib j.cmd.words = false →
    s.chip.sideOf (dSrc j.cmd.words) = .own a → s.chip.sideOf (dDst j.cmd.words) = .far phys b → dWait j.cmd.words = false →
    s.chip.flag (Reg.linkRoute phys) 16 = true → phys < 4096 → j.xfer < 2 ^ 24 →
    (∀ i < dLen j.cmd.words, s.chip.home (a + i) = a + i ∧ (s.chip.region (a + i)).isStore = true) →
    Runs (.copy n k) s fun t =>
      let out := s.chip.fld (Reg.linkRoute phys) 4 0 + j.xfer % (s.chip.fld (Reg.linkRoute phys) 12 8 + 1)
      (∃ l : List TxPacket, ((t.chip.wing (out / 2)).port (out % 2)).txq = ((s.chip.wing (out / 2)).port (out % 2)).txq ++ l ∧
        l.length = (dLen j.cmd.words + 1023) / 1024 ∧ (l.flatMap fun q => q.pkt.data) = s.chip.bytes a (dLen j.cmd.words) ∧
        ∀ q ∈ l, pKind q.pkt = 1 ∧ pDst q.pkt = phys ∧ pXfer q.pkt = j.xfer) ∧
      NMap.find (t.chip.wing n).dma k = some { j with begun := true, moved := dLen j.cmd.words, written := true } ∧
      State.Frame Touch.units s t ∧ (s.chip.good → State.Frame { wings := only [n.val, out / 2] } s t)

/-- COPY from another part whose route is set: READ packets ask for the data, at most 16 units each, and the job has begun (R212, R344). -/
def Claim.copyRemote : Prop :=
  ∀ (s : State) (n : Wing) (k : Fin 8) (j : DmaJob) (phys a b : Nat), s.chip.MayCopy n k j →
    s.chip.sideOf (dSrc j.cmd.words) = .far phys a → s.chip.sideOf (dDst j.cmd.words) = .own b →
    s.chip.flag (Reg.linkRoute phys) 16 = true → phys < 4096 → j.xfer < 2 ^ 24 →
    Runs (.copy n k) s fun t =>
      let out := s.chip.fld (Reg.linkRoute phys) 4 0 + j.xfer % (s.chip.fld (Reg.linkRoute phys) 12 8 + 1)
      (∃ l : List TxPacket, ((t.chip.wing (out / 2)).port (out % 2)).txq = ((s.chip.wing (out / 2)).port (out % 2)).txq ++ l ∧
        l.length = (dLen j.cmd.words + 1023) / 1024 ∧
        ∀ q ∈ l, pKind q.pkt = 2 ∧ pDst q.pkt = phys ∧ pXfer q.pkt = j.xfer ∧ pUnits q.pkt ≤ 16) ∧
      NMap.find (t.chip.wing n).dma k = some { j with begun := true } ∧
      State.Frame { wings := only [n.val, out / 2] } s t

/-- COPY of a contribution without FILL to a wing store of this part: the header stands at the destination, of the step, tensor, round and
elements that it carries, and the command is written (R298, R315). -/
def Claim.copyContribution : Prop :=
  ∀ (s : State) (n : Wing) (k : Fin 8) (j : DmaJob) (a b : Nat) (e : GradEntry), s.chip.MayCopy n k j → s.chip.isContrib j.cmd.words = true →
    s.chip.sideOf (dSrc j.cmd.words) = .own a → s.chip.sideOf (dDst j.cmd.words) = .own b → dFill j.cmd.words = false →
    s.chip.gradFor a (dLen j.cmd.words) = some e →
    Runs (.copy n k) s fun t =>
      NMap.find (t.chip.wing n).dma k = some { j with begun := true, moved := dLen j.cmd.words, written := true } ∧
      State.Frame Touch.units s t ∧
      (s.chip.pairs = [] → (∀ i < 64, s.chip.home (b + i) = b + i) →
        t.chip.bytes b 64 = (s.chip.contribHeader e a (dLen j.cmd.words)).flatMap fun w => leBytes 8 w.toNat)

/-- COPY that may not run, at its turn: it is discarded, DMA_BAD is set, and its task is to stop (R212). -/
def Claim.copyBad : Prop :=
  ∀ (s : State) (n : Wing) (k : Fin 8) (j : DmaJob), NMap.find (s.chip.wing n).dma k = some j → s.chip.halted = false →
    j.waiting = false → j.written = false → j.begun = false → s.chip.jobTurn n j = true → s.chip.dmaOk j.cmd.words = false →
    Runs (.copy n k) s fun t =>
      NMap.find (t.chip.wing n).dma k = none ∧ t.chip.flag (Reg.dmaStatus n) 0 = true ∧
      (∀ i, j.cmd.tag.task = some i → s.chip.stoppable i = true → (t.chip.task i).stopReq = some ((s.chip.task i).stopReq.getD 0x11)) ∧
      State.Frame { regs := fields [(Reg.dmaStatus n, 0, 0), (Reg.dmaCtr n, 47, 0)], wings := only [n.val],
                    tasks := fun i => j.cmd.tag.task = some i } s t

/-- COPY out of its turn changes nothing: one taken by its engine earlier has not begun (R212). -/
def Claim.copyTurn : Prop :=
  ∀ (s : State) (n : Wing) (k : Fin 8) (j : DmaJob), NMap.find (s.chip.wing n).dma k = some j → j.begun = false → s.chip.jobTurn n j = false →
    Runs (.copy n k) s fun t => State.Frame {} s t

/-- A live pair whose counters are within their widths and whose level is within BUF, its two words redirected nowhere. -/
structure Chip.PairAt (c : Chip) (n i : Nat) : Prop where
  live  : c.pairLive n i = true
  bufLo : (c.pair n i).level ≤ (c.pair n i).buf
  bufHi : (c.pair n i).buf < 2 ^ 16
  count : (c.pair n i).p < 2 ^ 48 ∧ (c.pair n i).c < 2 ^ 48
  home  : c.home ((c.pair n i).word * 16) = (c.pair n i).word * 16

/-- A pair's words agree with its counters: the token word is full while the level is at least 1 and then holds C, the space word while it is
below BUF and then holds P (R227). -/
def Chip.pairShown (c : Chip) (n i : Nat) : Prop :=
  c.isFull ((c.pair n i).word * 16) = decide (1 ≤ (c.pair n i).level) ∧
  c.isFull ((c.pair n i).word * 16 + 8) = decide ((c.pair n i).level < (c.pair n i).buf) ∧
  (1 ≤ (c.pair n i).level → c.word ((c.pair n i).word * 16) = w64 (c.pair n i).c) ∧
  ((c.pair n i).level < (c.pair n i).buf → c.word ((c.pair n i).word * 16 + 8) = w64 (c.pair n i).p)

/-- What a signal or consume of a pair may touch. -/
def Touch.pair (c : Chip) (n i f : Nat) : Touch :=
  { regs := fields [(Reg.ledgerStatus n, f, f), (Reg.ledgerStatus n, 15, 8), (Reg.ledgerCtr n f, 47, 0)], pairs := only [n * 4096 + i],
    mem := span ((c.pair n i).word * 16) 16, full := span ((c.pair n i).word * 2) 2, par := span ((c.pair n i).word * 4) 4 }

/-- TRANSFER_SIGNAL of a written transfer none of whose words waits to be filled: the engine's slot is free. A signal of one that ends on this
part is applied to its pair, and a contribution counts in SENT (R212, R228, R315). -/
def Claim.transferSignal : Prop :=
  ∀ (s : State) (n : Wing) (k : Fin 8) (j : DmaJob), NMap.find (s.chip.wing n).dma k = some j → j.written = true → s.chip.halted = false →
    s.chip.fillsWait j.cmd.words = false →
    Runs (.transferSignal n k) s fun t =>
      let ws := j.cmd.words
      let here := ∃ b, s.chip.sideOf (dDst ws) = .own b
      NMap.find (t.chip.wing n).dma k = none ∧
      t.chip.fld Reg.stepCount 63 32 =
        (if s.chip.isContrib ws = true then (s.chip.fld Reg.stepCount 63 32 + 1) % 2 ^ 32 else s.chip.fld Reg.stepCount 63 32) ∧
      (here → dSig ws ≠ 0xFFFF → s.chip.waits = [] → s.chip.PairAt (dSig ws / 4096) (dSig ws % 4096) →
        let p := s.chip.pair (dSig ws / 4096) (dSig ws % 4096)
        t.chip.pair (dSig ws / 4096) (dSig ws % 4096) =
          { p with p := (p.p + min (p.buf - p.level) 1) % 2 ^ 48, sat := p.sat || decide (p.buf - p.level < 1) }) ∧
      (¬here ∨ dSig ws = 0xFFFF → t.chip.wing n = { s.chip.wing n with dma := NMap.del (s.chip.wing n).dma k } ∧
        State.Frame { regs := fields [(Reg.stepCount, 63, 32)], wings := only [n.val] } s t) ∧
      State.Frame Touch.units s t

/-- SIGNAL of N on the selected live pair: P rises by N, but never by more than the room left; signals beyond it set SAT and SIG_OVER, and
accesses that waited at the pair's words are served (R226 to R230, R242; log 16). -/
def Claim.signal : Prop :=
  ∀ (s : State) (w : Writer) (n : Wing) (v : Word) (i : Nat), s.chip.up = true → s.chip.mayWrite w (Reg.ledgerOp n) = true →
    s.chip.selPair n = i → i ≠ 4095 → wbits v 15 0 ≠ 0 → s.chip.PairAt n i →
    Runs (.signal w n v) s fun t =>
      let p := s.chip.pair n i
      let room := p.buf - p.level
      (room < wbits v 15 0 → t.chip.flag (Reg.ledgerStatus n) 0 = true) ∧ State.Frame Touch.units s t ∧
      (s.chip.waits = [] →
        t.chip.pair n i = { p with p := (p.p + min room (wbits v 15 0)) % 2 ^ 48, sat := p.sat || decide (room < wbits v 15 0) } ∧
        t.chip.flag (Reg.ledgerStatus n) 0 = (s.chip.flag (Reg.ledgerStatus n) 0 || decide (room < wbits v 15 0)) ∧
        t.chip.pairShown n i ∧ State.Frame (Touch.pair s.chip n i 0) s t)

/-- CONSUME of N on the selected live pair: C rises by N, but never beyond P; consumes beyond it set SAT and CONS_UNDER, and in a large
cascade the pair's task is to stop with REASON 0x16 (R226 to R230, R242). -/
def Claim.consume : Prop :=
  ∀ (s : State) (w : Writer) (n : Wing) (v : Word) (i : Nat), s.chip.up = true → s.chip.mayWrite w (Reg.ledgerOp n) = true →
    s.chip.selPair n = i → i ≠ 4095 → wbits v 15 0 ≠ 0 → s.chip.PairAt n i →
    Runs (.consume w n v) s fun t =>
      let p := s.chip.pair n i
      let stops := s.chip.largeCascade = true ∧ p.level < wbits v 15 0
      (p.level < wbits v 15 0 → t.chip.flag (Reg.ledgerStatus n) 1 = true) ∧
      (stops → ∀ k, p.task = some k → s.chip.stoppable k = true → (t.chip.task k).stopReq = some ((s.chip.task k).stopReq.getD 0x16)) ∧
      State.Frame Touch.units s t ∧
      (s.chip.waits = [] →
        t.chip.pair n i = { p with c := (p.c + min p.level (wbits v 15 0)) % 2 ^ 48, sat := p.sat || decide (p.level < wbits v 15 0) } ∧
        t.chip.flag (Reg.ledgerStatus n) 1 = (s.chip.flag (Reg.ledgerStatus n) 1 || decide (p.level < wbits v 15 0)) ∧
        t.chip.pairShown n i ∧
        State.Frame ((Touch.pair s.chip n i 1).or { tasks := fun k => stops ∧ p.task = some k }) s t)

/-- SIGNAL or CONSUME on a pair of no loaded task: nothing is counted, and STRAY is set (R233). -/
def Claim.stray : Prop :=
  ∀ (s : State) (w : Writer) (n : Wing) (v : Word) (consume : Bool), s.chip.up = true → s.chip.mayWrite w (Reg.ledgerOp n) = true →
    s.chip.selPair n ≠ 4095 → wbits v 15 0 ≠ 0 → s.chip.pairLive n (s.chip.selPair n) = false →
    Runs (if consume then .consume w n v else .signal w n v) s fun t =>
      t.chip.flag (Reg.ledgerStatus n) 3 = true ∧
      State.Frame { regs := fields [(Reg.ledgerStatus n, 3, 3), (Reg.ledgerCtr n 3, 47, 0)] } s t

/-- TAG_WAIT_RESEND: each returned access is sent again to its home. One thread's read, as its case: a word that is full serves it and the
thread goes on; one that is empty holds it, or returns it once more (R221, R223). -/
def Claim.tagWaitResend : Prop :=
  ∀ (s : State),
    Runs .tagWaitResend s fun t =>
      (∀ w ∈ t.chip.resends, w ∈ s.chip.resends) ∧ State.Frame Touch.units s t ∧
      (∀ (w : Wait) (n g th rd : Nat), s.chip.resends = [w] → w.issuer = .thread n g th rd → w.kind = .read →
        (s.chip.isFull w.addr = true →
          t.chip.resends = [] ∧ t.chip.waits = s.chip.waits ∧ ((t.chip.gal n g).thread th).wait = .ready ∧
          ((t.chip.gal n g).thread th).reg rd = s.chip.word w.addr ∧
          (s.chip.good → State.Frame { gals := only [galKey n g], parts := [.resends] } s t)) ∧
        (s.chip.isFull w.addr = false → t.chip.gal n g = s.chip.gal n g ∧
          if (s.chip.waits.filter fun x => s.chip.sameTable x.addr w.addr).length < s.chip.tableSize w.addr then
            t.chip.waits = s.chip.waits ++ [w] ∧ t.chip.resends = []
          else t.chip.waits = s.chip.waits ∧ t.chip.resends = [w] ∧
            t.chip.flag (Reg.ledgerStatus (s.chip.region w.addr).wing) 4 = true))

/-- FILL_OVERRUN of a fill that has waited a whole tick at a word still full: it is discarded, FILL_OVR is set, and its task is to stop with
REASON 0x13; a gallery's result or a port's packet goes on without it (R224). -/
def Claim.fillOverrun : Prop :=
  ∀ (s : State) (word : Nat) (w : Wait), s.chip.isFull (s.chip.home word) = true →
    ((s.chip.waits ++ s.chip.resends).find? fun x =>
      decide (x.kind = .fill ∧ x.addr / 8 = s.chip.home word / 8 ∧ x.since + 2 ≤ s.chip.tick.edges)) = some w →
    Runs (.fillOverrun word) s fun t =>
      t.chip.flag (Reg.ledgerStatus (s.chip.region (s.chip.home word)).wing) 5 = true ∧
      (∀ k, w.task = some k → s.chip.stoppable k = true → (t.chip.task k).stopReq = some ((s.chip.task k).stopReq.getD 0x13)) ∧
      State.Frame Touch.units s t ∧
      ((∀ p a v, w.issuer ≠ .link p a v) → t.chip.waits = s.chip.waits.erase w ∧ t.chip.resends = s.chip.resends.erase w) ∧
      ((∀ p a v, w.issuer ≠ .link p a v) → (∀ n g, w.issuer ≠ .gallery n g) →
        State.Frame { regs := fields [(Reg.ledgerStatus (s.chip.region (s.chip.home word)).wing, 5, 5),
                                      (Reg.ledgerCtr (s.chip.region (s.chip.home word)).wing 5, 47, 0)],
                      tasks := fun k => w.task = some k, parts := [.waits, .resends] } s t)

/-- QUEUE_PUT: the token is the queue's last; a taker that waits has it at once. At a full queue a host's submission is discarded with
QDROP and the queue's number, and any other put waits (R231, R232). -/
def Claim.queuePut : Prop :=
  ∀ (s : State) (q : Fin 64) (tok : Word), s.chip.up = true →
    Runs (.queuePut q tok) s fun t =>
      if q.val ∈ s.chip.takeWait then
        t.chip.taken = tok ∧ t.chip.takeWait = s.chip.takeWait.erase q.val ∧ State.Frame { parts := [.takeWait, .taken] } s t
      else if (s.chip.queue q).length < 256 then
        t.chip.queue q = s.chip.queue q ++ [tok] ∧ State.Frame { queues := only [q.val] } s t
      else if q.val = 48 ∨ q.val = 49 then
        t.chip.flag Reg.ledgerQStatus 0 = true ∧ t.chip.fld Reg.ledgerQStatus 13 8 = q.val ∧
        State.Frame { regs := fields [(Reg.ledgerQStatus, 13, 8), (Reg.ledgerQStatus, 0, 0), (Reg.ledgerQCtr, 47, 0)] } s t
      else t.chip.putWait = s.chip.putWait ++ [(q.val, tok)] ∧ State.Frame { parts := [.putWait] } s t

/-- The first token that waits to be put to a queue. -/
def Chip.firstPut (c : Chip) (q : Nat) : Option (Nat × Word) := c.putWait.find? fun p => decide (p.1 = q)

/-- QUEUE_TAKE: the oldest token leaves the queue, and the first put that waited for its place enters; at an empty queue the taker waits
(R232). -/
def Claim.queueTake : Prop :=
  ∀ (s : State) (q : Fin 64), s.chip.up = true → (s.chip.queue q).length ≤ 256 →
    Runs (.queueTake q) s fun t =>
      match s.chip.queue q with
      | tok :: rest =>
        t.chip.taken = tok ∧ t.chip.queue q = rest ++ ((s.chip.firstPut q).map Prod.snd).toList ∧
        (∀ p, s.chip.firstPut q = some p → t.chip.putWait = s.chip.putWait.erase p) ∧
        (s.chip.firstPut q = none → t.chip.putWait = s.chip.putWait) ∧
        State.Frame { queues := only [q.val], parts := [.taken, .putWait] } s t
      | [] =>
        t.chip.takeWait = (if q.val ∈ s.chip.takeWait then s.chip.takeWait else s.chip.takeWait ++ [q.val]) ∧
        State.Frame { parts := [.takeWait] } s t

/-! ### The Registrar (R234, R245 to R284) -/

/-- An entry of a tile that an allocation made. -/
def CatEntry.allocated (e : CatEntry) (r : AllocReq) : Prop :=
  e.state = 1 ∧ e.lkind = r.kind ∧ e.owner = r.owner.val ∧ e.qclass = r.qclass ∧ e.task = r.task.val ∧ e.frozen = false ∧ e.pinned = false

/-- The thread that an allocation answers goes on, admitted or refused. -/
def ThreadSt.answered (x : ThreadSt) (refused : Bool) : ThreadSt :=
  { x with wait := if x.wait = .alloc then .ready else x.wait, refused := refused }

/-- ALLOCATION of a running task that the class, the index range and the blocks have room for: each of the lowest vacant indices becomes a resident
tile of the task, USE rises by the blocks, and the thread goes on. One block, as its case: it lies at the first free block of the kind, its
generation rises, and a store tile's tags are empty (R219, R234, R253, R257; log 30). -/
def Claim.allocation : Prop :=
  ∀ (s : State) (r : AllocReq), s.chip.running r.task = true → (s.chip.tryAlloc r).isSome = true → r.qclass < 8 →
    (∀ i ∈ (s.chip.vacantIx r.task).take r.blocks, validIx i = true) →
    Runs (.allocation r) s fun t =>
      (∀ i ∈ (s.chip.vacantIx r.task).take r.blocks, (t.chip.catNow i).allocated r) ∧
      t.chip.quotaUse r.task r.qclass = s.chip.quotaUse r.task r.qclass + r.blocks ∧
      (t.chip.gal r.askWing r.askGal).thread r.askThread = ((s.chip.gal r.askWing r.askGal).thread r.askThread).answered false ∧
      State.Frame Touch.units s t ∧
      (∀ (i a : Nat) (rest : List Nat), r.blocks = 1 → s.chip.vacantIx r.task = i :: rest → s.chip.freeBlock r.kind r.owner = some a →
        s.chip.catLate = [] →
        t.chip.cate i = { (s.chip.cate i).bump with state := 1, frozen := false, pinned := false, lkind := r.kind, owner := r.owner.val,
                                                    qclass := r.qclass, task := r.task.val, format := 0, loc := a, link := 0, lgen := 0 } ∧
        (r.kind = 3 → ∀ j < 8192, t.chip.isFull (s.chip.home a + 8 * j) = false) ∧
        State.Frame { regs := fields [(Reg.quota (8 * r.task + r.qclass), 47, 24)], cat := only [i],
                      full := span (s.chip.home a / 8) 8192, gals := only [galKey r.askWing r.askGal], parts := [.planLate] } s t)

/-- ALLOCATION that finds no room: it is held in the task's list, with ALLOC_WAIT, and its thread waits; beyond 64 held it is returned
refused (R234, R266). -/
def Claim.allocationWaits : Prop :=
  ∀ (s : State) (r : AllocReq), s.chip.running r.task = true → s.chip.tryAlloc r = none →
    Runs (.allocation r) s fun t =>
      if (s.chip.task r.task).pendAlloc.length < 64 then
        t.chip.task r.task = { s.chip.task r.task with pendAlloc := (s.chip.task r.task).pendAlloc ++ [r] } ∧
        (t.chip.gal r.askWing r.askGal).thread r.askThread =
          { (s.chip.gal r.askWing r.askGal).thread r.askThread with wait := .alloc, refused := false } ∧ t.chip.flag Reg.regStatus 8 = true ∧
        State.Frame { regs := fields [(Reg.regStatus, 8, 8), (Reg.regCtr 8, 47, 0)], gals := only [galKey r.askWing r.askGal],
                      tasks := only [r.task.val] } s t
      else
        (t.chip.gal r.askWing r.askGal).thread r.askThread = ((s.chip.gal r.askWing r.askGal).thread r.askThread).answered true ∧
        State.Frame { gals := only [galKey r.askWing r.askGal] } s t

/-- PENDING_ADMIT: no request joins a task's list. One task's one pending request, as its case: with room it is admitted as an
allocation is, and its thread goes on; with none it stays pending (R266). -/
def Claim.pendingAdmit : Prop :=
  ∀ (s : State),
    Runs .pendingAdmit s fun t =>
      (∀ k, ∀ r ∈ (t.chip.task k).pendAlloc, r ∈ (s.chip.task k).pendAlloc) ∧ State.Frame Touch.units s t ∧
      (∀ (x : TaskSt) (r : AllocReq), s.chip.tasks = [(r.task.val, x)] → x.pendAlloc = [r] →
        ((s.chip.tryAlloc r).isSome = true → r.qclass < 8 → (∀ i ∈ (s.chip.vacantIx r.task).take r.blocks, validIx i = true) →
          (t.chip.task r.task).pendAlloc = [] ∧ (∀ i ∈ (s.chip.vacantIx r.task).take r.blocks, (t.chip.catNow i).allocated r) ∧
          t.chip.quotaUse r.task r.qclass = s.chip.quotaUse r.task r.qclass + r.blocks ∧
          (t.chip.gal r.askWing r.askGal).thread r.askThread = ((s.chip.gal r.askWing r.askGal).thread r.askThread).answered false) ∧
        (s.chip.tryAlloc r = none → State.Frame {} s t))

/-- Codes 1 and 2 of chip.reg.op on an entry of a loaded task: FROZEN is to be set or cleared from the next census step on (R268, R277). -/
def Claim.frozen : Prop :=
  ∀ (s : State) (w : Writer) (i : Nat) (b : Bool), s.chip.up = true → s.chip.mayWrite w Reg.regOp = true → validIx i = true →
    s.chip.opEntry i = true →
    Runs (if b then .setFrozen w i else .clearFrozen w i) s fun t =>
      t.chip.step = { s.chip.step with frozenDue := s.chip.step.frozenDue ++ [(i, b)] } ∧ State.Frame { parts := [.step] } s t

/-- What a change of entry i may touch: with no change waiting for a lock, that entry alone. -/
def State.CatFrame (i : Nat) (s t : State) : Prop :=
  State.Frame { cat := always, parts := [.catLate, .planLate] } s t ∧
    (s.chip.catLate = [] → s.chip.planLate = [] → State.Frame { cat := only [i] } s t)

/-- Codes 3 and 4 on an entry of a loaded task that is not being moved: PINNED is set or cleared; of one that is being moved, after its move
(R269, R277). -/
def Claim.pinned : Prop :=
  ∀ (s : State) (w : Writer) (i : Nat) (b : Bool), s.chip.up = true → s.chip.mayWrite w Reg.regOp = true → validIx i = true →
    s.chip.opEntry i = true →
    Runs (if b then .setPinned w i else .clearPinned w i) s fun t =>
      if s.chip.beingMoved i = false ∧ (∀ p ∈ s.chip.pinDue, p.1 ≠ i) then
        t.chip.catNow i = { s.chip.catNow i with pinned := b } ∧ s.CatFrame i t
      else t.chip.pinDue = s.chip.pinDue ++ [(i, b)] ∧ State.Frame { parts := [.pinDue] } s t

/-- Code 5: an entry's generation rises by one, modulo 2^16 (R253, R277). -/
def Claim.bump : Prop :=
  ∀ (s : State) (w : Writer) (i : Nat), s.chip.up = true → s.chip.mayWrite w Reg.regOp = true → validIx i = true →
    s.chip.opEntry i = true →
    Runs (.bump w i) s fun t =>
      t.chip.catNow i = { s.chip.catNow i with gen := ((s.chip.catNow i).gen + 1) % 65536 } ∧ s.CatFrame i t

/-- Codes 1 to 5 on a vacant or FENCED entry, or one of no loaded task, change nothing (R277). -/
def Claim.opDiscarded : Prop :=
  ∀ (s : State) (w : Writer) (i : Nat), s.chip.up = true → s.chip.mayWrite w Reg.regOp = true → validIx i = true → s.chip.opEntry i = false →
    Runs (.setFrozen w i) s (State.Frame {} s) ∧ Runs (.clearFrozen w i) s (State.Frame {} s) ∧ Runs (.setPinned w i) s (State.Frame {} s) ∧
      Runs (.clearPinned w i) s (State.Frame {} s) ∧ Runs (.bump w i) s (State.Frame {} s)

/-- Code 6: chip.reg.view holds the entry's four words (R246, R251, R277). -/
def Claim.catalogueRead : Prop :=
  ∀ (s : State) (w : Writer) (i : Nat), s.chip.up = true → s.chip.mayWrite w Reg.regOp = true → i < 0x1000000 →
    Runs (.catalogueRead w i) s fun t =>
      (∀ k < 4, t.chip.rd (Reg.regView k) = (s.chip.cate i).word k) ∧
      State.Frame { regs := fun a _ => ∃ k < 4, a = Reg.regView k } s t

/-- CONFLICT_NOTICE of a gallery in conflict whose notice is the oldest of its Conservator's queue: the Registrar takes it and is told, and
may ask for the role's move (R231, R265; log 51). -/
def Claim.conflictNotice : Prop :=
  ∀ (s : State) (n : Wing) (g : GalIx) (w : Word) (rest : List Word), s.chip.queue n = w :: rest → isNotice 0 g w = true →
    (s.chip.gal n g).conflict = true → (s.chip.queue n).length ≤ 256 →
    Runs (.conflictNotice n g) s fun t =>
      t.chip.gal n g = { s.chip.gal n g with conflictTold := true } ∧
      t.chip.queue n = rest ++ ((s.chip.firstPut n).map Prod.snd).toList ∧
      State.Frame { gals := only [galKey n g], queues := only [n.val], parts := [.toMove, .putWait] } s t

/-- CONFLICT_NOTICE of a conflict that is over by then: the notice is taken, and nothing is asked (R265). -/
def Claim.conflictOver : Prop :=
  ∀ (s : State) (n : Wing) (g : GalIx) (w : Word) (rest : List Word), s.chip.queue n = w :: rest → isNotice 0 g w = true →
    (s.chip.gal n g).conflict = false → (s.chip.queue n).length ≤ 256 →
    Runs (.conflictNotice n g) s fun t =>
      t.chip.queue n = rest ++ ((s.chip.firstPut n).map Prod.snd).toList ∧
      State.Frame { queues := only [n.val], parts := [.putWait] } s t

/-- GALLERY_REDIRECT under the pause, no MVM of the gallery in progress: the redirect of its role, the one in force or else a free one, names
the lowest free gallery, which has the commands; the move is over, and REPLACE is set. With nothing waiting at any word its store holds the
bytes and tags of the old one's (R261, R262). -/
def Claim.galleryRedirect : Prop :=
  ∀ (s : State) (n : Wing) (g : GalIx) (m : Move) (q k : Nat), s.chip.move = some m → m.wing = n.val → m.gal = g.val → m.tile = none →
    m.pausedAt.isSome = true → s.chip.freeGallery n = some q → q ≠ g.val → s.chip.canMoveRole n g = true →
    ((s.chip.gal n g).mvms.all fun v => v.ended) = true → k < 8 →
    ((s.chip.flag (Reg.gredir n k) 32 = true ∧ s.chip.fld (Reg.gredir n k) 8 0 = s.chip.roleOf n g ∧
        ∀ j < k, s.chip.flag (Reg.gredir n j) 32 = true → s.chip.fld (Reg.gredir n j) 8 0 ≠ s.chip.roleOf n g) ∨
      (s.chip.freeRedirect n = some k ∧ ∀ j < 8, s.chip.flag (Reg.gredir n j) 32 = true → s.chip.fld (Reg.gredir n j) 8 0 ≠ s.chip.roleOf n g)) →
    Runs (.galleryRedirect n g) s fun t =>
      t.chip.rd (Reg.gredir n k) = w64 (s.chip.roleOf n g + q * 2 ^ 16 + 2 ^ 32) ∧
      (t.chip.gal n q).cmdQ = (s.chip.gal n g).cmdQ ∧ (t.chip.gal n g).cmdQ = [] ∧
      t.chip.move = none ∧ t.chip.flag Reg.regStatus 4 = true ∧
      State.Frame (Touch.units.or { regs := fields [(Reg.tickCtrl, 1, 1)] }) s t ∧
      (s.chip.Canon → s.chip.recErr = [] → s.chip.waits = [] → s.chip.resends = [] →
        (∀ i < 0x10000, t.chip.byte (galStoreBase n q + i) = s.chip.byte (galStoreBase n g + i)) ∧
        (∀ i < 0x2000, t.chip.isFull (galStoreBase n q + 8 * i) = s.chip.isFull (galStoreBase n g + 8 * i)))

/-- BLOCK_REDIRECT of a tile of a store or stack under the pause, nothing of its task in flight: the block's redirect names a free block of
the kind, the tile's generation rises, the move is over, and REPLACE is set. With nothing waiting at any word and no record in error, the block
holds the old one's bytes and tags (R253, R261, R263). -/
def Claim.blockRedirect : Prop :=
  ∀ (s : State) (i : Nat) (m : Move) (k b : Nat), s.chip.move = some m → m.tile = some i → m.pausedAt.isSome = true →
    s.chip.redirectFor (s.chip.region m.blk).wing (m.blk / 0x10000) = some k →
    s.chip.freeBlock (s.chip.catNow i).lkind (s.chip.catNow i).owner = some b → s.chip.canMoveBlock i m.blk = true →
    (∀ v, s.chip.taskOfTile i = some v → s.chip.inFlight v = false) → validIx i = true →
    Runs (.blockRedirect i) s fun t =>
      t.chip.rd (Reg.bredir (s.chip.region m.blk).wing k) = w64 (m.blk / 0x10000 + b / 0x10000 * 2 ^ 32 + 2 ^ 63) ∧
      (t.chip.catNow i).gen = ((s.chip.catNow i).gen + 1) % 65536 ∧ ((s.chip.catNow i).state = 5 → (t.chip.catNow i).state = 1) ∧
      (∀ v, s.chip.taskOfTile i = some v → NMap.find t.chip.redirTask (32 * (s.chip.region m.blk).wing + k) = some v) ∧
      t.chip.move = none ∧ t.chip.flag Reg.regStatus 4 = true ∧
      State.Frame (Touch.units.or { regs := fields [(Reg.tickCtrl, 1, 1)] }) s t ∧
      (s.chip.Canon → s.chip.recErr = [] → s.chip.waits = [] → s.chip.resends = [] → s.chip.home m.blk % 0x10000 = 0 →
        (∀ j < 0x10000, t.chip.byte (b + j) = s.chip.byte (s.chip.home m.blk + j)) ∧
        (∀ j < 0x2000, t.chip.isFull (b + 8 * j) = s.chip.isFull (s.chip.home m.blk + 8 * j)))

/-- MOVE_ABANDON of a conflict's move 1 ms after its pause: REPLACE_FAIL, and the move and its pause are over (R261). -/
def Claim.moveAbandon : Prop :=
  ∀ (s : State) (m : Move) (p : Nat), s.chip.move = some m → m.pausedAt = some p → p + 2000 ≤ s.chip.tick.halfUs + s.chip.period →
    m.conflict = true →
    Runs .moveAbandon s fun t =>
      t.chip.move = none ∧ t.chip.flag Reg.regStatus 5 = true ∧ (m.ours = true → t.chip.flag Reg.tickCtrl 1 = false) ∧
      State.Frame ((Touch.put 53).or { regs := fields [(Reg.regStatus, 5, 5), (Reg.regCtr 5, 47, 0), (Reg.tickCtrl, 1, 1)],
                                       parts := [.move, .recov] }) s t

/-- MOVE_ABANDON of a fault's move: REPLACE_FAIL, every loaded task is to stop with REASON 0x14 unless a stop is asked already, and the
fault's recovery is of tier 2 (R261, R264). -/
def Claim.moveAbandonFault : Prop :=
  ∀ (s : State) (m : Move) (p : Nat), s.chip.move = some m → m.pausedAt = some p → p + 2000 ≤ s.chip.tick.halfUs + s.chip.period →
    m.conflict = false →
    Runs .moveAbandon s fun t =>
      t.chip.move = none ∧ t.chip.flag Reg.regStatus 5 = true ∧ (m.ours = true → t.chip.flag Reg.tickCtrl 1 = false) ∧
      (∀ k ∈ s.chip.allTasks, (t.chip.task k).stopReq = some ((s.chip.task k).stopReq.getD 0x14) ∧ (t.chip.task k).byFault = true) ∧
      t.chip.fld Reg.fltLogPos 23 0 = (s.chip.fld Reg.fltLogPos 23 0 + 1) % 2 ^ 24 ∧
      State.Frame (((Touch.put 53).or Touch.log).or { regs := fields [(Reg.regStatus, 5, 5), (Reg.regCtr 5, 47, 0), (Reg.tickCtrl, 1, 1)],
                                                      tasks := always, parts := [.move, .recov] }) s t

/-- A plan action that starts at this cycle tick, and is not under way. -/
structure Chip.PlanAt (c : Chip) (t k act : Nat) (e : PlanEntry) : Prop where
  entry  : c.planEntry t k = some e
  act_   : e.act = act
  starts : c.planStarts t e = true
  idle   : NMap.find (c.task t).plans k = none

/-- A plan action recorded with its tile's generation as it starts (R273 to R275). -/
def PlanRun.begun (act tile gen : Nat) (late : Bool) (r : PlanRun) : Prop :=
  r = { act := act, tile := tile, gen := gen, retried := false, complete := false, watched := r.watched, late := late }

/-- A plan action may not be done on a tile: for a LEND, one that is vacant, streaming, loaned, quarantined, PINNED or no block; for the others,
one that is vacant or a plane; and for all, one of the annex (R269, R272, R295). -/
def Chip.planBars (c : Chip) (act i : Nat) : Prop :=
  let x := c.catNow i
  x.state = 0 ∨ (x.lkind = 4 ∧ c.inAnnex (x.loc / 0x1000000000) x.loc = true) ∨
    (if act = 1 then x.state = 2 ∨ x.state = 4 ∨ x.state = 5 ∨ x.pinned = true ∨ (x.lkind ≠ 2 ∧ x.lkind ≠ 3 ∧ x.lkind ≠ 4) else x.lkind = 1)

/-- What the start of a plan action may touch where memory is without error: its record, the tile's watch, and the locks of the Catalogue. -/
def Touch.plan (c : Chip) (t i : Nat) : Touch :=
  { regs := fields [(Reg.regStatus, 3, 3), (Reg.regCtr 3, 47, 0), (Reg.regStatus, 7, 7), (Reg.regCtr 7, 47, 0)],
    wings := fun m => m = (c.catNow i).loc / 0x1000000000 ∨ c.watchWing i = some m, tasks := only [t], parts := [.planLate, .free] }

/-- LEND at its TICK of a tile that may be lent: its copy is under way, under its recorded generation (R272, R273). -/
def Claim.lend : Prop :=
  ∀ (s : State) (k : Slot) (i : Nat) (e : PlanEntry), s.chip.PlanAt k i 1 e → ¬ s.chip.planBars 1 e.tile →
    Runs (.lend k i) s fun t =>
      (∃ r : PlanRun, NMap.find (t.chip.task k).plans i = some r ∧ r.begun 1 e.tile (s.chip.catNow e.tile).gen false) ∧
      State.Frame Touch.units s t ∧ (s.chip.good → State.Frame (Touch.plan s.chip k e.tile) s t)

/-- A plan action on a tile that bars it is not done, and PLAN_SKIP is set (R269, R272, R295). -/
def Claim.planSkipped : Prop :=
  ∀ (s : State) (k : Slot) (i act : Nat) (e : PlanEntry) (x : Instr), s.chip.PlanAt k i act e → s.chip.planBars act e.tile →
    (act = 1 ∧ x = .lend k i ∨ act = 2 ∧ x = .returnTile k i ∨ act = 3 ∧ x = .prefetch k i) →
    Runs x s fun t =>
      t.chip.flag Reg.regStatus 6 = true ∧ t.chip.task k = s.chip.task k ∧
      State.Frame ((Touch.put 53).or { regs := fields [(Reg.regStatus, 6, 6), (Reg.regCtr 6, 47, 0)] }) s t

/-- A tile's bytes lie in a store from a multiple of 64 KiB on, and no redirect moves any of them. -/
def Chip.inStore (c : Chip) (a n : Nat) : Prop :=
  a % 0x10000 = 0 ∧ ∀ j < n, c.home (a + j) = a + j ∧ (c.region (a + j)).isStore = true

/-- LEND_COPY_DONE of a tile that kept its generation: the copy is complete. Of a tile of a store, the host window holds its bytes (R273). -/
def Claim.lendCopyDone : Prop :=
  ∀ (s : State) (k : Slot) (i : Nat) (e : PlanEntry) (r : PlanRun), s.chip.planEntry k i = some e → NMap.find (s.chip.task k).plans i = some r →
    r.act = 1 → r.complete = false → s.chip.planMoved r = false →
    Runs (.lendCopyDone k i) s fun t =>
      NMap.find (t.chip.task k).plans i = some { r with complete := true } ∧ State.Frame Touch.units s t ∧
      (∀ p, s.chip.good → s.chip.inStore (s.chip.catNow r.tile).loc (s.chip.catNow r.tile).bytes →
        (∀ j < (s.chip.catNow r.tile).bytes, s.chip.region (e.addr + j) = .hostWin p) →
        ∀ j < (s.chip.catNow r.tile).bytes,
          NMap.find t.chip.hostMem (hostKey p (s.chip.hostBus p (e.addr + j))) = some (s.chip.byte ((s.chip.catNow r.tile).loc + j)))

/-- LEND_COPY_DONE of a tile that moved: the first time the copy is made again, under the generation of now; the second time the loan is
abandoned, with LEND_STALE (R273). -/
def Claim.lendStale : Prop :=
  ∀ (s : State) (k : Slot) (i : Nat) (e : PlanEntry) (r : PlanRun), s.chip.planEntry k i = some e → NMap.find (s.chip.task k).plans i = some r →
    r.act = 1 → r.complete = false → s.chip.planMoved r = true →
    Runs (.lendCopyDone k i) s fun t =>
      (r.retried = false → ∃ q : PlanRun, NMap.find (t.chip.task k).plans i = some q ∧ q.retried = true ∧ q.complete = false ∧
        q.gen = (s.chip.catNow r.tile).gen) ∧
      (r.retried = true → NMap.find (t.chip.task k).plans i = none ∧ t.chip.flag Reg.regStatus 2 = true) ∧
      State.Frame { regs := fields [(Reg.regStatus, 2, 2), (Reg.regCtr 2, 47, 0), (Reg.regStatus, 3, 3), (Reg.regCtr 3, 47, 0)],
                    wings := always, tasks := only [k.val], cat := always, parts := [.catLate, .planLate] } s t

/-- RETURN whose copying starts: the action is under way, completing after its TICK where it starts there, and every word of its
destination is empty (R272, R274; log 65). -/
def Claim.returnTile : Prop :=
  ∀ (s : State) (k : Slot) (i : Nat) (e : PlanEntry), s.chip.PlanAt k i 2 e → ¬ s.chip.planBars 2 e.tile →
    Runs (.returnTile k i) s fun t =>
      (∃ r : PlanRun, NMap.find (t.chip.task k).plans i = some r ∧
        r.begun 2 e.tile (s.chip.catNow e.tile).gen (decide (s.chip.elapsed k % s.chip.cycle k = e.tick))) ∧
      (∀ j < (s.chip.catNow e.tile).bytes / 8, t.chip.isFull (s.chip.home e.addr + 8 * j) = false) ∧
      State.Frame Touch.units s t ∧
      (s.chip.good → State.Frame ((Touch.plan s.chip k e.tile).or
        { full := span (s.chip.home e.addr / 8) ((s.chip.catNow e.tile).bytes / 8) }) s t)

/-- RETURN_COPY_DONE: before the action's TICK the copy is complete, to take effect at that edge; after it, RET_LATE is set and it takes effect
now: a loaned tile is resident at ADDR in a wing store, and, with nothing waiting, every word there is full (R274). -/
def Claim.returnCopyDone : Prop :=
  ∀ (s : State) (k : Slot) (i : Nat) (e : PlanEntry) (r : PlanRun), s.chip.planEntry k i = some e → NMap.find (s.chip.task k).plans i = some r →
    r.act = 2 → r.complete = false →
    Runs (.returnCopyDone k i) s fun t =>
      (r.late = false → NMap.find (t.chip.task k).plans i = some { r with complete := true }) ∧
      (r.late = true → NMap.find (t.chip.task k).plans i = none ∧ t.chip.flag Reg.regStatus 1 = true ∧
        (validIx r.tile = true → (s.chip.catNow r.tile).state = 4 → (s.chip.catNow r.tile).lkind = 5 → (t.chip.catNow r.tile).state = 1 ∧ (t.chip.catNow r.tile).lkind = 3 ∧
          (t.chip.catNow r.tile).loc = e.addr) ∧
        (s.chip.waits = [] → ∀ j < (t.chip.catNow e.tile).bytes / 8, t.chip.isFull (s.chip.home e.addr + 8 * j) = true)) ∧
      State.Frame Touch.units s t

/-- PREFETCH whose copying starts: the action is under way, and every word of its destination is empty (R272, R275). -/
def Claim.prefetch : Prop :=
  ∀ (s : State) (k : Slot) (i : Nat) (e : PlanEntry), s.chip.PlanAt k i 3 e → ¬ s.chip.planBars 3 e.tile →
    Runs (.prefetch k i) s fun t =>
      (∃ r : PlanRun, NMap.find (t.chip.task k).plans i = some r ∧ r.begun 3 e.tile (s.chip.catNow e.tile).gen false) ∧
      (∀ j < (s.chip.catNow e.tile).bytes / 8, t.chip.isFull (s.chip.home e.addr + 8 * j) = false) ∧
      State.Frame Touch.units s t ∧
      (s.chip.good → State.Frame ((Touch.plan s.chip k e.tile).or
        { full := span (s.chip.home e.addr / 8) ((s.chip.catNow e.tile).bytes / 8) }) s t)

/-- PREFETCH_CHECK at the edge of TICK of a copy that kept its generation: a complete one is over, and with nothing waiting every word of its
destination is full; one that is not takes effect when it lands (R275). -/
def Claim.prefetchCheck : Prop :=
  ∀ (s : State) (k : Slot) (i : Nat) (e : PlanEntry) (r : PlanRun), s.chip.planEntry k i = some e → NMap.find (s.chip.task k).plans i = some r →
    r.act = 3 → r.late = false → s.chip.elapsed k % s.chip.cycle k = e.tick → s.chip.planMoved r = false →
    Runs (.prefetchCheck k i) s fun t =>
      (r.complete = false → NMap.find (t.chip.task k).plans i = some { r with late := true } ∧ State.Frame { tasks := only [k.val] } s t) ∧
      (r.complete = true → NMap.find (t.chip.task k).plans i = none ∧
        (s.chip.waits = [] → s.chip.catLate = [] →
          (∀ j < (s.chip.catNow e.tile).bytes / 8, t.chip.isFull (s.chip.home e.addr + 8 * j) = true) ∧
          State.Frame { full := span (s.chip.home e.addr / 8) ((s.chip.catNow e.tile).bytes / 8), tasks := only [k.val],
                        wings := fun m => s.chip.watchWing r.tile = some m, parts := [.planLate] } s t)) ∧
      State.Frame Touch.units s t

/-- PREFETCH_CHECK of a tile that moved: the copy is discarded with PF_STALE, and made again (R275). -/
def Claim.prefetchStale : Prop :=
  ∀ (s : State) (k : Slot) (i : Nat) (e : PlanEntry) (r : PlanRun), s.chip.planEntry k i = some e → NMap.find (s.chip.task k).plans i = some r →
    r.act = 3 → r.late = false → s.chip.elapsed k % s.chip.cycle k = e.tick → s.chip.planMoved r = true →
    Runs (.prefetchCheck k i) s fun t =>
      (∃ q : PlanRun, NMap.find (t.chip.task k).plans i = some q ∧ q.complete = false ∧ q.late = true ∧ q.gen = (s.chip.catNow r.tile).gen) ∧
      t.chip.flag Reg.regStatus 0 = true ∧
      State.Frame { regs := fields [(Reg.regStatus, 0, 0), (Reg.regCtr 0, 47, 0), (Reg.regStatus, 3, 3), (Reg.regCtr 3, 47, 0)],
                    wings := fun m => m = (s.chip.catNow r.tile).loc / 0x1000000000 ∨ s.chip.watchWing r.tile = some m,
                    tasks := only [k.val] } s t

/-- PREFETCH_COPY_DONE: before TICK the copy is complete; after it the action is over, unless a copy made again went stale once more, which sets
PF_STALE. Of a tile of a store that goes to a store, no pair in use, the destination holds the bytes (R275). -/
def Claim.prefetchCopyDone : Prop :=
  ∀ (s : State) (k : Slot) (i : Nat) (e : PlanEntry) (r : PlanRun), s.chip.planEntry k i = some e →
    NMap.find (s.chip.task k).plans i = some r → r.act = 3 → r.complete = false →
    Runs (.prefetchCopyDone k i) s fun t =>
      (r.late = false → NMap.find (t.chip.task k).plans i = some { r with complete := true } ∧
        (s.chip.good → s.chip.pairs = [] → s.chip.inStore (s.chip.catNow r.tile).loc (s.chip.catNow r.tile).bytes →
          s.chip.inStore e.addr (s.chip.catNow r.tile).bytes →
          t.chip.bytes e.addr (s.chip.catNow r.tile).bytes = s.chip.bytes (s.chip.catNow r.tile).loc (s.chip.catNow r.tile).bytes ∧
          State.Frame { mem := span e.addr (s.chip.catNow r.tile).bytes, par := span (e.addr / 4) ((s.chip.catNow r.tile).bytes / 4),
                        tasks := only [k.val] } s t)) ∧
      (r.late = true → (r.retried && s.chip.planMoved r) = false → NMap.find (t.chip.task k).plans i = none) ∧
      (r.late = true → (r.retried && s.chip.planMoved r) = true → t.chip.flag Reg.regStatus 0 = true ∧
        ∃ q : PlanRun, NMap.find (t.chip.task k).plans i = some q ∧ q.gen = (s.chip.catNow r.tile).gen) ∧
      State.Frame Touch.units s t

/-! ### Memory controllers (R21, R285 to R300) -/

/-- MEM_SLOT_GRANT: requests that have their slots keep them, every other one, waiting or new, is granted, waits on, or is dropped for a
frozen block, and none that could have a slot is left without one. Two new ones and one free slot, as a case: the first in the order of R21 has
it (R21, R236, R291, R297). -/
def Claim.memSlotGrant : Prop :=
  ∀ (s : State) (n : Wing) (arrivals : List MemReq), s.chip.up = true →
    Runs (.memSlotGrant n arrivals) s fun t =>
      (s.chip.wing n).memSlots <+: (t.chip.wing n).memSlots ∧
      ((s.chip.wing n).memSlots.length ≤ 64 → (t.chip.wing n).memSlots.length ≤ 64) ∧
      (∀ r ∈ (s.chip.wing n).memWait ++ (s.chip.wing n).lineWait ++ arrivals, (s.chip.wing n).drops n r = false →
        r ∈ (t.chip.wing n).memSlots ++ (t.chip.wing n).memWait ++ (t.chip.wing n).lineWait) ∧
      ((∃ r ∈ arrivals, (s.chip.wing n).drops n r = true) → t.chip.flag (Reg.memStatus n) 4 = true) ∧
      ((t.chip.wing n).memSlots.length < 64 → (t.chip.wing n).nextReq = none) ∧
      State.Frame { regs := fields [(Reg.memStatus n, 4, 4), (Reg.memCtr n 4, 47, 0)], wings := only [n.val] } s t ∧
      (∀ x y : MemReq, arrivals = [x, y] → (s.chip.wing n).memWait = [] → (s.chip.wing n).lineWait = [] →
        (s.chip.wing n).memSlots.length = 63 → (∀ q ∈ (s.chip.wing n).memSlots, reqLocks q.kind = false) → reqLocks x.kind = false →
        reqLocks y.kind = false → (s.chip.wing n).bankSlots (bankOf x.line) < 16 → (s.chip.wing n).bankSlots (bankOf y.line) < 16 → x ≠ y →
        t.chip.wing n = (if reqBefore y x = true then
          { s.chip.wing n with memSlots := (s.chip.wing n).memSlots ++ [y], memWait := [x] }
         else { s.chip.wing n with memSlots := (s.chip.wing n).memSlots ++ [x], memWait := [y] }))

/-- A read finds that a record cannot be delivered: its syndromes name no one symbol, or name the line number (R288). -/
def Chip.lineFails (c : Chip) (n l l' : Nat) : Prop :=
  lineResult (c.syndromes n l l').1 (c.syndromes n l l').2 = .uncorrectable ∨ lineResult (c.syndromes n l l').1 (c.syndromes n l l').2 = .addrErr

/-- MEM_READ: whatever errors a record has and whatever line was meant, its bytes are delivered, marked as poisoned where they are not to be
used, and then UE is set, with ADDR_ERR for a wrong line; a codeword read as its own line is delivered as it stands (R287 to R289). -/
def Claim.memRead : Prop :=
  ∀ (s : State) (n : Wing) (l l' : Nat) (us : List Upset), s.chip.up = true → lineOk l = true → lineOk l' = true →
    Runs (.memRead n l l' us) s fun t =>
      let c := s.chip.layUpsets n l us
      (t.chip.linePoison = true ↔ c.lineFails n l l') ∧ (c.lineFails n l l' → t.chip.flag (Reg.memStatus n) 1 = true) ∧
      (lineResult (c.syndromes n l l').1 (c.syndromes n l l').2 = .addrErr → t.chip.flag (Reg.memStatus n) 2 = true) ∧
      State.Frame (Touch.units.or { parts := [.lineOut, .linePoison] }) s t ∧
      (us = [] → l' = l → s.chip.lineBad n l = false →
        t.chip.lineOut = s.chip.bytes (stackBase n + l * 64) 64 ∧ t.chip.linePoison = false ∧
        State.Frame { wings := only [n.val], parts := [.lineOut, .linePoison] } s t)

/-- MEM_READ of a record with one symbol in error: it is delivered corrected, and CE is set; with WB, no write of the line waiting, the record
is rewritten (R287, R288, R291). -/
def Claim.memReadCorrected : Prop :=
  ∀ (s : State) (n : Wing) (l : Nat) (u : Upset), s.chip.up = true → lineOk l = true → s.chip.lineBad n l = false → u.symbol < 34 → u.diff ≠ 0 →
    Runs (.memRead n l l [u]) s fun t =>
      t.chip.lineOut = s.chip.bytes (stackBase n + l * 64) 64 ∧ t.chip.linePoison = false ∧ t.chip.flag (Reg.memStatus n) 0 = true ∧
      (s.chip.flag (Reg.memCfg n) 8 = true → s.chip.writeWaits n l = false → t.chip.lineBad n l = false) ∧
      State.Frame { regs := fields [(Reg.memStatus n, 0, 0), (Reg.memCtr n 0, 47, 0), (Reg.memErr n, 63, 0)], wings := only [n.val],
                    parts := [.recErr, .lineOut, .linePoison] } s t

/-- MEM_WRITE outside the annex: a whole line is stored; fewer bytes are merged into the record, and are discarded where the record that they
would be merged with fails. Under no watch, with no error in the record, nothing else changes (R254, R290, R295). -/
def Claim.memWrite : Prop :=
  ∀ (s : State) (n : Wing) (l off : Nat) (data : List Byte), s.chip.up = true → lineOk l = true → 0 < data.length →
    off + data.length ≤ 64 → s.chip.inAnnex n (stackBase n + l * 64) = false →
    Runs (.memWrite n l off data) s fun t =>
      (data.length = 64 ∨ ¬ s.chip.lineFails n l l → t.chip.bytes (stackBase n + l * 64 + off) data.length = data) ∧
      (data.length ≠ 64 → s.chip.lineFails n l l →
        t.chip.bytes (stackBase n + l * 64 + off) data.length = s.chip.bytes (stackBase n + l * 64 + off) data.length ∧
        t.chip.flag (Reg.memStatus n) 1 = true) ∧
      State.Frame Touch.units s t ∧
      (s.chip.lineBad n l = false → s.chip.watchAt (stackBase n + l * 64 + off) = none →
        State.Frame { mem := span (stackBase n + l * 64 + off) data.length, wings := only [n.val] } s t)

/-- ACCUMULATE_STORE to an annex line that passes the arbiter, its block not frozen or its request in a slot already: each lane with an addend takes
the sum, saturating and then sticky, and the others stay; a record that fails is left, with UE. What saturates counts for the tensor (R296,
R297). -/
def Claim.accumulateStore : Prop :=
  ∀ (s : State) (n : Wing) (l tensor : Nat) (adds : List (Option Lane)), s.chip.up = true → lineOk l = true →
    s.chip.inAnnex n (stackBase n + l * 64) = true →
    ((s.chip.wing n).drops n { cls := 1, due := 0, line := l, kind := .accumulate } = false ∨
      ((s.chip.wing n).memSlots.any fun r => decide (r.line = l ∧ r.kind = .accumulate)) = true) →
    Runs (.accumulateStore n l adds tensor) s fun t =>
      (s.chip.lineBad n l = false → ∀ i < 16, sext 32 (ofLeBytes (t.chip.bytes (stackBase n + l * 64 + 4 * i) 4)) =
        (match nth none adds i with
         | none => sext 32 (ofLeBytes (s.chip.bytes (stackBase n + l * 64 + 4 * i) 4))
         | some x => (annexAdd (sext 32 (ofLeBytes (s.chip.bytes (stackBase n + l * 64 + 4 * i) 4))) (sext 32 x.toNat)).1)) ∧
      (s.chip.lineFails n l l → t.chip.flag (Reg.memStatus n) 1 = true ∧
        t.chip.bytes (stackBase n + l * 64) 64 = s.chip.bytes (stackBase n + l * 64) 64) ∧
      State.Frame Touch.units s t ∧
      (s.chip.lineBad n l = false → tensor = noTensor →
        State.Frame { regs := fields [(Reg.memStatus n, 3, 3), (Reg.memCtr n 3, 47, 0)], mem := span (stackBase n + l * 64) 64,
                      wings := only [n.val] } s t)

/-- ACCUMULATE_STORE to a frozen block whose request holds no slot: its addends are dropped, and the flag of R297 is set. -/
def Claim.accumulateFrozen : Prop :=
  ∀ (s : State) (n : Wing) (l tensor : Nat) (adds : List (Option Lane)), s.chip.up = true → lineOk l = true →
    s.chip.inAnnex n (stackBase n + l * 64) = true →
    (s.chip.wing n).drops n { cls := 1, due := 0, line := l, kind := .accumulate } = true →
    ((s.chip.wing n).memSlots.any fun r => decide (r.line = l ∧ r.kind = .accumulate)) = false →
    Runs (.accumulateStore n l adds tensor) s fun t =>
      t.chip.flag (Reg.memStatus n) 4 = true ∧
      State.Frame { regs := fields [(Reg.memStatus n, 4, 4), (Reg.memCtr n 4, 47, 0)] } s t

/-- DRAINING_READ of an annex line: its accumulators are delivered, and the line is zero, noted as read in its round; a record that fails is
delivered as poisoned and keeps its bytes (R298, R314). -/
def Claim.drainingRead : Prop :=
  ∀ (s : State) (n : Wing) (l : Nat), s.chip.up = true → lineOk l = true → s.chip.inAnnex n (stackBase n + l * 64) = true →
    Runs (.drainingRead n l) s fun t =>
      (s.chip.lineFails n l l → t.chip.linePoison = true ∧
        t.chip.bytes (stackBase n + l * 64) 64 = s.chip.bytes (stackBase n + l * 64) 64) ∧
      State.Frame (Touch.units.or { parts := [.lineOut, .linePoison] }) s t ∧
      (s.chip.lineBad n l = false →
        t.chip.lineOut = s.chip.bytes (stackBase n + l * 64) 64 ∧ t.chip.linePoison = false ∧
        (∀ i < 64, t.chip.byte (stackBase n + l * 64 + i) = 0) ∧
        State.Frame { mem := span (stackBase n + l * 64) 64, wings := only [n.val], parts := [.lineOut, .linePoison, .step] } s t)

/-- SCRUB_READ with SCRUB_H not 0: a record with one symbol in error is reported as a correction, and with WB, no write of the line waiting, is
rewritten; one that fails sets UE where a tile lies there, else SCRUB_UE, and is then zero (R292). -/
def Claim.scrubRead : Prop :=
  ∀ (s : State) (n : Wing) (l : Nat) (us : List Upset), s.chip.up = true → lineOk l = true → s.chip.fld (Reg.memCfg n) 7 0 ≠ 0 →
    Runs (.scrubRead n l us) s fun t =>
      let c := s.chip.layUpsets n l us
      let own := s.chip.tileAt (s.chip.nameOf (stackBase n + l * 64))
      (c.lineFails n l l → own.isSome = true → t.chip.flag (Reg.memStatus n) 1 = true) ∧
      (c.lineFails n l l → own = none → t.chip.flag (Reg.memStatus n) 5 = true ∧ t.chip.lineBad n l = false ∧
        (∀ i < 64, t.chip.byte (stackBase n + l * 64 + i) = 0)) ∧
      State.Frame Touch.units s t ∧
      (∀ u : Upset, us = [u] → s.chip.lineBad n l = false → u.symbol < 34 → u.diff ≠ 0 →
        t.chip.flag (Reg.memStatus n) 0 = true ∧
        (s.chip.flag (Reg.memCfg n) 8 = true → s.chip.writeWaits n l = false → t.chip.lineBad n l = false) ∧
        State.Frame { regs := fields [(Reg.memStatus n, 0, 0), (Reg.memCtr n 0, 47, 0), (Reg.memErr n, 63, 0)], wings := only [n.val],
                      parts := [.recErr] } s t) ∧
      (us = [] → s.chip.lineBad n l = false → State.Frame { wings := only [n.val] } s t)

/-- ANNEX_CLEAR_WRITE with CLEAR 1 while no task is loaded: CLEARING rises; while one is, nothing changes (R299). -/
def Claim.annexClearWrite : Prop :=
  ∀ (s : State) (w : Writer) (n : Wing) (v : Word), s.chip.up = true → s.chip.mayWrite w (Reg.memAnnexCtrl n) = true →
    Runs (.annexClearWrite w n v) s fun t =>
      if s.chip.anyLoaded = false ∧ v.getLsbD 0 = true then
        t.chip.flag (Reg.memAnnexCtrl n) 1 = true ∧ State.Frame { regs := fields [(Reg.memAnnexCtrl n, 1, 1)] } s t
      else State.Frame {} s t

/-- ANNEX_CONFIG_WRITE while no task is loaded, of ABASE or of an ASIZE up to 262,144: the slice is set, and a clear of every slice that has a
size starts; else nothing changes (R299, R300). -/
def Claim.annexConfigWrite : Prop :=
  ∀ (s : State) (w : Writer) (n : Wing) (size : Bool) (v : Word), s.chip.up = true →
    s.chip.mayWrite w (if size then Reg.memAnnexSize n else Reg.memAnnex n) = true →
    Runs (.annexConfigWrite w n size v) s fun t =>
      if s.chip.anyLoaded = true ∨ (size = true ∧ 262144 < wbits v 18 0) then State.Frame {} s t
      else
        (if size then t.chip.fld (Reg.memAnnexSize n) 18 0 = wbits v 18 0 else t.chip.fld (Reg.memAnnex n) 43 16 = wbits v 43 16) ∧
        (∀ m < 16, t.chip.flag (Reg.memAnnexCtrl m) 1 =
          (s.chip.flag (Reg.memAnnexCtrl m) 1 || decide (t.chip.fld (Reg.memAnnexSize m) 18 0 ≠ 0))) ∧
        State.Frame { regs := fun a i => fields [(Reg.memAnnexSize n, 18, 0), (Reg.memAnnex n, 43, 16)] a i ∨
                        ∃ m < 16, fields [(Reg.memAnnexCtrl m, 1, 1)] a i } s t

/-- ANNEX_CLEAR_DONE: every byte of the slice is zero, and CLEARING drops (R299). -/
def Claim.annexClearDone : Prop :=
  ∀ (s : State) (n : Wing), s.chip.flag (Reg.memAnnexCtrl n) 1 = true →
    Runs (.annexClearDone n) s fun t =>
      (∀ a, s.chip.inAnnex n a = true → t.chip.byte a = 0) ∧ t.chip.flag (Reg.memAnnexCtrl n) 1 = false ∧
      State.Frame { regs := fields [(Reg.memAnnexCtrl n, 1, 1)], mem := fun a => s.chip.inAnnex n a = true, parts := [.recErr] } s t

/-! ### Training (R313 to R335) -/

/-- CONTRIBUTION_HEADER to a wing store: RECEIVED rises; one of another version, or of another step, sets its flag and the part's vote will
refuse the step; one that is poisoned poisons it. Where nothing serves the place elsewhere and no pair is in use, the eight words lie there
(R317, R319). -/
def Claim.contributionHeader : Prop :=
  ∀ (s : State) (a m : Nat) (hdr : List Word), s.chip.up = true → s.chip.region a = .wingStore m → a % 64 = 0 → hdr.length = 8 →
    Runs (.contributionHeader a hdr) s fun t =>
      let h := nth 0 hdr 0
      t.chip.fld Reg.stepCount 31 0 = (s.chip.fld Reg.stepCount 31 0 + 1) % 2 ^ 32 ∧
      (wbits h 55 48 ≠ 1 → t.chip.flag Reg.stepStatus 1 = true ∧ t.chip.flag Reg.stepVote 3 = true) ∧
      (wbits h 47 0 ≠ s.chip.stepCount → t.chip.flag Reg.stepStatus 0 = true ∧ t.chip.flag Reg.stepVote 3 = true) ∧
      (h.getLsbD 56 = true → t.chip.flag Reg.stepVote 2 = true) ∧
      State.Frame Touch.units s t ∧
      (s.chip.home a = a → s.chip.pairs = [] →
        t.chip.bytes a 64 = hdr.flatMap (fun w => leBytes 8 w.toNat) ∧
        (wbits h 55 48 = 1 → wbits h 47 0 = s.chip.stepCount → h.getLsbD 56 = false →
          State.Frame { regs := fields [(Reg.stepCount, 31, 0)], mem := span a 64, par := span (a / 4) 16 } s t))

/-- CONTRIBUTION_HEADER of another step: its flag is set, and the part's vote will refuse the step (R317, R319). -/
def Claim.contributionRefused : Prop :=
  ∀ (s : State) (a m : Nat) (hdr : List Word), s.chip.up = true → s.chip.region a = .wingStore m → a % 64 = 0 → s.chip.home a = a →
    s.chip.pairs = [] → hdr.length = 8 → wbits (nth 0 hdr 0) 55 48 = 1 → wbits (nth 0 hdr 0) 47 0 ≠ s.chip.stepCount →
    (nth 0 hdr 0).getLsbD 56 = false →
    Runs (.contributionHeader a hdr) s fun t =>
      t.chip.flag Reg.stepStatus 0 = true ∧ t.chip.flag Reg.stepVote 3 = true ∧
      State.Frame { regs := fields [(Reg.stepStatus, 0, 0), (Reg.stepCtr 0, 47, 0), (Reg.stepVote, 3, 3), (Reg.stepCount, 31, 0)],
                    mem := span a 64, par := span (a / 4) 16 } s t

/-- The part's vote entry combined with those of its children (R319). -/
def Chip.voteHere (c : Chip) : VoteRec := c.step.childVote.foldl (fun v p => mergeVote v p.2) c.ownVote

/-- VOTE_SUBMIT of a part that has received and sent what it expects: its entry is submitted, and every outcome word is emptied. With every
child's record there, the combined record is final at the root and else goes up; with one missing, the part waits (R319, R356; log 85). -/
def Claim.voteSubmit : Prop :=
  ∀ (s : State), s.chip.trainTask.isSome = true → s.chip.step.voted = false → s.chip.halted = false →
    s.chip.fld Reg.stepCount 31 0 = s.chip.fld Reg.stepExpect 31 0 → s.chip.fld Reg.stepCount 63 32 = s.chip.fld Reg.stepExpect 63 32 →
    Runs .voteSubmit s fun t =>
      let all := (s.chip.children.all fun p => (NMap.find s.chip.step.childVote p).isSome) = true
      t.chip.step.voted = true ∧
      (all → s.chip.isRoot = true → t.chip.step.combined = some s.chip.voteHere ∧
        (s.chip.children ≠ [] → t.chip.step.outDown = s.chip.step.outDown ++ [.vote s.chip.voteHere])) ∧
      (all → s.chip.isRoot = false → t.chip.step.outUp = s.chip.step.outUp ++ [.vote s.chip.voteHere] ∧
        t.chip.step.combined = s.chip.step.combined) ∧
      (¬all → t.chip.step = { s.chip.step with voted := true }) ∧
      State.Frame Touch.units s t ∧
      (s.chip.waits = [] →
        (∀ a ∈ s.chip.outWords, t.chip.isFull (s.chip.home a) = false) ∧
        State.Frame { full := fun k => ∃ a ∈ s.chip.outWords, k = s.chip.home a / 8, parts := [.step] } s t)

/-- OUTCOME_DECIDE: the outcome is refuse where the steps differ or a part refuses, else skip where one is poisoned, else commit. It stands in
chip.step.vote with the step; commit alone moves the step counter on; refuse logs a tier 3 record. With nothing waiting every outcome word is
full (R320 to R323). -/
def Claim.outcomeDecide : Prop :=
  ∀ (s : State) (v : VoteRec), s.chip.step.combined = some v →
    Runs .outcomeDecide s fun t =>
      let o := if v.refuse = true ∨ v.least ≠ v.greatest then 3 else if v.poison = true then 2 else 1
      t.chip.fld Reg.stepVote 1 0 = o ∧ t.chip.step.combined = none ∧ t.chip.step.voted = false ∧
      t.chip.stepCount = (if o = 1 then (s.chip.stepCount + 1) % 2 ^ 48 else s.chip.stepCount) ∧
      t.chip.fld Reg.stepVote 15 8 = (if o = 1 then 0 else if o = 2 then min (s.chip.fld Reg.stepVote 15 8 + 1) 255 else s.chip.fld Reg.stepVote 15 8) ∧
      (o = 2 → t.chip.flag Reg.stepStatus 3 = true) ∧
      (o = 3 → t.chip.flag Reg.stepStatus 4 = true ∧ (s.chip.halted = false → t.chip.haltDue = true)) ∧
      (s.chip.waits = [] → ∀ a ∈ s.chip.outWords, t.chip.isFull (s.chip.home a) = true) ∧ State.Frame Touch.units s t

/-- SKIP_LIMIT: SKIPS has reached the limit, at least 1: the task is to stop with REASON 0x15, and SKIP_STOP is set (R324). -/
def Claim.skipLimit : Prop :=
  ∀ (s : State) (k : Nat), s.chip.trainTask = some k → max (s.chip.fld Reg.stepCtrl 7 0) 1 ≤ s.chip.fld Reg.stepVote 15 8 →
    (s.chip.task k).stopReq = none → s.chip.stoppable k = true →
    Runs .skipLimit s fun t =>
      t.chip.task k = { s.chip.task k with stopReq := some 0x15 } ∧ t.chip.flag Reg.stepStatus 5 = true ∧
      State.Frame { regs := fields [(Reg.stepStatus, 5, 5), (Reg.stepCtr 5, 47, 0)], tasks := only [k] } s t

/-! ### Bluyx (R337 to R358) -/

/-- A packet leaves a port's receive buffer, and the credits of its units are freed (R339). -/
def PortSt.took (x : PortSt) (p : Packet) : PortSt :=
  { x with rxPkts := x.rxPkts.erase p
           freed := setAt x.freed (bufferOf (pVl p) (pClass p))
             ((nth 0 x.freed (bufferOf (pVl p) (pClass p)) + 1 + dataUnits p) % 256) }

/-- A packet that stands in a receive buffer, with the version of the cascade and no packet for this part before it on its virtual lane
(R343, R347, R354). -/
structure Chip.Arrived (c : Chip) (n a : Nat) (p : Packet) (kind : Nat) : Prop where
  up    : c.up = true
  runs  : c.halted = false
  kind  : pKind p = kind
  data  : p.data.length = 64 * dataUnits p
  ver   : pVer p = c.cver
  there : p ∈ ((c.wing n).port a).rxPkts
  turn  : c.packetTurn n a p = true

/-- A place takes a whole line: a gallery store, local memory, or a wing store but for a live counter pair's words. -/
def Chip.takesLine (c : Chip) (h : Nat) : Prop :=
  match c.region h with
  | .galStore _ _ | .localMem _ => True
  | .wingStore _ => c.pairAt h = none
  | _ => False

/-- No counter pair has its words at a place. -/
def Chip.noPairAt (c : Chip) (h : Nat) : Prop := ∀ q ∈ c.pairs, ¬ span (c.home (q.2.word * 16)) 16 h

/-- A packet's data go to tagged words of a store. -/
def Chip.toTags (c : Chip) (p : Packet) : Prop := pFill p = true ∧ (c.region (pAddr p)).isStore = true

/-- A packet's data stand at the homes of the places that it names: bytes as they are, tagged words filled where they were empty. A signal that
is applied with them may move the words of counter pairs (R220, R344, R348). -/
def Chip.Landed (c d : Chip) (p : Packet) (signals : Prop) : Prop :=
  (¬ c.toTags p → ∀ i < 64 * pUnits p, c.takesLine (c.home (pAddr p + i)) →
    (signals → c.waits = [] ∧ c.noPairAt (c.home (pAddr p + i))) → d.byte (c.home (pAddr p + i)) = nth 0 p.data i) ∧
  (c.toTags p → c.waits = [] → ∀ i < 8 * pUnits p, c.pairAt (c.home (pAddr p + 8 * i)) = none → c.isFull (c.home (pAddr p + 8 * i)) = false →
    c.noPairAt (c.home (pAddr p + 8 * i)) →
    d.word (c.home (pAddr p + 8 * i)) = w64 (ofLeBytes ((p.data.drop (8 * i)).take 8)) ∧ d.isFull (c.home (pAddr p + 8 * i)) = true)

/-- A packet's range is served where its address says, takes whole lines, and no watch or record in error lies on it. -/
def Chip.openAt (c : Chip) (addr units : Nat) : Prop :=
  ∀ i < 64 * units, c.home (addr + i) = addr + i ∧ c.takesStore (addr + i) ∧ c.unwatched (addr + i)

/-- FRAME_SEND of a port that is up with fewer than 256 frames unacknowledged and none to be resent: the next 16 units of its stream go out
under the next sequence number, with the ACK of the last good frame and a NAK that is due, and the frame is held (R337 to R340). -/
def Claim.frameSend : Prop :=
  ∀ (s : State) (n : Wing) (a : Fin 2) (x : PortSt), (s.chip.wing n).port a = x → s.chip.portState n a = 2 → x.locked = true → x.farLp = false →
    x.resend = [] → x.replay.length < 256 →
    Runs (.frameSend n a) s fun t =>
      (∃ units, units.length = 1024 ∧
        ((t.chip.wing n).port a).replay = x.replay ++ [{ seq := x.txSeq, units := units, credit := x.freed, resends := 0 }] ∧
        ((t.chip.wing n).port a).lastFrame = buildFrame units (frameHdr x.txSeq (x.rxSeq + 4095) x.nakDue false x.freed)) ∧
      ((t.chip.wing n).port a).txSeq = (x.txSeq + 1) % 4096 ∧ ((t.chip.wing n).port a).nakDue = false ∧
      (t.chip.wing n).port (1 - a.val) = (s.chip.wing n).port (1 - a.val) ∧ State.Frame { wings := only [n.val] } s t

/-- FRAME_SEND with a frame to be resent that was resent fewer than 8 times: it goes out again as it was, with its own credit counts, and
REPLAY is set (R339, R340). -/
def Claim.frameResend : Prop :=
  ∀ (s : State) (n : Wing) (a : Fin 2) (x : PortSt) (q : Nat) (rest : List Nat) (f : HeldFrame), (s.chip.wing n).port a = x →
    s.chip.portState n a = 2 → x.locked = true → x.farLp = false → x.resend = q :: rest → f ∈ x.replay → f.seq = q →
    (∀ h ∈ x.replay, h.seq = q → h = f) → f.resends < 8 →
    Runs (.frameSend n a) s fun t =>
      ((t.chip.wing n).port a).lastFrame = buildFrame f.units (frameHdr f.seq (x.rxSeq + 4095) x.nakDue false f.credit) ∧
      ((t.chip.wing n).port a).resend = rest ∧ ((t.chip.wing n).port a).txSeq = x.txSeq ∧ t.chip.flag (Reg.bxEvents n a) 1 = true ∧
      State.Frame { regs := fields [(Reg.bxEvents n a, 1, 1), (bxCtr n a 1, 47, 0)], wings := only [n.val] } s t

/-- A frame's eight codewords decode to w, their corrections counted. -/
def frameDecodes (bytes : List Byte) (w : Nat → List Nat × Nat) : Prop :=
  bytes.length = 1088 ∧ ∀ k < 8, rsDecode (codeword bytes k) = some (w k)

/-- The information bytes of a decoded frame: its units, its header and its CRC (R337 to R339). -/
def frameInfo (w : Nat → List Nat × Nat) : List Byte := interleave ((List.range 8).map fun k => (w k).1.take 130) 1040

/-- The CRC of a frame's information bytes is right. -/
def frameCrc (info : List Byte) : Prop := ofLeBytes ((info.drop 1036).take 4) = crc32c ((info.drop 1024).take 12 ++ info.take 1024)

/-- Codewords of a frame that were corrected. -/
def correctedWords (w : Nat → List Nat × Nat) : Nat := ((List.range 8).filter fun k => decide ((w k).2 ≠ 0)).length

/-- The registers of a port's corrections and state. -/
def Touch.linkPort (n a : Nat) : Touch :=
  { regs := fun r i => fields [(Reg.bxEvents n a, 0, 0), (bxCtr n a 0, 47, 0), (Reg.bxStatus n a, 2, 0)] r i ∨ r = Reg.bxSymerr n a,
    wings := only [n] }

/-- FRAME_RECEIVE of a frame whose eight codewords decode, its CRC right and its SEQ the one expected: its units enter the stream, its credits
and its ACK are taken, and it is acknowledged from then on; a NAK has every frame left unacknowledged resent, in order. Corrections are counted. A
frame without LP brings a port in low power up (log 122; R338 to R340, R355). -/
def Claim.frameReceive : Prop :=
  ∀ (s : State) (n : Wing) (a : Fin 2) (x : PortSt) (bytes : List Byte) (w : Nat → List Nat × Nat) (h : Nat),
    (s.chip.wing n).port a = x → 1 ≤ s.chip.portState n a → s.chip.portState n a ≤ 3 → x.locked = true → frameDecodes bytes w →
    frameCrc (frameInfo w) → h = ofLeBytes (((frameInfo w).drop 1024).take 12) → bits h 11 0 = x.rxSeq → x.credits.length = 7 →
    x.lastCred.length = 7 → (bit h 24 = true → ∀ f ∈ ackFrames (bits h 23 12) x.replay, f.resends < 8) →
    Runs (.frameReceive n a bytes) s fun t =>
      let y := (t.chip.wing n).port a
      y.rxSeq = (x.rxSeq + 1) % 4096 ∧ y.farLp = bit h 25 ∧ y.badRun = 0 ∧ y.replay = ackFrames (bits h 23 12) x.replay ∧
      (bit h 24 = true → y.replay ≠ [] → y.resend = y.replay.map HeldFrame.seq) ∧
      (bit h 24 = false → y.resend = x.resend.filter fun q => y.replay.any fun f => decide (f.seq = q)) ∧
      y.lastCred = (List.range 7).map (fun k => bits h (39 + 8 * k) (32 + 8 * k)) ∧
      (∀ k < 7, nth 0 y.credits k = nth 0 x.credits k + (bits h (39 + 8 * k) (32 + 8 * k) + 256 - nth 0 x.lastCred k) % 256) ∧
      y.rxPkts = x.rxPkts ++ (parsePackets 64 (x.rxUnits ++ (frameInfo w).take 1024) []).1 ∧
      t.chip.portState n a = (if s.chip.portState n a = 3 ∧ bit h 25 = false then 2 else s.chip.portState n a) ∧
      (correctedWords w ≠ 0 → t.chip.flag (Reg.bxEvents n a) 0 = true) ∧
      t.chip.fld (bxCtr n a 0) 47 0 = (s.chip.fld (bxCtr n a 0) 47 0 + correctedWords w) % 2 ^ 48 ∧
      State.Frame (Touch.linkPort n a) s t ∧
      (correctedWords w = 0 → s.chip.portState n a ≠ 3 → State.Frame { wings := only [n.val] } s t)

/-- A frame that arrives as it was sent is intact: each of its codewords decodes to itself without a correction, its information bytes are
the units, the header and the CRC, and the CRC is right (R337 to R339). -/
def Claim.frameIntact : Prop :=
  ∀ (units hdr : List Byte), units.length = 1024 → hdr.length = 12 →
    (buildFrame units hdr).length = 1088 ∧
    (∀ k < 8, rsDecode (codeword (buildFrame units hdr) k) = some (codeword (buildFrame units hdr) k, 0)) ∧
    interleave ((List.range 8).map fun k => (codeword (buildFrame units hdr) k).take 130) 1040 =
      units ++ hdr ++ leBytes 4 (crc32c (hdr ++ units)) ∧
    ofLeBytes (leBytes 4 (crc32c (hdr ++ units))) = crc32c (hdr ++ units)

/-- FRAME_RECEIVE of a frame with a codeword that cannot be corrected: it is discarded, and a NAK is due; corrections of its other codewords
are counted (R338, R340). -/
def Claim.frameBad : Prop :=
  ∀ (s : State) (n : Wing) (a : Fin 2) (x : PortSt) (bytes : List Byte), (s.chip.wing n).port a = x → 1 ≤ s.chip.portState n a →
    s.chip.portState n a ≤ 3 → x.locked = true → bytes.length = 1088 → (∃ k < 8, rsDecode (codeword bytes k) = none) →
    Runs (.frameReceive n a bytes) s fun t =>
      (t.chip.wing n).port a = { x with nakDue := true, badRun := x.badRun + 1 } ∧ t.chip.portState n a = s.chip.portState n a ∧
      State.Frame (Touch.linkPort n a) s t ∧
      ((∀ k < 8, ∀ y, rsDecode (codeword bytes k) = some y → y.2 = 0) → State.Frame { wings := only [n.val] } s t)

/-- FRAME_RECEIVE of a frame whose codewords decode but whose CRC is wrong: it is discarded, and a NAK is due; of one whose SEQ is not the one
expected: it is discarded (R339, R340). -/
def Claim.frameDropped : Prop :=
  ∀ (s : State) (n : Wing) (a : Fin 2) (x : PortSt) (bytes : List Byte) (w : Nat → List Nat × Nat),
    (s.chip.wing n).port a = x → 1 ≤ s.chip.portState n a → s.chip.portState n a ≤ 3 → x.locked = true → frameDecodes bytes w →
    (frameCrc (frameInfo w) → bits (ofLeBytes (((frameInfo w).drop 1024).take 12)) 11 0 ≠ x.rxSeq) →
    Runs (.frameReceive n a bytes) s fun t =>
      (¬ frameCrc (frameInfo w) → (t.chip.wing n).port a = { x with badRun := 0, nakDue := true }) ∧
      (frameCrc (frameInfo w) → (t.chip.wing n).port a = { x with badRun := 0 }) ∧
      (correctedWords w ≠ 0 → t.chip.flag (Reg.bxEvents n a) 0 = true) ∧
      t.chip.portState n a = s.chip.portState n a ∧ State.Frame (Touch.linkPort n a) s t

/-- REPLAY_TIMEOUT on a port that is up with frames outstanding, none resent 8 times: all are to be resent, in order (R340). -/
def Claim.replayTimeout : Prop :=
  ∀ (s : State) (n : Wing) (a : Fin 2) (x : PortSt), (s.chip.wing n).port a = x → s.chip.portState n a = 2 → x.replay ≠ [] →
    (∀ h ∈ x.replay, h.resends < 8) →
    Runs (.replayTimeout n a) s fun t =>
      (t.chip.wing n).port a = { x with resend := x.replay.map HeldFrame.seq } ∧ State.Frame { wings := only [n.val] } s t

/-- What brings a port to its fault: a frame resent 8 times that a timeout, the port's next frame or the end of a retraining would have resent
once more, or the second stage of a retraining that fails (R340, R342). -/
def PortSt.faults (x : PortSt) (st : Nat) (n : Wing) (a : Fin 2) (i : Instr) : Prop :=
  (i = .replayTimeout n a ∧ st = 2 ∧ ∃ h ∈ x.replay, 8 ≤ h.resends) ∨
  (i = .frameSend n a ∧ st = 2 ∧ x.locked = true ∧ x.farLp = false ∧
    ∃ q rest f, x.resend = q :: rest ∧ (x.replay.find? fun h => decide (h.seq = q)) = some f ∧ 8 ≤ f.resends) ∨
  (i = .portRetrainDone n a false ∧ x.retrain = 2) ∨
  (i = .portRetrainDone n a true ∧ x.retrain ≠ 0 ∧ ∃ h ∈ x.replay, 8 ≤ h.resends)

/-- A link fault: the port is in its fault state, and LFAULT is set. With no recovery under way the tasks whose routes or combine tree use the
port are to stop, held; where none does, every loaded one is (log 123; R340, R342, R377). -/
def Claim.linkFault : Prop :=
  ∀ (s : State) (n : Wing) (a : Fin 2) (i : Instr), ((s.chip.wing n).port a).faults (s.chip.portState n a) n a i →
    Runs i s fun t =>
      let ts := s.chip.tasksOnPort (2 * n + a)
      t.chip.portState n a = 4 ∧ t.chip.flag (Reg.bxEvents n a) 2 = true ∧ ((t.chip.wing n).port a).locked = false ∧
      ((t.chip.wing n).port a).resend = [] ∧ ((t.chip.wing n).port a).retrain = 0 ∧
      (s.chip.halted = false → s.chip.recov = none → t.chip.recov.isSome = true ∧
        ∀ k, s.chip.stoppable k = true → (k ∈ ts ∨ ts = []) →
          (t.chip.task k).byFault = true ∧ (t.chip.task k).stopReq = some ((s.chip.task k).stopReq.getD 0x14)) ∧
      State.Frame ((Touch.fault fun k => s.chip.stoppable k = true).or
        { regs := fields [(Reg.bxEvents n a, 2, 2), (bxCtr n a 2, 47, 0), (Reg.bxStatus n a, 2, 0)], wings := only [n.val] }) s t

/-- LOCK_LOSS after eight bad frames in a row: the port has lost lock and retrains (R342). -/
def Claim.lockLoss : Prop :=
  ∀ (s : State) (n : Wing) (a : Fin 2) (x : PortSt), (s.chip.wing n).port a = x → 8 ≤ x.badRun → x.locked = true →
    Runs (.lockLoss n a) s fun t =>
      t.chip.portState n a = 1 ∧ t.chip.flag (Reg.bxEvents n a) 6 = true ∧ (t.chip.wing n).port a = { x with locked := false, retrain := 1 } ∧
      State.Frame { regs := fields [(Reg.bxEvents n a, 6, 6), (bxCtr n a 6, 47, 0), (Reg.bxStatus n a, 2, 0)], wings := only [n.val] } s t

/-- PORT_RETRAIN_DONE with lock again: the port is up, and every frame outstanding is to be resent, in order; the first stage's failure begins the
second (R340, R342). -/
def Claim.portRetrainDone : Prop :=
  ∀ (s : State) (n : Wing) (a : Fin 2) (ok : Bool) (x : PortSt), (s.chip.wing n).port a = x → x.retrain ≠ 0 →
    (ok = true → ∀ h ∈ x.replay, h.resends < 8) → (ok = false → x.retrain = 1) →
    Runs (.portRetrainDone n a ok) s fun t =>
      if ok = true then
        t.chip.portState n a = 2 ∧
        (t.chip.wing n).port a = { x with locked := true, retrain := 0, badRun := 0,
                                          resend := if x.replay = [] then x.resend else x.replay.map HeldFrame.seq } ∧
        State.Frame { regs := fields [(Reg.bxStatus n a, 2, 0)], wings := only [n.val] } s t
      else (t.chip.wing n).port a = { x with retrain := 2 } ∧ State.Frame { wings := only [n.val] } s t

/-- A port that trains again: everything but the packets that wait for it is as at reset. -/
def PortSt.trained (x : PortSt) : PortSt := { PortSt.reset with locked := true, txq := x.txq }

/-- PORT_BRINGUP of an enabled port that is down, or in fault with no task loaded: with all eight lanes it trains at ×8; else, with ALLOW_NARROW,
at ×4 on the lower half where its four lanes lock, else on the upper half, with NARROW; else it is down (R336, R340, R354). -/
def Claim.portBringup : Prop :=
  ∀ (s : State) (n : Wing) (a : Fin 2) (lanes : BitVec 8), s.chip.up = true → s.chip.flag (Reg.bxCfg n a) 0 = true →
    (s.chip.portState n a = 0 ∨ (s.chip.portState n a = 4 ∧ s.chip.anyLoaded = false)) →
    Runs (.portBringup n a lanes) s fun t =>
      let x := (s.chip.wing n).port a
      let narrow := s.chip.flag (Reg.bxCfg n a) 4 = true
      let up4 := narrow ∧ lanes ≠ 0xFF ∧ (lanes &&& 0x0F = 0x0F ∨ lanes &&& 0xF0 = 0xF0)
      (lanes = 0xFF → t.chip.portState n a = 1 ∧ t.chip.fld (Reg.bxStatus n a) 4 3 = 0 ∧ (t.chip.wing n).port a = x.trained) ∧
      (up4 → t.chip.portState n a = 1 ∧ t.chip.fld (Reg.bxStatus n a) 4 3 = (if lanes &&& 0x0F = 0x0F then 1 else 3) ∧
        t.chip.flag (Reg.bxEvents n a) 4 = true ∧ (t.chip.wing n).port a = x.trained) ∧
      (lanes ≠ 0xFF → ¬up4 → t.chip.portState n a = 0 ∧ (t.chip.wing n).port a = x) ∧
      State.Frame
        { regs := fields [(Reg.bxEvents n a, 4, 4), (bxCtr n a 4, 47, 0), (Reg.bxStatus n a, 4, 0)], wings := only [n.val] } s t

/-- CAPABILITY_EXCHANGE of a training port with a far end that speaks version 1: the port is up at it and knows the far end; without a common
version it stays down with NOVER (R354; the credits are log 23's). -/
def Claim.capabilityExchange : Prop :=
  ∀ (s : State) (n : Wing) (a : Fin 2) (id : BitVec 12) (port : Fin 32) (vset : BitVec 8) (x : PortSt), (s.chip.wing n).port a = x →
    s.chip.portState n a = 1 → x.retrain = 0 →
    Runs (.capabilityExchange n a id port vset) s fun t =>
      if vset.getLsbD 0 = true then
        t.chip.portState n a = 2 ∧ t.chip.fld (Reg.bxStatus n a) 15 8 = 1 ∧ t.chip.fld (Reg.bxStatus n a) 27 16 = id.toNat ∧
        t.chip.fld (Reg.bxStatus n a) 36 32 = port.val ∧
        (t.chip.wing n).port a = { x with credits := List.replicate 6 1024 ++ [64] } ∧
        State.Frame { regs := fields [(Reg.bxStatus n a, 2, 0), (Reg.bxStatus n a, 15, 8), (Reg.bxStatus n a, 27, 16), (Reg.bxStatus n a, 36, 32)],
                      wings := only [n.val] } s t
      else
        t.chip.portState n a = 0 ∧ t.chip.flag (Reg.bxEvents n a) 3 = true ∧
        State.Frame { regs := fields [(Reg.bxStatus n a, 2, 0), (Reg.bxEvents n a, 3, 3), (bxCtr n a 3, 47, 0)] } s t

/-- PORT_WAKE: a port in low power, or one whose far end has announced LP, with a packet to carry wakes, and LWAKE is set; PORT_WAKE_DONE brings
it up (R355). -/
def Claim.portWake : Prop :=
  (∀ (s : State) (n : Wing) (a : Fin 2) (x : PortSt), (s.chip.wing n).port a = x →
    (s.chip.portState n a = 3 ∨ (s.chip.portState n a = 2 ∧ x.farLp = true)) → x.txq ≠ [] → x.waking = false →
    Runs (.portWake n a) s fun t =>
      (t.chip.wing n).port a = { x with waking := true } ∧ t.chip.flag (Reg.bxEvents n a) 5 = true ∧
      State.Frame { regs := fields [(Reg.bxEvents n a, 5, 5), (bxCtr n a 5, 47, 0)], wings := only [n.val] } s t) ∧
  (∀ (s : State) (n : Wing) (a : Fin 2) (x : PortSt), (s.chip.wing n).port a = x → x.waking = true →
    Runs (.portWakeDone n a) s fun t =>
      t.chip.portState n a = 2 ∧ (t.chip.wing n).port a = { x with waking := false, farLp := false } ∧
      State.Frame { regs := fields [(Reg.bxStatus n a, 2, 0)], wings := only [n.val] } s t)

/-- PORT_IDLE_LP with no task loaded and nothing to carry: one last frame with LP goes out, and the port is in low power (R355, R442). -/
def Claim.portIdleLp : Prop :=
  ∀ (s : State) (n : Wing) (a : Fin 2) (x : PortSt), (s.chip.wing n).port a = x → s.chip.anyLoaded = false → s.chip.portState n a = 2 →
    x.txq = [] → x.stream = [] → x.rxPkts = [] → x.resend = [] →
    Runs (.portIdleLp n a) s fun t =>
      t.chip.portState n a = 3 ∧
      (∃ units, ((t.chip.wing n).port a).lastFrame = buildFrame units (frameHdr x.txSeq (x.rxSeq + 4095) x.nakDue true x.freed)) ∧
      State.Frame { regs := fields [(Reg.bxStatus n a, 2, 0)], wings := only [n.val] } s t

/-- IDLE on a port that is up with nothing ready: an IDLE header unit of 64 bytes enters its stream (R343, R344). -/
def Claim.idle : Prop :=
  ∀ (s : State) (n : Wing) (a : Fin 2) (x : PortSt), (s.chip.wing n).port a = x → s.chip.portState n a = 2 → x.pick = none → x.stream = [] →
    Runs (.idle n a) s fun t =>
      (t.chip.wing n).port a = { x with stream := leBytes 8 (s.chip.cver * 2 ^ 8) ++ List.replicate 56 0 } ∧
      State.Frame { wings := only [n.val] } s t

/-- WRITE_PACKET that passes the checks of R348: its data stand at its address, and its credits are freed; an open signal of its last packet is
applied to its pair. With neither FILL, a contribution nor a signal nothing else changes (R339, R344, R347, R348, R359). -/
def Claim.writePacket : Prop :=
  ∀ (s : State) (n : Wing) (a : Fin 2) (p : Packet), s.chip.Arrived n a p 1 → pDst p = s.chip.phys → s.chip.packetOk (pAddr p) (pUnits p) = true →
    (pSrc p, pXfer p) ∉ ((s.chip.wing n).port a).rxBad →
    Runs (.writePacket n a p) s fun t =>
      let signals := pLast p = true ∧ pSig p ≠ 0xFFFF
      Chip.Landed s.chip t.chip p signals ∧
      ((t.chip.wing n).port a).rxPkts = (((s.chip.wing n).port a).took p).rxPkts ∧
      ((t.chip.wing n).port a).freed = (((s.chip.wing n).port a).took p).freed ∧
      (signals → ¬ s.chip.toTags p → s.chip.waits = [] → s.chip.resends = [] → ((s.chip.wing n).port a).sigWait = [] →
        s.chip.PairAt (pSig p / 4096) (pSig p % 4096) →
        let q := s.chip.pair (pSig p / 4096) (pSig p % 4096)
        t.chip.pair (pSig p / 4096) (pSig p % 4096) =
          { q with p := (q.p + min (q.buf - q.level) 1) % 2 ^ 48, sat := q.sat || decide (q.buf - q.level < 1) }) ∧
      State.Frame Touch.units s t ∧
      (¬ s.chip.toTags p → pContrib p = false → ¬signals → s.chip.openAt (pAddr p) (pUnits p) →
        t.chip.bytes (pAddr p) (64 * pUnits p) = p.data ∧ (t.chip.wing n).port a = ((s.chip.wing n).port a).took p ∧
        State.Frame { mem := span (pAddr p) (64 * pUnits p), par := span (pAddr p / 4) (16 * pUnits p), wings := only [n.val] } s t)

/-- WRITE_PACKET with FILL to words that are full: each is held by its home, and the signal of its last packet waits at its port until every
one of them is written (R220, R221, R347). -/
def Claim.writePacketWaits : Prop :=
  ∀ (s : State) (n : Wing) (a : Fin 2) (p : Packet), s.chip.Arrived n a p 1 → pDst p = s.chip.phys → s.chip.packetOk (pAddr p) (pUnits p) = true →
    (pSrc p, pXfer p) ∉ ((s.chip.wing n).port a).rxBad → s.chip.toTags p → pUnits p = 1 → pContrib p = false → s.chip.waits = [] →
    (∀ i < 8, s.chip.isFull (s.chip.home (pAddr p + 8 * i)) = true ∧ s.chip.pairAt (s.chip.home (pAddr p + 8 * i)) = none) →
    ((s.chip.wing n).port a).sigWait = [] →
    Runs (.writePacket n a p) s fun t =>
      t.chip.waits = ((List.range 8).map fun i => (
        { addr := s.chip.home (pAddr p + 8 * i), issuer := .link n a (pVl p), kind := .fill,
          value := w64 (ofLeBytes ((p.data.drop (8 * i)).take 8)), pars := [], since := s.chip.tick.edges,
          task := s.chip.taskAt (pAddr p + 8 * i) } : Wait)) ∧
      (pLast p = true → pSig p ≠ 0xFFFF →
        ((t.chip.wing n).port a).sigWait.map SigWait.sig = [pSig p] ∧ t.chip.pairs = s.chip.pairs) ∧
      State.Frame { wings := only [n.val], parts := [.waits] } s t

/-- A packet that fails the checks of R348: nothing is written, RBAD is set with its source, and the loaded tasks are to stop. What follows of a
transfer of WRITE packets is to be passed over. -/
def Claim.packetBad : Prop :=
  ∀ (s : State) (n : Wing) (a : Fin 2) (p : Packet) (k : Nat) (i : Instr), s.chip.Arrived n a p k → pDst p = s.chip.phys →
    (s.chip.packetOk (pAddr p) (pUnits p) = false ∨ (k = 2 ∧ pUnits p = 0)) →
    ((k = 1 ∧ i = .writePacket n a p ∧ (pSrc p, pXfer p) ∉ ((s.chip.wing n).port a).rxBad) ∨
      (k = 2 ∧ i = .readPacket n a p ∧ NMap.find ((s.chip.wing n).port a).reads (readKey p) = none) ∨ (k = 3 ∧ i = .rdata n a p)) →
    Runs i s fun t =>
      let x := ((s.chip.wing n).port a).took p
      t.chip.flag Reg.linkStatus 2 = true ∧ t.chip.fld Reg.linkStatus 27 16 = pSrc p ∧
      (∀ k, s.chip.stoppable k = true → (t.chip.task k).stopReq = some ((s.chip.task k).stopReq.getD 0x11)) ∧
      (t.chip.wing n).port a = (if k = 1 ∧ pLast p = false then { x with rxBad := x.rxBad ++ [(pSrc p, pXfer p)] } else x) ∧
      State.Frame { regs := fields [(Reg.linkStatus, 2, 2), (Reg.linkStatus, 27, 16), (Reg.linkCtr 2, 47, 0)], wings := only [n.val],
                    tasks := fun k => s.chip.stoppable k = true } s t

/-- WRITE_PACKET of a transfer that an earlier packet of it has failed: it is passed over, and with the last one the transfer is forgotten
(R348). -/
def Claim.packetPassed : Prop :=
  ∀ (s : State) (n : Wing) (a : Fin 2) (p : Packet), s.chip.Arrived n a p 1 → pDst p = s.chip.phys →
    (pSrc p, pXfer p) ∈ ((s.chip.wing n).port a).rxBad →
    Runs (.writePacket n a p) s fun t =>
      let x := ((s.chip.wing n).port a).took p
      (t.chip.wing n).port a = (if pLast p = true then { x with rxBad := x.rxBad.erase (pSrc p, pXfer p) } else x) ∧
      State.Frame { wings := only [n.val] } s t

/-- The port of the group of a part's route that a transfer selects (R350). -/
def Chip.outFor (c : Chip) (part xfer : Nat) : Nat :=
  c.fld (Reg.linkRoute part) 4 0 + xfer % (c.fld (Reg.linkRoute part) 12 8 + 1)

/-- The packets of port number q. -/
def Chip.sends (c : Chip) (q : Nat) : List TxPacket := ((c.wing (q / 2)).port (q % 2)).txq

/-- A packet is the RDATA that answers a READ with bytes (R344). -/
def answers (c : Chip) (p : Packet) (bs : List Byte) (q : TxPacket) : Prop :=
  q.vl = 1 ∧ pKind q.pkt = 3 ∧ pDst q.pkt = pSrc p ∧ pSrc q.pkt = c.phys ∧ pUnits q.pkt = pUnits p ∧ pAddr q.pkt = wbits (pArg p) 43 0 ∧
    pXfer q.pkt = pXfer p ∧ pFill q.pkt = pFill p ∧ pLast q.pkt = pLast p ∧ q.pkt.data = bs

/-- READ_PACKET that waits for no tag: the bytes asked for, as a read of them delivers them, go back as RDATA to RADDR on SRC, through the
route of SRC. With no error anywhere nothing but the two ports changes (R344, R348 to R350, R366). -/
def Claim.readPacket : Prop :=
  ∀ (s : State) (n : Wing) (a : Fin 2) (p : Packet), s.chip.Arrived n a p 2 → pDst p = s.chip.phys → s.chip.packetOk (pAddr p) (pUnits p) = true →
    pUnits p ≠ 0 → NMap.find ((s.chip.wing n).port a).reads (readKey p) = none → (pWait p = false ∨ (s.chip.region (pAddr p)).isStore = false) →
    s.chip.flag (Reg.linkRoute (pSrc p)) 16 = true →
    Runs (.readPacket n a p) s fun t =>
      let out := s.chip.outFor (pSrc p) (pXfer p)
      (∃ q : TxPacket, t.chip.sends out = s.chip.sends out ++ [q] ∧
        answers s.chip p (s.chip.fetch (pAddr p) (64 * pUnits p)).2.1 q) ∧
      State.Frame Touch.units s t ∧
      (s.chip.good → (∀ i < 64 * pUnits p, s.chip.home (pAddr p + i) = pAddr p + i) →
        (s.chip.fetch (pAddr p) (64 * pUnits p)).2.1 = s.chip.bytes (pAddr p) (64 * pUnits p) ∧
        State.Frame { wings := only [n.val, out / 2] } s t)

/-- The words of a READ from one of its words on. -/
def Chip.readFrom (c : Chip) (p : Packet) (j k : Nat) : List Byte :=
  (List.range k).flatMap fun i => leBytes 8 (c.word (c.home (pAddr p + 8 * (j + i)))).toNat

/-- A READ with WAITSRC stands at its word j: newly begun, or going on after a wait with the words that it has. -/
def Chip.readAt (c : Chip) (n a : Nat) (p : Packet) (j : Nat) (got : List Byte) : Prop :=
  (j = 0 ∧ got = [] ∧ c.Arrived n a p 2 ∧ pDst p = c.phys ∧ c.packetOk (pAddr p) (pUnits p) = true ∧ pWait p = true ∧
    (c.region (pAddr p)).isStore = true ∧ NMap.find ((c.wing n).port a).reads (readKey p) = none) ∨
  (c.halted = false ∧ NMap.find ((c.wing n).port a).reads (readKey p) = some { got := got, waiting := false })

/-- READ_PACKET with WAITSRC whose words from j on are all full: the RDATA holds the words that it had and those (R220, R344). -/
def Claim.readTagged : Prop :=
  ∀ (s : State) (n : Wing) (a : Fin 2) (p : Packet) (j : Nat) (got : List Byte), s.chip.readAt n a p j got → got.length = 8 * j → pUnits p ≠ 0 →
    j ≤ 8 * pUnits p → (∀ i < 8 * pUnits p - j, s.chip.isFull (s.chip.home (pAddr p + 8 * (j + i))) = true) →
    s.chip.flag (Reg.linkRoute (pSrc p)) 16 = true →
    Runs (.readPacket n a p) s fun t =>
      let out := s.chip.outFor (pSrc p) (pXfer p)
      (∃ q : TxPacket, t.chip.sends out = s.chip.sends out ++ [q] ∧ answers s.chip p (got ++ s.chip.readFrom p j (8 * pUnits p - j)) q) ∧
      NMap.find ((t.chip.wing n).port a).reads (readKey p) = none ∧ State.Frame Touch.units s t ∧
      (s.chip.good → State.Frame { wings := only [n.val, out / 2] } s t)

/-- READ_PACKET with WAITSRC at the first of its words that is empty: it holds those before, and waits at that word's home, which holds the
access or, with its table full, returns it; repeated before the word has come it changes nothing (R220, R221). -/
def Claim.readWaits : Prop :=
  ∀ (s : State) (n : Wing) (a : Fin 2) (p : Packet) (j k : Nat) (got : List Byte), s.chip.readAt n a p j got → got.length = 8 * j → pUnits p ≠ 0 →
    j + k < 8 * pUnits p → (∀ i < k, s.chip.isFull (s.chip.home (pAddr p + 8 * (j + i))) = true) →
    s.chip.isFull (s.chip.home (pAddr p + 8 * (j + k))) = false →
    Runs (.readPacket n a p) s fun t =>
      NMap.find ((t.chip.wing n).port a).reads (readKey p) = some { got := got ++ s.chip.readFrom p j k, waiting := true } ∧
      State.Frame Touch.units s t ∧ Runs (.readPacket n a p) t (fun u => State.Frame {} t u) ∧
      (s.chip.good →
        Chip.holds s.chip t.chip { addr := s.chip.home (pAddr p + 8 * (j + k)), issuer := .read n a (readKey p), kind := .read, value := 0,
                                   pars := [], since := s.chip.tick.edges, task := s.chip.taskAt (pAddr p + 8 * (j + k)) } ∧
        State.Frame { regs := fields [(Reg.ledgerStatus (s.chip.region (s.chip.home (pAddr p + 8 * (j + k)))).wing, 4, 4),
                                      (Reg.ledgerCtr (s.chip.region (s.chip.home (pAddr p + 8 * (j + k)))).wing 4, 47, 0)],
                      wings := only [n.val], parts := [.waits, .resends] } s t)

/-- A DMA command of this part asked for read data of a transfer at an address (R212, R347). -/
def DmaJob.asked (j : DmaJob) (p : Packet) : Prop :=
  j.xfer % 2 ^ 24 = pXfer p ∧ j.begun = true ∧ j.written = false ∧ dDst j.cmd.words % 2 ^ 44 ≤ pAddr p ∧
    pAddr p < dDst j.cmd.words % 2 ^ 44 + dLen j.cmd.words

/-- RDATA that passes the checks of R348: its data stand at its address. With nothing waiting, the one DMA command of a wing that asked for them
counts them, and is written once it has them all (R228, R344, R347, R348). -/
def Claim.rdata : Prop :=
  ∀ (s : State) (n : Wing) (a : Fin 2) (p : Packet), s.chip.Arrived n a p 3 → pDst p = s.chip.phys → s.chip.packetOk (pAddr p) (pUnits p) = true →
    Runs (.rdata n a p) s fun t =>
      Chip.Landed s.chip t.chip p False ∧
      ((t.chip.wing n).port a).rxPkts = (((s.chip.wing n).port a).took p).rxPkts ∧
      ((t.chip.wing n).port a).freed = (((s.chip.wing n).port a).took p).freed ∧
      (∀ m < 16, ∀ q ∈ (s.chip.wing m).dma, (∀ r ∈ (s.chip.wing m).dma, r.2.asked p → r = q) → q.2.asked p → s.chip.waits = [] →
        NMap.find (t.chip.wing m).dma q.1 =
          some { q.2 with moved := q.2.moved + p.data.length, written := decide (dLen q.2.cmd.words ≤ q.2.moved + p.data.length) }) ∧
      State.Frame Touch.units s t ∧
      (¬ s.chip.toTags p → s.chip.openAt (pAddr p) (pUnits p) →
        t.chip.bytes (pAddr p) (64 * pUnits p) = p.data ∧
        State.Frame { mem := span (pAddr p) (64 * pUnits p), par := span (pAddr p / 4) (16 * pUnits p), wings := always } s t)

/-- CONSUME_PACKET for a live pair: C rises by N, never beyond P; consumes beyond it set CONS_UNDER, and in a large cascade the pair's task is to
stop with REASON 0x16. For a pair of no loaded task STRAY is set (R226 to R230, R233, R344). -/
def Claim.consumePacket : Prop :=
  ∀ (s : State) (n : Wing) (a : Fin 2) (p : Packet), s.chip.Arrived n a p 4 → pDst p = s.chip.phys →
    (s.chip.pairLive (pSig p / 4096) (pSig p % 4096) = false →
      Runs (.consumePacket n a p) s fun t =>
        t.chip.flag (Reg.ledgerStatus (pSig p / 4096)) 3 = true ∧ (t.chip.wing n).port a = ((s.chip.wing n).port a).took p ∧
        State.Frame { regs := fields [(Reg.ledgerStatus (pSig p / 4096), 3, 3), (Reg.ledgerCtr (pSig p / 4096) 3, 47, 0)],
                      wings := only [n.val] } s t) ∧
    (s.chip.PairAt (pSig p / 4096) (pSig p % 4096) →
      Runs (.consumePacket n a p) s fun t =>
        let q := s.chip.pair (pSig p / 4096) (pSig p % 4096)
        let k := wbits (pArg p) 15 0
        let stops := s.chip.largeCascade = true ∧ q.level < k
        (q.level < k → t.chip.flag (Reg.ledgerStatus (pSig p / 4096)) 1 = true) ∧
        (stops → ∀ v, q.task = some v → s.chip.stoppable v = true → (t.chip.task v).stopReq = some ((s.chip.task v).stopReq.getD 0x16)) ∧
        State.Frame Touch.units s t ∧
        (s.chip.waits = [] →
          t.chip.pair (pSig p / 4096) (pSig p % 4096) = { q with c := (q.c + min q.level k) % 2 ^ 48, sat := q.sat || decide (q.level < k) } ∧
          t.chip.pairShown (pSig p / 4096) (pSig p % 4096) ∧
          State.Frame ((Touch.pair s.chip (pSig p / 4096) (pSig p % 4096) 1).or
            { wings := only [n.val], tasks := fun v => stops ∧ q.task = some v }) s t))

/-- MGMT: its operation word is the last of the port's hub queue; a taker that waits has it at once, and at a full queue it waits (R231, R232,
R344). -/
def Claim.mgmt : Prop :=
  ∀ (s : State) (n : Wing) (a : Fin 2) (p : Packet), s.chip.Arrived n a p 5 →
    Runs (.mgmt n a p) s fun t =>
      let q := 16 + 2 * n.val + a.val
      if q ∈ s.chip.takeWait then
        t.chip.taken = pArg p ∧ t.chip.takeWait = s.chip.takeWait.erase q ∧
        State.Frame { wings := only [n.val], parts := [.takeWait, .taken] } s t
      else if (s.chip.queue q).length < 256 then
        t.chip.queue q = s.chip.queue q ++ [pArg p] ∧ State.Frame { queues := only [q], wings := only [n.val] } s t
      else t.chip.putWait = s.chip.putWait ++ [(q, pArg p)] ∧ State.Frame { wings := only [n.val], parts := [.putWait] } s t

/-- What a packet that is discarded with its source in LAST_SRC may touch: a tier 2 fault that stops the loaded tasks (R349, R354). -/
def Touch.badPacket (c : Chip) (n k : Nat) : Touch :=
  (Touch.fault fun v => c.stoppable v = true).or
    { regs := fields [(Reg.linkStatus, k, k), (Reg.linkStatus, 27, 16), (Reg.linkCtr k, 47, 0)], wings := only [n] }

/-- A packet is discarded with a flag of chip.link.status and its source, and, where no recovery is under way, the loaded tasks are to stop. -/
def Chip.dropsPacket (c d : Chip) (p : Packet) (k : Nat) : Prop :=
  d.flag Reg.linkStatus k = true ∧ d.fld Reg.linkStatus 27 16 = pSrc p ∧
    (c.recov = none → ∀ v, c.stoppable v = true → (d.task v).stopReq = some ((c.task v).stopReq.getD 0x14))

/-- A packet whose version is not the cascade's, at its destination or on its way: it is discarded with HDR_VER (R354). -/
def Claim.packetVersion : Prop :=
  ∀ (s : State) (n : Wing) (a : Fin 2) (p : Packet) (i : Instr), s.chip.up = true → s.chip.halted = false → pVer p ≠ s.chip.cver →
    ((p.data.length = 64 * dataUnits p ∧ s.chip.packetTurn n a p = true ∧
        (i = .writePacket n a p ∧ pKind p = 1 ∨
          i = .readPacket n a p ∧ pKind p = 2 ∧ NMap.find ((s.chip.wing n).port a).reads (readKey p) = none ∨
          i = .rdata n a p ∧ pKind p = 3 ∨ i = .consumePacket n a p ∧ pKind p = 4 ∨ i = .mgmt n a p ∧ pKind p = 5)) ∨
      (i = .packetForward n a p ∧ 1 ≤ pKind p ∧ pKind p ≤ 4 ∧ pDst p ≠ s.chip.phys ∧ s.chip.forwardTurn n a p = true)) →
    Runs i s fun t => s.chip.dropsPacket t.chip p 1 ∧ State.Frame (Touch.badPacket s.chip n 1) s t

/-- PACKET_FORWARD of a packet for another part, in its turn, with a route: it waits at the port of the route's group that its transfer selects,
its bytes and fields as they were but for the class, which is 1 where that port sets it, else kept within one dimension of the cascade and 0 in
another. Without a route it is discarded with NOROUTE and its source (R347, R349, R350). -/
def Claim.packetForward : Prop :=
  ∀ (s : State) (n : Wing) (a : Fin 2) (p : Packet), s.chip.up = true → s.chip.halted = false → 1 ≤ pKind p → pKind p ≤ 4 →
    pDst p ≠ s.chip.phys → pVer p = s.chip.cver → s.chip.forwardTurn n a p = true →
    Runs (.packetForward n a p) s fun t =>
      let out := s.chip.outFor (pDst p) (pXfer p)
      let dim := fun (q : Nat) => s.chip.fld (Reg.bxCfg (q / 2) (q % 2)) 2 1
      if s.chip.flag (Reg.linkRoute (pDst p)) 16 = true then
        (∃ q : TxPacket, t.chip.sends out = s.chip.sends out ++ [q] ∧ q.vl = pVl p ∧
          pKind q.pkt = pKind p ∧ pDst q.pkt = pDst p ∧ pSrc q.pkt = pSrc p ∧ q.pkt.header.tail = p.header.tail ∧ q.pkt.data = p.data ∧
          q.dclass = (if s.chip.flag (Reg.bxCfg (out / 2) (out % 2)) 3 = true then 1 else if dim (2 * n + a) = dim out then pClass p else 0)) ∧
        State.Frame { wings := only [n.val, out / 2] } s t
      else s.chip.dropsPacket t.chip p 0 ∧ State.Frame (Touch.badPacket s.chip n 0) s t

/-- TIMESTAMP_EXCHANGE on a port that is up: DELAY is the round trip and OFFSET half the difference of the two ways, in units of 125 ps. At the
PARENT port SKEW takes the offset with the parent's own, and the delay, in nanoseconds; on a part that is not the master an offset beyond 32 ns
sets SYNC_SLEW, and one beyond 250 ns while a task runs is a tick loss (R40, R357; rounding is log 24's). -/
def Claim.timestampExchange : Prop :=
  ∀ (s : State) (n : Wing) (a : Fin 2) (t1 t2 t3 t4 : Nat) (po : Int), s.chip.portState n a = 2 →
    Runs (.timestampExchange n a t1 t2 t3 t4 po) s fun t =>
      let delay := roundEven (((t4 : Int) - t1) - ((t3 : Int) - t2)) 2
      let offset := roundEven (((t2 : Int) - t1) - ((t4 : Int) - t3)) 2
      let total := roundEven (offset + po) 8
      let own := fields [(Reg.bxDelay n a, 15, 0), (Reg.bxDelay n a, 47, 32)]
      let seen := s.chip.flag Reg.tickCtrl 0 = false ∧ (s.chip.periodMis = false ∨ s.chip.anyRunning = true)
      t.chip.fld (Reg.bxDelay n a) 15 0 = twos 16 delay ∧ t.chip.fld (Reg.bxDelay n a) 47 32 = twos 16 offset ∧
      (if s.chip.flag Reg.linkTree 5 = false ∧ s.chip.fld Reg.linkTree 4 0 = 2 * n + a then
        t.chip.fld Reg.tickSkew 15 0 = twos 16 total ∧ t.chip.fld Reg.tickSkew 31 16 = twos 16 (roundEven delay 8) ∧
        t.chip.tick = { s.chip.tick with offset := total } ∧
        (seen → 32 < total.natAbs → t.chip.flag Reg.tickStatus 1 = true) ∧
        (seen → 250 < total.natAbs → s.chip.anyRunning = true → s.chip.halted = false →
          t.chip.flag Reg.tickStatus 2 = true ∧ t.chip.haltDue = true) ∧
        (total.natAbs ≤ 32 ∨ ¬seen → State.Frame { regs := fun r i => own r i ∨ fields [(Reg.tickSkew, 31, 0)] r i, parts := [.tick] } s t) ∧
        State.Frame ((Touch.log.or (Touch.put 52)).or
          { regs := fun r i => own r i ∨ fields [(Reg.tickSkew, 31, 0), (Reg.tickStatus, 2, 1), (Reg.tickCtr 1, 47, 0), (Reg.tickCtr 2, 47, 0)] r i,
            parts := [.tick, .haltDue] }) s t
      else State.Frame { regs := own } s t)

/-- TICK_COUNT_ADOPT on a part that is not the master and holds no count: it holds the one whose next is the cascade's (R358). -/
def Claim.tickCountAdopt : Prop :=
  ∀ (s : State) (k : Nat), s.chip.up = true → s.chip.tick.hasCount = false → s.chip.flag Reg.tickCtrl 0 = false → k < 2 ^ 48 →
    Runs (.tickCountAdopt k) s fun t =>
      (t.chip.tickCount + 1) % 2 ^ 48 = k ∧ t.chip.tick = { s.chip.tick with hasCount := true } ∧
      State.Frame { regs := fields [(Reg.tickCount, 47, 0)], parts := [.tick] } s t

/-- CASCADE_ASSEMBLE: a duplicate identity sets DUP_ID; READY stands only for one rooted cascade without one, with the lowest version
(R353, R354, R356). -/
def Claim.cascadeAssemble : Prop :=
  ∀ (s : State) (x : CascadeCensus), s.chip.up = true → x.version < 256 →
    Runs (.cascadeAssemble x) s fun t =>
      t.chip.cver = x.version ∧ t.chip.flag Reg.linkIdent 48 = (x.rooted && !x.duplicate) ∧
      t.chip.flag Reg.linkStatus 3 = (s.chip.flag Reg.linkStatus 3 || x.duplicate) ∧
      State.Frame { regs := fields [(Reg.linkIdent, 39, 32), (Reg.linkIdent, 48, 48), (Reg.linkStatus, 3, 3), (Reg.linkCtr 3, 47, 0)] } s t

/-- What a part holds of the records that a combine waits for, with a child's vote, or its AMAX record of step k, added. -/
def Chip.withChild (c : Chip) (p : Nat) : CombineRec → Chip
  | .vote v => { c with step := { c.step with childVote := NMap.put c.step.childVote p v } }
  | .amax k es => { c with step := { c.step with childAmax := NMap.put c.step.childAmax (32 * k + p) es } }

/-- The AMAX records of step k that a part holds, its own and its children's, merged (R73). -/
def Chip.amaxHere (c : Chip) (k : Nat) : List AmaxEntry :=
  (c.step.childAmax.filter fun p => decide (p.1 / 32 = k)).foldl (fun acc p => mergeAmax acc p.2) (c.ownAmax k)

/-- A final record goes to every child, where there is any (R356). -/
def Chip.passedDown (c d : Chip) (r : CombineRec) : Prop := d.step.outDown = c.step.outDown ++ (if c.children = [] then [] else [r])

/-- COMBINE_RECORD of a vote. A child's waits until the part's own and every other child's are there; then the combined one is final at the root and
goes down, and else goes up. The parent's is final, and goes down (R319, R356). -/
def Claim.combineRecord : Prop :=
  ∀ (s : State) (v : VoteRec), s.chip.up = true →
    (∀ p ∈ s.chip.children, Runs (.combineRecord (.child p) (.vote v)) s fun t =>
      let c := s.chip.withChild p (.vote v)
      (if s.chip.step.voted = true ∧ (∀ q ∈ s.chip.children, NMap.find c.step.childVote q ≠ none) then
        t.chip.step.childVote = [] ∧
        (s.chip.isRoot = true → t.chip.step.combined = some c.voteHere ∧ s.chip.passedDown t.chip (.vote c.voteHere)) ∧
        (s.chip.isRoot = false → t.chip.step = { s.chip.step with childVote := [], outUp := s.chip.step.outUp ++ [.vote c.voteHere] })
      else t.chip.step = c.step) ∧
      State.Frame { parts := [.step] } s t) ∧
    (s.chip.isRoot = false → Runs (.combineRecord .parent (.vote v)) s fun t =>
      t.chip.step.combined = some v ∧ s.chip.passedDown t.chip (.vote v) ∧ State.Frame { parts := [.step] } s t)

/-- COMBINE_RECORD of a census step's AMAX records. A child's waits until this part's counts of the step are complete and every other child's are
there; then the merged one goes up, or is final at the root and goes down. The parent's is final, and goes down (R73, R356). -/
def Claim.combineAmax : Prop :=
  ∀ (s : State) (k : Nat) (es : List AmaxEntry), s.chip.up = true →
    (∀ p ∈ s.chip.children, Runs (.combineRecord (.child p) (.amax k es)) s fun t =>
      let c := s.chip.withChild p (.amax k es)
      (if s.chip.step.waitSteps.contains k = true ∧ s.chip.stepDrained k = true ∧
          (∀ q ∈ s.chip.children, NMap.find c.step.childAmax (32 * k + q) ≠ none) then
        (s.chip.isRoot = true → s.chip.passedDown t.chip (.amax k (c.amaxHere k)) ∧
          t.chip.step.waitSteps = s.chip.step.waitSteps.erase k) ∧
        (s.chip.isRoot = false → t.chip.step.outUp = s.chip.step.outUp ++ [.amax k (c.amaxHere k)] ∧
          (∀ q ∈ t.chip.step.childAmax, q.1 / 32 ≠ k) ∧ State.Frame { parts := [.step] } s t)
      else t.chip.step = c.step ∧ State.Frame { parts := [.step] } s t) ∧
      State.Frame Touch.units s t) ∧
    (s.chip.isRoot = false → Runs (.combineRecord .parent (.amax k es)) s fun t =>
      s.chip.passedDown t.chip (.amax k es) ∧
      (s.chip.step.waitSteps.contains k = true → s.chip.stepDrained k = true →
        t.chip.step.waitSteps = s.chip.step.waitSteps.erase k ∧
        ∀ e ∈ mergeAmax es (s.chip.ownAmax k), e.tensor < s.chip.tensors → e.counted = true →
          (t.chip.counts k e.tensor).combined = true) ∧
      State.Frame Touch.units s t)

/-! ### Guards, held tasks and the assist (R370 to R374, R378, R381) -/

/-- The source codes of a row of a plane, as a read of them delivers them (R370). -/
def Chip.guardCodes (c : Chip) (n g : Nat) (p : Plane) (r : Nat) : List Int :=
  (c.fetch (c.fld (Reg.consSrc n g (planeIx p)) 43 0 + 256 * r) 256).2.1.map code8

/-- GUARD_RUN with nothing to classify, or in a recovery: a guard MVM on the next row; the next run takes the row after it, and in resident mode
the other plane. GUARD_FAIL is set exactly where some result is out of its limit around its source code. A plane that is not written, or whose
source has moved, is passed over (R370, R372). -/
def Claim.guardRun : Prop :=
  ∀ (s : State) (n : Wing) (g : GalIx) (results : List Int), s.chip.guardMayRun n g = true →
    ((s.chip.gal n g).cls = none ∨ s.chip.recov.isSome = true) →
    Runs (.guardRun n g results) s fun t =>
      let p := s.chip.guardPlane n g
      let r := (s.chip.gal n g).guardRow
      let near := (List.range 256).all fun x =>
        guardNear (s.chip.gainOf (s.chip.gal n g) p s.chip.censusStep) (nth 0 (s.chip.guardCodes n g p r) x) (nth 0 results x)
      if s.chip.guardable n g p = true then
        (t.chip.gal n g).guardRow = (r + 1) % 512 ∧ (t.chip.gal n g).guardAlt = !(s.chip.gal n g).guardAlt ∧
        t.chip.flag (Reg.galFlt n g) 1 = (s.chip.flag (Reg.galFlt n g) 1 || !near) ∧ State.Frame Touch.units s t ∧
        (s.chip.good → (∀ i < 256, let h := s.chip.home (s.chip.fld (Reg.consSrc n g (planeIx p)) 43 0 + 256 * r + i)
            (s.chip.region h).isStore = true ∨ ∃ m, s.chip.region h = .localMem m) →
          State.Frame { regs := fun a _ => galReg n g 0 ≤ a ∧ a < galReg n g 0x1000, gals := only [galKey n g] } s t)
      else State.Frame {} s t

/-- A classification of a gallery's mismatch has ended with a verdict, and its capture is released (R372, R373, R385). -/
def Chip.classOver (d : Chip) (n g v : Nat) : Prop :=
  (d.gal n g).cls = none ∧ d.fld (Reg.galFltState n g) 6 4 = v ∧ d.flag (Reg.galFltState n g) 7 = false ∧ d.fld (Reg.galFltState n g) 2 0 = 0

/-- A classification of a gallery's mismatch goes on as k says (R373, R385). -/
def Chip.classGoes (d : Chip) (n g : Nat) (k : GalClass) : Prop :=
  (d.gal n g).cls = some k ∧ d.fld (Reg.galFltState n g) 2 0 = k.step % 8

/-- GUARD_RUN with a mismatch captured and no recovery under way carries one step of its classification. A plane, its gain or the live plane
that has changed leaves it UNRESOLVED (6). A guard run's mismatch is repeated on its row: TRANSIENT (1), or the failing columns' vitrines are HARD
(3). A checksum mismatch is repeated whole: TRANSIENT, or band by band; no band alone failing, the gallery is at fault (4); else each failing
band's largest row is checked against its source, and the bands' vitrines are fenced, as a cell's fault (3) where a row fails and as a
converter's (2) where none does (R373, R376). -/
def Claim.guardClass : Prop :=
  ∀ (s : State) (n : Wing) (g : GalIx) (results : List Int) (k : GalClass), s.chip.guardMayRun n g = true → (s.chip.gal n g).cls = some k →
    s.chip.recov = none →
    Runs (.guardRun n g results) s fun t =>
      let info := Reg.galCapInfo n g
      let p := planeOf (s.chip.fld info 0 0)
      let bands := s.chip.fld info 15 8
      let gain := s.chip.fld info 18 16
      let j := s.chip.fld info 22 20
      let ins := s.chip.capInputs n g
      let fenced := fun (v : Nat) => (t.chip.rd (Reg.galFenced n g)).getLsbD v = true
      let changed := s.chip.fld (Reg.consSrc n g (planeIx p)) 63 48 ≠ k.gen ∨ s.chip.fld (Reg.galMode n g) 1 1 ≠ k.live ∨
        s.chip.gainOf (s.chip.gal n g) p s.chip.censusStep ≠ gain
      let oneFails := fun (i : Nat) => s.chip.columnFails n g (s.chip.guardMvm n g p (2 ^ i) (oneBand ins i)) results j
      (changed → t.chip.classOver n g 6) ∧
      (¬changed → s.chip.flag info 24 = true →
        let bad := guardFails gain (s.chip.guardCodes n g p k.guardRow) results 0 256
        (bad = [] → t.chip.classOver n g 1) ∧
        (bad ≠ [] → t.chip.classOver n g 3 ∧ (k.guardRow < 512 → ∀ x ∈ bad, fenced (guardVit k.guardRow x)))) ∧
      (¬changed → s.chip.flag info 24 = false → k.step = 1 →
        if s.chip.columnFails n g (s.chip.guardMvm n g p bands ins) results j = true then
          t.chip.classGoes n g { k with step := 3, todo := (List.range 8).filter fun i => bit bands i }
        else t.chip.classOver n g 1) ∧
      (∀ i rest, ¬changed → s.chip.flag info 24 = false → k.step = 3 → k.todo = i :: rest →
        let failed := if oneFails i = true then k.failed ++ [i] else k.failed
        (rest ≠ [] → t.chip.classGoes n g { k with todo := rest, failed := failed }) ∧
        (rest = [] → failed = [] → t.chip.classOver n g 4 ∧ ∀ v < 64, fenced v) ∧
        (rest = [] → failed ≠ [] → t.chip.classGoes n g { k with step := 4, todo := [], failed := failed, checks := failed })) ∧
      (¬changed → s.chip.flag info 24 = false → k.step = 3 → k.todo = [] → t.chip.classOver n g 4) ∧
      (∀ i rest, ¬changed → s.chip.flag info 24 = false → k.step = 4 → k.checks = i :: rest →
        let bad := guardFails gain (s.chip.guardCodes n g p (worstRow ins i)) results (32 * j) (32 * j + 32)
        let hard := if bad = [] then k.hard else k.hard ++ [i]
        (rest ≠ [] → t.chip.classGoes n g { k with checks := rest, hard := hard }) ∧
        (rest = [] → t.chip.classOver n g (if hard = [] then 2 else 3) ∧ ∀ b ∈ k.failed, b < 8 → fenced (8 * b + j))) ∧
      State.Frame Touch.units s t

/-- The array whose captured pass an array repeats: the first one that chose it (R374). -/
def Chip.askedOf (c : Chip) (k : Nat) : Option Nat :=
  (List.range 32).find? fun i => decide (((c.wing (i / 2)).arr (i % 2)).clsStep = 2) && c.otherArray i == some k

/-- A guard window of an array may run: its wing runs, the part is not halted, and the array is enabled and not fenced. -/
def Chip.windowOpen (c : Chip) (n a : Nat) : Prop := c.inRun n = true ∧ c.halted = false ∧ c.arrayOk (2 * n + a) = true

/-- ARRAY_GUARD_WINDOW with no captured pass to repeat, or in a recovery: a pass changes nothing; a failure sets GUARD_FAIL and, with nothing
captured yet, is captured (R371, R372, R374). -/
def Claim.arrayGuardWindow : Prop :=
  ∀ (s : State) (n : Wing) (a : Fin 2) (r : GuardResult), s.chip.windowOpen n a →
    (s.chip.recov.isSome = true ∨ (((s.chip.wing n).arr a).clsStep ≠ 1 ∧ s.chip.askedOf (2 * n + a) = none)) →
    Runs (.arrayGuardWindow n a r) s fun t =>
      match r with
      | .pass => State.Frame {} s t
      | .fail d =>
        t.chip.flag (Reg.wingFlt n) 1 = true ∧ t.chip.flag (Reg.wingFlt n) (4 + a) = true ∧
        (s.chip.flag (Reg.wingFlt n) (4 + a) = false → ((t.chip.wing n).arr a).clsStep = 1 ∧ ((t.chip.wing n).arr a).dval = d) ∧
        (s.chip.flag (Reg.wingFlt n) (4 + a) = true → t.chip.wing n = s.chip.wing n) ∧
        State.Frame { regs := fun b _ => wingReg n 0x1900 ≤ b ∧ b < wingReg n 0x1A00,
                      wings := only [n.val] } s t

/-- ARRAY_GUARD_WINDOW that repeats the array's own captured pass: a pass is TRANSIENT, logged, and its capture is released; a failure has it
repeated on another array (R374). -/
def Claim.arrayClassOwn : Prop :=
  ∀ (s : State) (n : Wing) (a : Fin 2) (r : GuardResult), s.chip.windowOpen n a → s.chip.recov = none → ((s.chip.wing n).arr a).clsStep = 1 →
    Runs (.arrayGuardWindow n a r) s fun t =>
      match r with
      | .pass =>
        ((t.chip.wing n).arr a).clsStep = 0 ∧ t.chip.flag (Reg.wingFlt n) (4 + a) = false ∧
        t.chip.fld Reg.fltLogPos 23 0 = (s.chip.fld Reg.fltLogPos 23 0 + 1) % 2 ^ 24 ∧
        State.Frame (Touch.log.or { regs := fields [(Reg.wingFlt n, 4 + a, 4 + a)], wings := only [n.val] }) s t
      | .fail _ => ((t.chip.wing n).arr a).clsStep = 2 ∧ State.Frame { wings := only [n.val] } s t

/-- ARRAY_GUARD_WINDOW that repeats another array's captured pass: a pass shows that array at fault, which is fenced, and the tasks bound to it,
or with none every loaded one (log 123), are to stop; a failure leaves the fault unresolved, sets its flag, and stops every loaded task (R190,
R374, R377). -/
def Claim.arrayClassOther : Prop :=
  ∀ (s : State) (n : Wing) (a : Fin 2) (r : GuardResult) (k : Nat), s.chip.windowOpen n a → s.chip.recov = none →
    ((s.chip.wing n).arr a).clsStep ≠ 1 → s.chip.askedOf (2 * n + a) = some k →
    Runs (.arrayGuardWindow n a r) s fun t =>
      let m := k / 2
      let b := k % 2
      ((t.chip.wing m).arr b).clsStep = 0 ∧ t.chip.flag (Reg.wingFlt m) (4 + b) = false ∧ t.chip.recov.isSome = true ∧
      (match r with
       | .pass => t.chip.flag (Reg.mxIdent m b) 9 = true
       | .fail _ => t.chip.flag (Reg.wingFlt m) 3 = true) ∧
      (∀ v, s.chip.stoppable v = true → ((∃ d, r = .fail d) ∨ v ∈ s.chip.boundTo m b ∨ s.chip.boundTo m b = []) →
        (t.chip.task v).stopReq = some ((s.chip.task v).stopReq.getD 0x14) ∧ (t.chip.task v).byFault = true) ∧
      State.Frame ((Touch.fault fun v => s.chip.stoppable v = true).or
        { regs := fields [(Reg.mxIdent m b, 9, 9), (Reg.wingFlt m, 4 + b, 3), (Reg.wingFltCtr m 3, 47, 0)], wings := only [m] }) s t

/-- VECTOR_GUARD: a first failure sets GUARD_FAIL; a pass after it is TRANSIENT, with its record; a second sets VEC_HARD and is a tier 2
fault. With no task loaded a pass clears VEC_HARD (R371, R374). -/
def Claim.vectorGuard : Prop :=
  ∀ (s : State) (n : Wing) (r : GuardResult), s.chip.halted = false →
    Runs (.vectorGuard n r) s fun t =>
      match r, (s.chip.wing n).vec.guardFailed with
      | .fail _, false =>
        t.chip.flag (Reg.wingFlt n) 1 = true ∧ (t.chip.wing n).vec = { (s.chip.wing n).vec with guardFailed := true } ∧
        State.Frame { regs := fields [(Reg.wingFlt n, 1, 1), (Reg.wingFltCtr n 1, 47, 0)], wings := only [n.val] } s t
      | .pass, true =>
        (t.chip.wing n).vec = { (s.chip.wing n).vec with guardFailed := false } ∧
        t.chip.fld Reg.fltLogPos 23 0 = (s.chip.fld Reg.fltLogPos 23 0 + 1) % 2 ^ 24 ∧
        State.Frame (Touch.log.or { wings := only [n.val] }) s t
      | .pass, false =>
        t.chip.flag (Reg.wingFlt n) 2 = (s.chip.flag (Reg.wingFlt n) 2 && s.chip.anyLoaded) ∧
        State.Frame { regs := fields [(Reg.wingFlt n, 2, 2)] } s t
      | .fail _, true =>
        t.chip.flag (Reg.wingFlt n) 1 = true ∧ t.chip.flag (Reg.wingFlt n) 2 = true ∧
        (t.chip.wing n).vec = { (s.chip.wing n).vec with guardFailed := false } ∧ t.chip.recov.isSome = true ∧
        (s.chip.recov = none → ∀ k, s.chip.stoppable k = true → (t.chip.task k).stopReq = some ((s.chip.task k).stopReq.getD 0x14)) ∧
        State.Frame ((Touch.fault fun k => s.chip.stoppable k = true).or
          { regs := fields [(Reg.wingFlt n, 2, 1), (Reg.wingFltCtr n 1, 47, 0), (Reg.wingFltCtr n 2, 47, 0)], wings := only [n.val] }) s t

/-- What R267 does for a task slot that ends: every tile of its index range is vacant, unless it is FENCED, and it uses no block of any
class. -/
def Chip.ended (c d : Chip) (k : Nat) : Prop :=
  (∀ i, (c.task k).base ≤ i → i < (c.task k).base + (c.task k).count → (c.cate i).fenced = false → (d.cate i).state = 0) ∧
    ∀ q < 8, d.quotaUse k q = 0

/-- RELEASE: written as 1 it releases every held task, whose tiles and blocks R267 then gives back; written as 0 it only sets ASSIST_WAIT
(R267, R378, R389). -/
def Claim.release : Prop :=
  ∀ (s : State) (w : Writer) (v : Word), s.chip.up = true → s.chip.mayWrite w Reg.fltCtrl = true →
    Runs (.release w v) s fun t =>
      t.chip.fld Reg.fltCtrl 15 0 = wbits v 15 0 ∧
      (v.getLsbD 16 = true → (∀ k, (t.chip.task k).held = false) ∧
        (s.chip.catLate = [] → ∀ k : Slot, (s.chip.task k).held = true → s.chip.ended t.chip k)) ∧
      (v.getLsbD 16 = false → State.Frame { regs := fields [(Reg.fltCtrl, 16, 0)] } s t) ∧ State.Frame Touch.units s t

/-- ASSIST_WAIT_EXPIRY: a task held for ASSIST_WAIT ms with no assist is released; one held for less stays held (R378). -/
def Claim.assistWaitExpiry : Prop :=
  ∀ (s : State), s.chip.assist = none →
    Runs .assistWaitExpiry s fun t =>
      let expired := fun (k : Nat) => (s.chip.task k).stopEdge + 2000 * max (s.chip.fld Reg.fltCtrl 15 0) 1 ≤ s.chip.tick.halfUs
      (∀ k, (t.chip.task k).held = ((s.chip.task k).held && !decide (expired k))) ∧
      (s.chip.catLate = [] → ∀ k : Slot, (s.chip.task k).held = true → expired k → s.chip.ended t.chip k) ∧
      State.Frame Touch.units s t ∧
      ((∀ k, (s.chip.task k).held = true → ¬expired k) → State.Frame {} s t)

/-- ASSIST_START with START 1 while a task is held and no assist runs, to another part or a host window: the stream has begun with its header,
and RUNNING is set with 64 bytes written (R381, R389). -/
def Claim.assistStart : Prop :=
  ∀ (s : State) (w : Writer) (v : Word), s.chip.up = true → s.chip.mayWrite w Reg.fltAssist = true → v.getLsbD 63 = true →
    s.chip.heldTasks ≠ [] → s.chip.assist = none → s.chip.halted = false →
    s.chip.assistDst (wbits v 55 6 * 64) = true →
    Runs (.assistStart w v) s fun t =>
      t.chip.fld Reg.fltAstat 1 0 = 1 ∧ t.chip.fld Reg.fltAstat 55 16 = 64 ∧
      (∃ x, t.chip.assist = some x ∧ x.dst = wbits v 55 6 * 64 ∧ x.sent = 64 ∧
        (∀ a p, s.chip.sideOf (wbits v 55 6 * 64) = .own a → s.chip.region a = .hostWin p → s.chip.home a = a → ∀ k < 64,
          NMap.find t.chip.hostMem (hostKey p (s.chip.hostBus p a + k)) = some (nth 0 (s.chip.assistHeader x.upd false false) k))) ∧
      State.Frame (Touch.units.or { parts := [.assist] }) s t

/-- ASSIST_DONE: the stream is whole: DONE is set and RUNNING clear, and every held task is released (R267, R378, R381). -/
def Claim.assistDone : Prop :=
  ∀ (s : State) (x : Assist), s.chip.assist = some x → s.chip.halted = false →
    Runs .assistDone s fun t =>
      t.chip.assist = none ∧ t.chip.fld Reg.fltAstat 1 0 = 2 ∧ (∀ k, (t.chip.task k).held = false) ∧
      (s.chip.good → s.chip.catLate = [] → ∀ k : Slot, (s.chip.task k).held = true → s.chip.ended t.chip k) ∧
      State.Frame (Touch.units.or { parts := [.assist] }) s t

/-- LOG_ACK_WRITE: ACK takes a value up to HEAD; one beyond HEAD is discarded (R389). -/
def Claim.logAckWrite : Prop :=
  ∀ (s : State) (w : Writer) (v : Word), s.chip.up = true → s.chip.mayWrite w Reg.fltLogPos = true →
    Runs (.logAckWrite w v) s fun t =>
      let ahead := serialDist 24 (wbits v 47 24) (s.chip.fld Reg.fltLogPos 23 0)
      if 1 ≤ ahead ∧ ahead < 2 ^ 23 then State.Frame {} s t
      else t.chip.fld Reg.fltLogPos 47 24 = wbits v 47 24 ∧ State.Frame { regs := fields [(Reg.fltLogPos, 47, 24)] } s t

/-! ### Host ports (R390 to R408) -/

/-- A token of a port that Pendun takes next: it is well formed with OP `op`, and no completion of Pendun's waits for a full queue (R232,
R395 to R398). -/
structure Chip.TokenAt (c : Chip) (h : HostPort) (w : Word) (op : Nat) : Prop where
  up    : c.up = true
  idle  : c.putWaits 50 = false ∧ c.putWaits 51 = false
  head  : (c.queue (48 + portIx h)).head? = some w
  short : (c.queue (48 + portIx h)).length ≤ 256
  good  : tokBad w = false
  op    : tokOp w = op

/-- A token that hardware puts to a queue: a taker that waits has it, else it is the queue's last, or waits where the queue is full (R232). -/
def Chip.PutAt (c d : Chip) (q : Nat) (tok : Word) : Prop :=
  if q ∈ c.takeWait then d.taken = tok ∧ d.takeWait = c.takeWait.erase q ∧ d.queue q = c.queue q
  else if (c.queue q).length < 256 then d.queue q = c.queue q ++ [tok] ∧ d.takeWait = c.takeWait
  else d.queue q = c.queue q ∧ (q, tok) ∈ d.putWait ∧ d.takeWait = c.takeWait

/-- The oldest token leaves a queue, and the first put that waited for its place enters (R232). -/
def Chip.TakenAt (c d : Chip) (q : Nat) : Prop := d.queue q = (c.queue q).tail ++ ((c.firstPut q).map Prod.snd).toList

/-- A token is taken from its submission queue, and completes with a status and a reason (R395, R396). -/
def Chip.Completed (c d : Chip) (h : HostPort) (w : Word) (status reason : Nat) : Prop :=
  c.TakenAt d (48 + portIx h) ∧ c.PutAt d (50 + portIx h) (ctoken (tokOp w) (tokSlot w) (tokTag w) status reason 0)

/-- What taking a token and completing it may touch. -/
def Touch.token (h : HostPort) : Touch := { queues := only [48 + portIx h, 50 + portIx h], parts := [.putWait, .takeWait, .taken] }

/-- Why a LOAD is refused before its image is placed, 0 for none: another period than the part's, or the master's another; another shape, or
the cascade not ready; no array, or too few; a table that R32 refuses; a vector engine that is not to be used; a wing, or the training step
state, that another task holds (R1, R3, R32, R41, R353, R374, R396, R471; the order is log 34's). -/
def Chip.refuses (c : Chip) (k : Nat) (im : Image) (reason : Nat) : Prop :=
  if im.period ≠ c.fld Reg.tickPeriod 7 0 ∨ (c.tick.masterP.any fun p => p != c.fld Reg.tickPeriod 7 0) = true then reason = 0x01
  else if im.parts ≠ c.fld Reg.ledgerClass 28 16 ∨ c.flag Reg.linkIdent 48 = false then reason = 0x02
  else if im.arrays = 0 ∨ c.arraysEnabled < im.arrays then reason = 0x03
  else if Image.tablesOk im = false then reason = 0x04
  else if ((List.range 16).any fun n => c.flag (Reg.wingFlt n) 2) = true then reason = 0x07
  else if c.heldBy k im = true then reason = 0x1B
  else reason = 0

/-- HOST_LOAD of an image that passes its checks into a free slot: the slot is its port's and is being loaded; nothing is answered yet (R395). -/
def Claim.hostLoad : Prop :=
  ∀ (s : State) (h : HostPort) (im : Image) (w : Word), s.chip.TokenAt h w 1 → (s.chip.task (tokSlot w)).phase = .empty →
    (s.chip.task (tokSlot w)).owner = none → s.chip.refuses (tokSlot w) im 0 →
    Runs (.hostLoad h im) s fun t =>
      t.chip.task (tokSlot w) = { TaskSt.reset with phase := .loading, owner := some h, img := some im, tag := tokTag w } ∧
      s.chip.TakenAt t.chip (48 + portIx h) ∧
      State.Frame { queues := only [48 + portIx h], tasks := only [tokSlot w], parts := [.putWait] } s t

/-- HOST_LOAD that is refused at once: a slot in use with 0x06, else with the first reason that its image meets. The slot stays as it was (R1,
R3, R32, R41, R353, R374, R396, R471). -/
def Claim.hostLoadRefused : Prop :=
  ∀ (s : State) (h : HostPort) (im : Image) (w : Word) (reason : Nat), s.chip.TokenAt h w 1 → reason ≠ 0 →
    (if (s.chip.task (tokSlot w)).phase ≠ .empty ∨ (s.chip.task (tokSlot w)).owner.isSome = true then reason = 0x06
     else s.chip.refuses (tokSlot w) im reason) →
    Runs (.hostLoad h im) s fun t => s.chip.Completed t.chip h w 1 reason ∧ State.Frame (Touch.token h) s t

/-- TASK_LOAD_COMPLETE, no clear of an annex slice outstanding: an image whose table gives this part no single identity, or that finds no place,
is refused with 0x05 and the slot is free again, with nothing else changed; one that is placed is ready, with thread 0 of each of its docents live
at its role's entry point, and its LOAD completes (R205, R256, R260, R353, R396). While a clear goes on the load waits (R299). -/
def Claim.taskLoadComplete : Prop :=
  ∀ (s : State) (k : Slot) (h : HostPort) (im : Image), (s.chip.task k).phase = .loading → (s.chip.task k).owner = some h →
    (s.chip.task k).img = some im →
    (s.chip.clearing = true → Runs (.taskLoadComplete k) s fun t => State.Frame {} s t) ∧
    (s.chip.clearing = false →
        (s.chip.logicalIn im = none ∨ ∃ l, s.chip.logicalIn im = some l ∧ (s.chip.loadTables k im l).placeTask k im = none) →
      Runs (.taskLoadComplete k) s fun t =>
        t.chip.task k = TaskSt.reset ∧ s.chip.PutAt t.chip (50 + portIx h) (ctoken 1 k (s.chip.task k).tag 1 0x05 0) ∧
        State.Frame ((Touch.put (50 + portIx h)).or { tasks := only [k.val] }) s t) ∧
    (∀ l d, s.chip.clearing = false → s.chip.logicalIn im = some l → (s.chip.loadTables k im l).placeTask k im = some d →
      Runs (.taskLoadComplete k) s fun t =>
        t.chip.task k = { d.task k with phase := .ready } ∧ d.PutAt t.chip (50 + portIx h) (ctoken 1 k (s.chip.task k).tag 0 0 0) ∧
        (∀ n g, (∀ q ∈ (d.task k).gals, galKey q.1 q.2 ≠ galKey n g) → t.chip.gal n g = d.gal n g) ∧
        (∀ (i : Nat) (q : Nat × Nat) (r : ImageRole), (d.task k).gals[i]? = some q → im.roles[i]? = some r →
          (∀ (j : Nat) (p : Nat × Nat), j ≠ i → (d.task k).gals[j]? = some p → galKey p.1 p.2 ≠ galKey q.1 q.2) →
          ((t.chip.gal q.1 q.2).thread 0).live = true ∧ ((t.chip.gal q.1 q.2).thread 0).pc = BitVec.ofNat 44 r.entry ∧
          ∀ j, 0 < j → ((t.chip.gal q.1 q.2).thread j).live = false) ∧
        State.Frame Touch.units s t)

/-- A port may not act on a slot, or the slot still loads: what a token for it is refused with (R395, R396; log 35). -/
def Chip.slotRefused (c : Chip) (h : HostPort) (k : Nat) (primaryToo : Bool) (reason : Nat) : Prop :=
  if c.mayAct h k primaryToo = false then reason = 0x09 else (c.task k).phase = .loading ∧ reason = 0x06

/-- HOST_UNLOAD by the slot's owner or the primary: the slot is free, its entries are vacant, its classes use nothing, its pairs are disabled and
nothing of it waits anywhere; a slot that neither owns is refused with 0x09, one that still loads with 0x06 (R233, R267, R395, R396). -/
def Claim.hostUnload : Prop :=
  ∀ (s : State) (h : HostPort) (w : Word), s.chip.TokenAt h w 2 →
    (s.chip.mayAct h (tokSlot w) true = true → (s.chip.task (tokSlot w)).phase ≠ .loading →
      Runs (.hostUnload h) s fun t =>
        let k := tokSlot w
        t.chip.task k = TaskSt.reset ∧ s.chip.Completed t.chip h w 0 0 ∧ (s.chip.catLate = [] → s.chip.ended t.chip k) ∧
        (∀ j, (NMap.get (fun _ => Pair.reset) t.chip.pairs j).task = some k → (NMap.get (fun _ => Pair.reset) t.chip.pairs j).en = false) ∧ (∀ x ∈ t.chip.waits ++ t.chip.resends, x.task ≠ some k) ∧
        State.Frame Touch.units s t) ∧
    (∀ reason, s.chip.slotRefused h (tokSlot w) true reason →
      Runs (.hostUnload h) s fun t => s.chip.Completed t.chip h w 1 reason ∧ State.Frame (Touch.token h) s t)

/-- HOST_STOP by the slot's owner or the primary: the task is to stop at the next edge with 0x18, unless a stop is asked already; a slot
that neither owns is refused with 0x09, one that still loads with 0x06 (R395, R396). -/
def Claim.hostStop : Prop :=
  ∀ (s : State) (h : HostPort) (w : Word), s.chip.TokenAt h w 3 →
    (s.chip.mayAct h (tokSlot w) true = true → (s.chip.task (tokSlot w)).phase ≠ .loading →
      Runs (.hostStop h) s fun t =>
        s.chip.Completed t.chip h w 0 0 ∧
        (s.chip.stoppable (tokSlot w) = true →
          t.chip.task (tokSlot w) = { s.chip.task (tokSlot w) with stopReq := some ((s.chip.task (tokSlot w)).stopReq.getD 0x18) }) ∧
        State.Frame ((Touch.token h).or { tasks := fun k => k = tokSlot w ∧ s.chip.stoppable k = true }) s t) ∧
    (∀ reason, s.chip.slotRefused h (tokSlot w) true reason →
      Runs (.hostStop h) s fun t => s.chip.Completed t.chip h w 1 reason ∧ State.Frame (Touch.token h) s t)

/-- HOST_SAVE by the slot's owner: the task's context stands in host memory at BLOCK, its registers, tiles, galleries, pairs and waiting accesses
in it, and the task is as before; a slot of another port is refused with 0x09, one that still loads with 0x06 (R233, R395, R396). -/
def Claim.hostSave : Prop :=
  ∀ (s : State) (h : HostPort) (w : Word), s.chip.TokenAt h w 4 →
    (s.chip.mayAct h (tokSlot w) false = true → (s.chip.task (tokSlot w)).phase ≠ .loading →
      Runs (.hostSave h) s fun t =>
        let k := tokSlot w
        (∃ x, NMap.find t.chip.contexts (s.chip.blockKey h w) = some x ∧ x.task = s.chip.task k ∧
          (∀ a ∈ s.chip.taskRegs k, (a, s.chip.rd a) ∈ x.regs) ∧ x.cat = s.chip.taskTiles k ∧
          (∀ q ∈ (s.chip.task k).gals, (galKey q.1 q.2, s.chip.gal q.1 (s.chip.served q.1 q.2)) ∈ x.gals) ∧
          (∀ q ∈ s.chip.pairs, q.2.task = some k → q ∈ x.pairs) ∧
          (∀ y ∈ s.chip.waits ++ s.chip.resends, y.task = some k → y ∈ x.waits)) ∧
        s.chip.Completed t.chip h w 0 0 ∧ State.Frame ((Touch.token h).or { parts := [.contexts] }) s t) ∧
    (∀ reason, s.chip.slotRefused h (tokSlot w) false reason →
      Runs (.hostSave h) s fun t => s.chip.Completed t.chip h w 1 reason ∧ State.Frame (Touch.token h) s t)

/-- HOST_RESTORE of a context into a slot with no owner where it fits and passes its image's checks: the slot holds the task for the port, its
registers and tiles as they were, and with no access of it waiting the task as it was. One that does not is refused with its reason; a slot that has
an owner with 0x06 to that owner and 0x09 to the other port (R233, R395, R396; log 36). -/
def Claim.hostRestore : Prop :=
  ∀ (s : State) (h : HostPort) (w : Word), s.chip.TokenAt h w 5 →
    (∀ x, (s.chip.task (tokSlot w)).owner = none → NMap.find s.chip.contexts (s.chip.blockKey h w) = some x →
      (s.chip.restoreReason (tokSlot w) x = 0 →
        Runs (.hostRestore h) s fun t =>
          (t.chip.task (tokSlot w)).img = x.task.img ∧ (t.chip.task (tokSlot w)).owner = some h ∧ s.chip.TakenAt t.chip (48 + portIx h) ∧
          ((∀ p ∈ x.regs, 0x1100 ≤ p.1) → State.Frame Touch.units s t) ∧
          (x.waits = [] → t.chip.task (tokSlot w) = { x.task with owner := some h } ∧ s.chip.Completed t.chip h w 0 0 ∧
            (∀ p ∈ x.cat, (∀ q ∈ x.cat, q.1 = p.1 → q = p) → t.chip.cate p.1 = { p.2 with task := tokSlot w }) ∧
            ∀ p ∈ x.regs, (∀ q ∈ x.regs, q.1 = p.1 → q = p) → p.1 ≠ Reg.hostMsixArm 0 ∧ p.1 ≠ Reg.hostMsixArm 1 → t.chip.rd p.1 = p.2)) ∧
      (∀ reason, reason ≠ 0 → s.chip.restoreReason (tokSlot w) x = reason →
        Runs (.hostRestore h) s fun t => s.chip.Completed t.chip h w 1 reason ∧ State.Frame (Touch.token h) s t)) ∧
    (∀ o, (s.chip.task (tokSlot w)).owner = some o →
      Runs (.hostRestore h) s fun t => s.chip.Completed t.chip h w 1 (if o = h then 0x06 else 0x09) ∧ State.Frame (Touch.token h) s t)

/-- HOST_RESTORE of an address at which nothing was saved stops, since R400 calls the results of a host's wrong context unpredictable and gives no effect. -/
def Claim.hostRestoreStops : Prop :=
  ∀ (s : State) (h : HostPort) (w : Word), s.chip.TokenAt h w 5 → (s.chip.task (tokSlot w)).owner = none →
    NMap.find s.chip.contexts (s.chip.blockKey h w) = none →
    exec (.hostRestore h) s = .fault (.hostUnpredictable (tokBlock w * 4096))

/-- HOST_NOP: the token is completed, and nothing else changes (R395). A token with a reserved OP or bit completes with STATUS 2, whichever
operation takes it (R396). -/
def Claim.hostNop : Prop :=
  (∀ (s : State) (h : HostPort) (w : Word), s.chip.TokenAt h w 6 →
    Runs (.hostNop h) s fun t => s.chip.Completed t.chip h w 0 0 ∧ State.Frame (Touch.token h) s t) ∧
  (∀ (s : State) (h : HostPort) (w : Word) (i : Instr), s.chip.up = true → s.chip.putWaits 50 = false → s.chip.putWaits 51 = false →
    (s.chip.queue (48 + portIx h)).head? = some w → (s.chip.queue (48 + portIx h)).length ≤ 256 → tokBad w = true →
    ((i = .hostNop h ∧ (tokOp w = 0 ∨ 6 ≤ tokOp w)) ∨ (tokOp w = 1 ∧ ∃ im, i = .hostLoad h im) ∨ (tokOp w = 2 ∧ i = .hostUnload h) ∨
      (tokOp w = 3 ∧ i = .hostStop h) ∨ (tokOp w = 4 ∧ i = .hostSave h) ∨ (tokOp w = 5 ∧ i = .hostRestore h)) →
    Runs i s fun t => s.chip.Completed t.chip h w 2 0 ∧ State.Frame (Touch.token h) s t)

/-- COMPLETION_WRITE with the ring on and room: a stop event that the port's reset kept, else its queue's oldest token, stands at CQ_TAIL with its
PHASE, 1 on even passes, and the tail moves on; a put that waited for the queue enters (R232, R397, R404). -/
def Claim.completionWrite : Prop :=
  ∀ (s : State) (h : HostPort) (l tail : Nat) (tok : Word), (s.chip.host (portIx h)).link = true →
    s.chip.fld (Reg.hostCqLen (portIx h)) 3 0 = l → 4 ≤ l → l ≤ 12 → s.chip.rdN (Reg.hostCqTail (portIx h)) = tail → tail < 2 ^ 32 →
    serialDist 32 tail (s.chip.rdN (Reg.hostCqHead (portIx h))) < 2 ^ l → (s.chip.queue (50 + portIx h)).length ≤ 256 →
    ((s.chip.host (portIx h)).events ++ s.chip.queue (50 + portIx h)).head? = some tok →
    Runs (.completionWrite h) s fun t =>
      ((s.chip.host (portIx h)).events ≠ [] →
        (t.chip.host (portIx h)).events = (s.chip.host (portIx h)).events.tail ∧ t.chip.queue (50 + portIx h) = s.chip.queue (50 + portIx h)) ∧
      ((s.chip.host (portIx h)).events = [] → s.chip.TakenAt t.chip (50 + portIx h) ∧ (t.chip.host (portIx h)).events = []) ∧
      t.chip.rdN (Reg.hostCqTail (portIx h)) = (tail + 1) % 2 ^ 32 ∧
      (∀ i < 8, t.chip.hostByteAt (portIx h) (s.chip.fld (Reg.hostCqBase (portIx h)) 63 6 * 64 + 8 * (tail % 2 ^ l) + i) =
        nth 0 (leBytes 8 (setBits tok.toNat 24 24 (1 - tail / 2 ^ l % 2))) i) ∧
      State.Frame { regs := fields [(Reg.hostCqTail (portIx h), 63, 0)], queues := only [50 + portIx h], hosts := only [portIx h],
                    parts := [.hostMem, .putWait] } s t

/-- CQ_HEAD_WRITE: CQ_HEAD takes the value (R397, R406). -/
def Claim.cqHeadWrite : Prop :=
  ∀ (s : State) (h : HostPort) (v : Word), s.chip.up = true →
    Runs (.cqHeadWrite h v) s fun t =>
      t.chip.fld (Reg.hostCqHead (portIx h)) 31 0 = wbits v 31 0 ∧ State.Frame { regs := fields [(Reg.hostCqHead (portIx h), 31, 0)] } s t

/-- MSIX_ARM_WRITE: the vectors written as 1 are armed; one whose source is 1 sends its message at once and is disarmed, and a masked one
becomes pending instead (R402, R407). -/
def Claim.msixArmWrite : Prop :=
  ∀ (s : State) (w : Writer) (h : HostPort) (v : Word), s.chip.up = true → s.chip.mayWrite w (Reg.hostMsixArm (portIx h)) = true →
    Runs (.msixArmWrite w h v) s fun t =>
      (∀ k < 24, t.chip.flag (Reg.hostMsixArm (portIx h)) k =
        ((s.chip.flag (Reg.hostMsixArm (portIx h)) k || v.getLsbD k) && !s.chip.vectorSource s.chip.summaryBits (portIx h) k)) ∧
      (∀ k < 24, (s.chip.flag (Reg.hostMsixArm (portIx h)) k || v.getLsbD k) = true → s.chip.vectorSource s.chip.summaryBits (portIx h) k = true →
        if (s.chip.host (portIx h)).mask.getLsbD k = true then (t.chip.host (portIx h)).pba.getLsbD k = true
        else NMap.get (fun _ => 0) (t.chip.host (portIx h)).sent k = NMap.get (fun _ => 0) (s.chip.host (portIx h)).sent k + 1) ∧
      State.Frame {} s t

/-- The next part of a reply enters a port's mailbox, with FULL, where none stands there; else everything stays (R403, R433). -/
def Chip.nextPart (c d : Chip) (h : HostPort) (full : Bool) : Prop :=
  match full, (c.host (portIx h)).replies with
  | false, m :: ms => d.flag (Reg.hostMbox (portIx h)) 1 = true ∧ (d.host (portIx h)).p2h = m ∧ (d.host (portIx h)).replies = ms
  | _, _ => d.flag (Reg.hostMbox (portIx h)) 1 = full ∧ (d.host (portIx h)).bare = (c.host (portIx h)).bare

/-- H2P_GO_WRITE and P2H_FULL_CLEAR of a part that is up or in recovery: GO is set by a 1; FULL is cleared by a 1, and the next reply part follows
if one waits (R403, R433). -/
def Claim.mailboxWrites : Prop :=
  ∀ (s : State) (h : HostPort) (v : Word), s.chip.up = true ∨ s.chip.boot.phase = .recovery →
    (Runs (.h2pGoWrite h v) s fun t =>
      t.chip.flag (Reg.hostMbox (portIx h)) 0 = (s.chip.flag (Reg.hostMbox (portIx h)) 0 || v.getLsbD 0) ∧
      s.chip.nextPart t.chip h (s.chip.flag (Reg.hostMbox (portIx h)) 1) ∧
      State.Frame { regs := fields [(Reg.hostMbox (portIx h), 1, 0)], hosts := only [portIx h] } s t) ∧
    (Runs (.p2hFullClear h v) s fun t =>
      s.chip.nextPart t.chip h (s.chip.flag (Reg.hostMbox (portIx h)) 1 && !v.getLsbD 1) ∧
      State.Frame { regs := fields [(Reg.hostMbox (portIx h), 1, 1)], hosts := only [portIx h] } s t)

/-- PRIMARY_WRITE: the role is PRIMARY's port's at once, and IS_PRIMARY of each port shows it (R393, R405, R408). -/
def Claim.primaryWrite : Prop :=
  ∀ (s : State) (w : Writer) (v : Word), s.chip.up = true → s.chip.mayWrite w Reg.hostCfg = true →
    Runs (.primaryWrite w v) s fun t =>
      t.chip.primary = (if v.getLsbD 0 then .B else .A) ∧ t.chip.fld Reg.hostCfg 31 16 = wbits v 31 16 ∧
      t.chip.flag (Reg.hostStatus 0) 9 = !v.getLsbD 0 ∧ t.chip.flag (Reg.hostStatus 1) 9 = v.getLsbD 0 ∧
      State.Frame { regs := fields [(Reg.hostCfg, 0, 0), (Reg.hostCfg, 31, 16), (Reg.hostCfg, 32, 32), (Reg.hostStatus 0, 9, 9),
                                    (Reg.hostStatus 1, 9, 9)] } s t

/-- FAILOVER with FAILOVER not 0 while the primary's link is down: the other port is primary, and FAILOVER_EV is set (R393, R408). -/
def Claim.failover : Prop :=
  ∀ (s : State), s.chip.up = true → s.chip.fld Reg.hostCfg 31 16 ≠ 0 → (s.chip.host (portIx s.chip.primary)).link = false →
    Runs .failover s fun t =>
      t.chip.primary = otherPort s.chip.primary ∧ t.chip.flag Reg.hostCfg 32 = true ∧
      State.Frame { regs := fields [(Reg.hostCfg, 0, 0), (Reg.hostCfg, 32, 32), (Reg.hostStatus 0, 9, 9), (Reg.hostStatus 1, 9, 9),
                                    (Reg.hostCfgCtr, 47, 0)] } s t

/-- What a reset or loss of a port may touch: its block, its queues, its host state, and the tasks that stop. -/
def Touch.port (h : HostPort) : Touch :=
  { regs := fun a _ => 0x6000 + portIx h * 0x100 ≤ a ∧ a < 0x6100 + portIx h * 0x100, queues := only [48 + portIx h, 50 + portIx h],
    hosts := only [portIx h], tasks := always, parts := [.putWait] }

/-- A port after its reset or loss: both queues empty, its ring registers, arming and mailbox flags zero, LINK_DOWN set. A load of its own ends, and
each task that it owns, or whose plan or transfers use its window, is to stop with 0x17 where it can; every other is as it was (R404). -/
structure Chip.PortCleared (c d : Chip) (h : HostPort) : Prop where
  sub   : d.queue (48 + portIx h) = []
  comp  : d.queue (50 + portIx h) = []
  ring  : d.rd (Reg.hostCqBase (portIx h)) = 0 ∧ d.rd (Reg.hostCqLen (portIx h)) = 0 ∧ d.rd (Reg.hostCqHead (portIx h)) = 0 ∧
    d.rd (Reg.hostCqTail (portIx h)) = 0 ∧ d.rd (Reg.hostMsixArm (portIx h)) = 0 ∧ d.rd (Reg.hostMbox (portIx h)) = 0
  flag  : d.flag (Reg.hostStatus (portIx h)) 19 = true
  boxes : (d.host (portIx h)).h2p = [] ∧ (d.host (portIx h)).p2h = [] ∧ (d.host (portIx h)).replies = [] ∧ (d.host (portIx h)).table = []
  loads : ∀ k, (c.task k).phase = .loading → (c.task k).owner = some h → d.task k = TaskSt.reset
  stops : ∀ k, c.stoppable k = true → ((c.task k).owner = some h ∨ c.usesWindow k (portIx h) = true) →
    d.task k = { c.task k with stopReq := some ((c.task k).stopReq.getD 0x17) }
  other : ∀ k, (c.task k).owner ≠ some h → c.usesWindow k (portIx h) = false → d.task k = c.task k

/-- PORT_RESET and LINK_LOSS of a part that is up or in recovery (R404): the port is cleared; all but a Function Level Reset take its link down,
and in recovery a port whose link goes down loses its staging session (R430). -/
def Claim.portReset : Prop :=
  ∀ (s : State) (h : HostPort) (down : Bool) (i : Instr), s.chip.up = true ∨ s.chip.boot.phase = .recovery →
    ((∃ k, i = .portReset h k ∧ down = decide (k ≠ .flr)) ∨ (i = .linkLoss h ∧ down = true)) →
    Runs i s fun t =>
      s.chip.PortCleared t.chip h ∧ (t.chip.host (portIx h)).link = ((s.chip.host (portIx h)).link && !down) ∧
      (down = true → t.chip.fld (Reg.hostStatus (portIx h)) 8 0 = 0) ∧
      (s.chip.up = true ∨ down = false ∨ s.chip.boot.stageOwner ≠ some (.host h) → State.Frame (Touch.port h) s t) ∧
      (s.chip.boot.phase = .recovery → down = true → s.chip.boot.stageOwner = some (.host h) →
        t.chip.boot = { s.chip.boot with stageOwner := none, stageOpen := false, erasing := none }) ∧
      State.Frame ((Touch.port h).or { parts := [.boot] }) s t

/-- APERTURE_ACCESS of a range that a host may reach: a read returns its bytes as a read delivers them, a write stores its bytes; the tags are
neither tested nor changed (R401). An access past the BAR, of no bytes, or of a port that is down changes nothing (log 99). A range of which
some line is not such stops: R25 and R401 give its results no effect. -/
def Claim.apertureAccess : Prop :=
  ∀ (s : State) (h : HostPort) (off n a : Nat) (wd : Option (List Byte)), s.chip.up = true → a = s.chip.apertureAddr (portIx h) off →
    (∀ d, wd = some d → d.length = n) →
    ((s.chip.host (portIx h)).link = false ∨ n = 0 ∨ 2 ^ 36 < off + n →
      Runs (.apertureAccess h off n wd) s fun t => State.Frame {} s t) ∧
    ((s.chip.host (portIx h)).link = true → 0 < n → off + n ≤ 2 ^ 36 →
      (s.chip.apertureRange a n = false → exec (.apertureAccess h off n wd) s = .fault (.hostUnpredictable a)) ∧
      (s.chip.apertureRange a n = true → wd = none → Runs (.apertureAccess h off n wd) s fun t =>
        t.chip.busBytes = (s.chip.fetch a n).2.1 ∧ State.Frame (Touch.units.or { parts := [.busBytes] }) s t ∧
        (∀ k, t.chip.isFull k = s.chip.isFull k) ∧
        (s.chip.good → (∀ i < n, s.chip.home (a + i) = a + i) →
          t.chip.busBytes = s.chip.bytes a n ∧ State.Frame { parts := [.busBytes] } s t)) ∧
      (∀ d, s.chip.apertureRange a n = true → wd = some d → Runs (.apertureAccess h off n wd) s fun t =>
        (∀ i < n, s.chip.takesStore (s.chip.home (a + i)) → (∀ j < n, j ≠ i → s.chip.home (a + j) ≠ s.chip.home (a + i)) → t.chip.byte (s.chip.home (a + i)) = nth 0 d i) ∧
        (∀ k, t.chip.isFull k = s.chip.isFull k) ∧ State.Frame Touch.units s t ∧
        ((∀ i < n, s.chip.home (a + i) = a + i ∧ s.chip.takesStore (a + i) ∧ s.chip.unwatched (a + i)) →
          t.chip.bytes a n = d ∧ State.Frame { mem := span a n, par := fun k => a / 4 ≤ k ∧ k ≤ (a + n - 1) / 4 } s t)))

/-- PCIE_COMPLETION_ERROR: CPL_ERR of the port is set, the task that consumes the data is to stop with 0x12, and the words of a store that a
read's data go to are marked as poisoned (R367, R400, R405; what the data are is free, log 124). -/
def Claim.pcieCompletionError : Prop :=
  ∀ (s : State) (h : HostPort) (k : Option Slot) (dst len : Nat), s.chip.up = true →
    Runs (.pcieCompletionError h k dst len) s fun t =>
      let i := portIx h
      let ctr := if i = 0 then Reg.hostCtr0 1 else Reg.hostCtr1 1
      t.chip.flag (Reg.hostStatus i) 17 = true ∧ t.chip.fld ctr 47 0 = (s.chip.fld ctr 47 0 + 1) % 2 ^ 48 ∧
      (∀ v, k = some v → s.chip.stoppable v = true → (t.chip.task v).stopReq = some ((s.chip.task v).stopReq.getD 0x12)) ∧
      (∀ j < len, (s.chip.region (s.chip.home (dst + j))).isStore = true → s.chip.pairs = [] → t.chip.parAt (s.chip.home (dst + j)) = 2) ∧
      State.Frame Touch.units s t ∧
      (len = 0 → State.Frame { regs := fields [(Reg.hostStatus i, 17, 17), (ctr, 47, 0)],
                               tasks := fun v => (k.map Fin.val) = some v ∧ s.chip.stoppable v = true } s t)

/-- PCIE_LINK_UP: the port's status shows speed, width and mode, and SLOW is set below 64 GT/s or ×8 (R390, R405). -/
def Claim.pcieLinkUp : Prop :=
  ∀ (s : State) (h : HostPort) (speed : Fin 7) (width : Nat) (flit : Bool), s.chip.up = true ∨ s.chip.boot.phase = .recovery →
    1 ≤ speed.val → width ∈ [1, 2, 4, 8] →
    Runs (.pcieLinkUp h speed width flit) s fun t =>
      t.chip.flag (Reg.hostStatus (portIx h)) 0 = true ∧ t.chip.fld (Reg.hostStatus (portIx h)) 3 1 = speed ∧
      t.chip.fld (Reg.hostStatus (portIx h)) 7 4 = width ∧ t.chip.flag (Reg.hostStatus (portIx h)) 8 = flit ∧
      (t.chip.host (portIx h)).link = true ∧
      t.chip.flag (Reg.hostStatus (portIx h)) 16 = (s.chip.flag (Reg.hostStatus (portIx h)) 16 || decide (speed.val < 6 ∨ width < 8)) ∧
      State.Frame { regs := fields [(Reg.hostStatus (portIx h), 8, 0), (Reg.hostStatus (portIx h), 16, 16),
                                    (if portIx h = 0 then Reg.hostCtr0 0 else Reg.hostCtr1 0, 47, 0)], hosts := only [portIx h] } s t

/-- The flags that a 1 clears, register by register, of the part, of wing n, its array and port a, and its gallery g (R9, R11). -/
def clearedByOne (n g a : Nat) : List (Nat × Nat × Nat) :=
  [(Reg.tickStatus, 4, 0), (Reg.linkStatus, 3, 0), (Reg.stepStatus, 5, 0), (Reg.fltStatus, 1, 0), (Reg.ledgerQStatus, 0, 0),
   (Reg.memStatus n, 5, 0), (Reg.consStatus n, 5, 0), (Reg.convStatus n, 1, 0), (Reg.bxEvents n a, 6, 0), (Reg.mxStatus n a, 1, 0),
   (Reg.wingFlt n, 1, 0), (Reg.wingFlt n, 3, 3), (Reg.ledgerStatus n, 5, 0), (Reg.dmaStatus n, 0, 0), (Reg.vecStatus n, 6, 0), (Reg.galFlt n g, 4, 0),
   (Reg.cmdStatus n g, 9, 8), (Reg.docFault n g, 0, 0)]

/-- REGISTER_WRITE: one that is not 8 aligned bytes, or at an offset with no register, changes nothing; one of the three levels of
interrupt mask takes the bits of its field; one of a status register clears the flags written as 1 and counts nothing; one by a port that may not
write the register sets PRIV_DROP in its own status (R7 to R11, R383 to R388, R394). -/
def Claim.registerWrite : Prop :=
  ∀ (s : State) (w : Writer) (a : Nat) (v : Word), s.chip.up = true → a < 0x10000000 →
    (∀ size, size ≠ 8 ∨ a % 8 ≠ 0 → Runs (.registerWrite w a size v) s fun t => State.Frame {} s t) ∧
    (a % 8 = 0 → regDefAt a = none → s.chip.mayWrite w a = true → Runs (.registerWrite w a 8 v) s fun t => State.Frame {} s t) ∧
    (s.chip.mayWrite w a = true → a = Reg.irqMask →
      Runs (.registerWrite w a 8 v) s fun t => t.chip.fld a 20 0 = wbits v 20 0 ∧ State.Frame { regs := fields [(a, 20, 0)] } s t) ∧
    (∀ n < 16, s.chip.mayWrite w a = true → a = Reg.wingMask n →
      Runs (.registerWrite w a 8 v) s fun t => t.chip.fld a 25 0 = wbits v 25 0 ∧ State.Frame { regs := fields [(a, 25, 0)] } s t) ∧
    (∀ n g, n < 16 → g < 300 → s.chip.mayWrite w a = true → a = Reg.galMask n g →
      Runs (.registerWrite w a 8 v) s fun t => t.chip.fld a 6 0 = wbits v 6 0 ∧ State.Frame { regs := fields [(a, 6, 0)] } s t) ∧
    (∀ n g x, n < 16 → g < 300 → x < 2 → ∀ f ∈ clearedByOne n g x, f.1 = a → s.chip.mayWrite w a = true →
      Runs (.registerWrite w a 8 v) s fun t =>
        (∀ i, f.2.2 ≤ i → i ≤ f.2.1 → t.chip.flag a i = (s.chip.flag a i && !v.getLsbD i)) ∧ State.Frame { regs := fun r _ => r = a } s t) ∧
    (∀ h, a % 8 = 0 → w = .host h → s.chip.mayWrite w a = false →
      Runs (.registerWrite w a 8 v) s fun t =>
        t.chip.flag (Reg.hostStatus (portIx h)) 18 = true ∧
        State.Frame { regs := fields [(Reg.hostStatus (portIx h), 18, 18), (if portIx h = 0 then Reg.hostCtr0 2 else Reg.hostCtr1 2, 47, 0)] } s t)

/-! ### Start-up, update and identity (R409 to R439, R445) -/

/-- Accession may run: the part is in reset or starts again at step 2, and no launched set hangs (R414, R426; log 42). -/
def Chip.mayAccede (c : Chip) : Prop := (c.boot.phase = .inReset ∨ c.boot.phase = .starting) ∧ c.boot.wdog = false

/-- A strap bit as accession sees it: from reset, 1 where all its samples read 1; from step 2, as it was latched (R409). -/
def Chip.strapSeen (c : Chip) (samples : List (BitVec 8)) (i : Nat) : Bool :=
  if c.boot.phase = .inReset then samples.all fun x => x.getLsbD i else c.flag Reg.bootStrap i

/-- Accession up to its fourth step (R409, R414, R419, R431). -/
def Chip.toLaunch (c : Chip) (samples : List (BitVec 8)) (puf : Option (List Byte)) (u : BringUp) : Chip :=
  let c := c.modBoot fun b => b.spoil u
  (((if c.boot.phase = .inReset then (c.latchStraps samples).atStep 1 else c).atStep 3).identify puf).atStep 4

/-- The order in which the boot ROM tries the banks (R426). -/
def Boot.bankOrder (b : Boot) : List Nat :=
  match b.record with
  | none => [0, 1]
  | some (_, r) => if r.pending = true ∧ 0 < r.tries then [r.pbank, r.active] else [r.active, 1 - r.active]

/-- The registers that accession up to the launch may change. -/
def launchRegs (a i : Nat) : Prop :=
  fields [(Reg.bootStrap, 7, 0), (Reg.bootStatus, 63, 0), (Reg.bootImage, 63, 0), (Reg.bootCtr 1, 47, 0)] a i ∨
    ∃ k < 4, a = Reg.bootIdent k ∨ a = Reg.bootManifest k

/-- What accession may touch: every register, and what the restored fences, the annex clears and a bad slice's fault touch. -/
def Touch.accession : Touch := { Touch.units with regs := fun _ => always, parts := Touch.units.parts ++ [.boot, .tick] }

/-- ACCESSION with the recovery strap, or with no bank of the order that passes, enters recovery mode at step 4; the straps are those of which all
samples read 1, and IDENT_FAIL is set where the PUF array gives no seed (R409, R426, R428, R432). -/
def Claim.accessionRecovery : Prop :=
  ∀ (s : State) (samples : List (BitVec 8)) (puf : Option (List Byte)) (hang : Option Nat) (u : BringUp), s.chip.mayAccede →
    (s.chip.strapSeen samples 1 = true ∨ ∀ k ∈ s.chip.boot.bankOrder, (s.chip.boot.spoil u).bankOk k = false) →
    Runs (.accession samples puf hang u) s fun t =>
      t.chip.boot.phase = .recovery ∧ t.chip.flag Reg.bootStatus 5 = true ∧ t.chip.fld Reg.bootStatus 3 0 = 4 ∧
      (∀ i < 8, t.chip.flag Reg.bootStrap i = s.chip.strapSeen samples i) ∧
      (t.chip.flag Reg.bootStatus 7 = (s.chip.flag Reg.bootStatus 7 || puf.isNone)) ∧
      (s.chip.strapSeen samples 1 = true → t.chip.boot.flash = s.chip.boot.flash) ∧
      (∀ a, 0x20000 ≤ a → t.chip.boot.flashByte a = s.chip.boot.flashByte a) ∧
      State.Frame { regs := fun a i => fields [(Reg.bootStrap, 7, 0), (Reg.bootStatus, 9, 0)] a i ∨ ∃ k < 4, a = Reg.bootIdent k,
                    parts := [.boot] } s t

/-- ACCESSION launches the first bank of R426's order that passes: it shows as BANK, with its SVN and its manifest's digest, and FALLBACK is set where
it is not the first of the order; a try of a pending bank is taken off the record before the check (R424, R426, R436, R437). -/
def Claim.accessionBank : Prop :=
  ∀ (s : State) (samples : List (BitVec 8)) (puf : Option (List Byte)) (hang : Option Nat) (u : BringUp) (k : Nat), s.chip.mayAccede →
    s.chip.strapSeen samples 1 = false → s.chip.boot.bankOrder.find? (s.chip.boot.spoil u).bankOk = some k →
    Runs (.accession samples puf hang u) s fun t =>
      t.chip.flag Reg.bootStatus 8 = decide (k = 1) ∧
      t.chip.flag Reg.bootStatus 17 = (s.chip.flag Reg.bootStatus 17 || decide (s.chip.boot.bankOrder.head? ≠ some k)) ∧
      t.chip.fld Reg.bootImage 31 0 = s.chip.boot.svn k ∧
      (∀ j < 4, t.chip.rd (Reg.bootManifest j) = w64 (ofLeBytes (((shake256 32 (s.chip.boot.manifest k)).drop (8 * j)).take 8))) ∧
      (∀ i r, s.chip.boot.record = some (i, r) → r.pending = true → t.chip.boot.phase ≠ .up →
        ∃ j q, t.chip.boot.recCopy j = some q ∧ q.active = r.active ∧
          if 0 < r.tries then q.pending = true ∧ q.tries = r.tries - 1 ∧ q.pbank = r.pbank else q.pending = false) ∧
      State.Frame Touch.accession s t

/-- ACCESSION whose launched set configures itself and does not hang (R393, R411, R414, R426, R442): the part is up with DONE at step 12, every wing in
rest, the record accepted with ACTIVE the launched bank, the floor at least its SVN and BOOTS one higher, the primary role in force, the master
listening; every vitrine is swept, with trims and coefficients of a new draw, and each slice that fails is reported (R118 to R120). -/
def Claim.accession : Prop :=
  ∀ (s : State) (samples : List (BitVec 8)) (puf : Option (List Byte)) (hang : Option Nat) (u : BringUp) (d e : Chip), s.chip.mayAccede →
    (∀ k, hang = some k → k < 5 ∨ 10 < k) → (s.chip.toLaunch samples puf u).launch = (d, true) → d.configure = .ok e →
    Runs (.accession samples puf hang u) s fun t =>
      t.chip.boot.phase = .up ∧ t.chip.boot.wdog = false ∧ t.chip.flag Reg.bootStatus 4 = true ∧ t.chip.fld Reg.bootStatus 3 0 = 12 ∧
      (∀ n < 16, t.chip.wingState n = 3) ∧ t.chip.flag Reg.tickCtrl 0 = t.chip.flag Reg.bootStrap 0 ∧
      t.chip.tick.listening = t.chip.flag Reg.bootStrap 0 ∧ t.chip.tick.curPeriod = t.chip.fld Reg.tickPeriod 7 0 ∧
      (t.chip.flag (Reg.hostStatus 0) 9 = !t.chip.flag Reg.hostCfg 0) ∧ (t.chip.flag (Reg.hostStatus 1) 9 = t.chip.flag Reg.hostCfg 0) ∧
      (∃ j q, t.chip.boot.recCopy j = some q ∧ q.active = t.chip.fld Reg.bootStatus 8 8 ∧ q.pending = false) ∧
      t.chip.fld Reg.bootImage 31 0 ≤ t.chip.fld Reg.bootFloor 31 0 ∧
      t.chip.fld Reg.bootFloor 63 32 = (e.restoreStep.fld Reg.bootFloor 63 32 + 1) % 2 ^ 32 ∧
      t.chip.boot.conv = s.chip.free + 1 ∧
      (∀ q ∈ u.slices, ((t.chip.gal q.1 q.2.1).vit q.2.2.1).stale = true ∧ t.chip.flag (Reg.galFlt q.1 q.2.1) 2 = true ∧
        t.chip.flag (Reg.convStatus q.1) 0 = true) ∧
      State.Frame Touch.accession s t

/-- ACCESSION of a launched set that comes up puts back what the part keeps: each kept field of a register, from the newest copy whose record of it
passes (R6, R418, R419); and where some record passes nowhere, or no copy is held, RET_FAIL is set and that field alone stays as configured. -/
def Claim.accessionRestore : Prop :=
  ∀ (s : State) (samples : List (BitVec 8)) (puf : Option (List Byte)) (u : BringUp) (d e : Chip), s.chip.mayAccede →
    (s.chip.toLaunch samples puf u).launch = (d, true) → d.configure = .ok e → u.slices = [] →
    Runs (.accession samples puf none u) s fun t =>
      (∀ a x, a ≠ Reg.bootFloor → (∀ n < 16, a ≠ Reg.memTrain n) → regDefAt a = some x →
        match (s.chip.boot.spoil u).copyOf (.reg a) with
        | some r => t.chip.rd a &&& w64 x.kept = NMap.get regReset r.regs a &&& w64 x.kept
        | none => t.chip.rd a &&& w64 x.kept = e.rd a &&& w64 x.kept) ∧
      ((s.chip.boot.spoil u).copies = [] → t.chip.flag Reg.bootStatus 16 = true) ∧
      (∀ x ∈ (s.chip.boot.spoil u).copies.flatMap Retained.bad, (s.chip.boot.spoil u).copyOf x = none → t.chip.flag Reg.bootStatus 16 = true)

/-- ACCESSION whose profile fails a check ends in recovery mode at step 6 with CFG_ERR, and ERR_INFO names the entry that fails, if one does
(R417, R428). -/
def Claim.accessionConfig : Prop :=
  ∀ (s : State) (samples : List (BitVec 8)) (puf : Option (List Byte)) (hang : Option Nat) (u : BringUp) (d : Chip) (i : Option Nat),
    s.chip.mayAccede → hang ≠ some 5 → hang ≠ some 6 → (s.chip.toLaunch samples puf u).launch = (d, true) → d.configure = .error i →
    Runs (.accession samples puf hang u) s fun t =>
      t.chip.boot.phase = .recovery ∧ t.chip.boot.wdog = false ∧ t.chip.flag Reg.bootStatus 5 = true ∧ t.chip.flag Reg.bootStatus 6 = true ∧
      t.chip.fld Reg.bootStatus 3 0 = 6 ∧ (∀ k, i = some k → t.chip.fld Reg.bootStatus 63 32 = k % 2 ^ 32) ∧
      State.Frame { regs := launchRegs, parts := [.boot] } s t

/-- ACCESSION whose launched set hangs in one of steps 5 to 10 stays there, not up, with the accession watchdog running (R414, R426; log 43). -/
def Claim.accessionHangs : Prop :=
  ∀ (s : State) (samples : List (BitVec 8)) (puf : Option (List Byte)) (k : Nat) (u : BringUp) (d : Chip), s.chip.mayAccede → 5 ≤ k → k ≤ 10 →
    (s.chip.toLaunch samples puf u).launch = (d, true) → (k ≤ 6 ∨ ∃ e, d.configure = .ok e) →
    Runs (.accession samples puf (some k) u) s fun t =>
      t.chip.boot.phase = .starting ∧ t.chip.boot.wdog = true ∧ t.chip.fld Reg.bootStatus 3 0 = k ∧
      t.chip.flag Reg.bootStatus 4 = s.chip.flag Reg.bootStatus 4 ∧
      (k ≤ 6 → State.Frame { regs := launchRegs, parts := [.boot] } s t) ∧ State.Frame Touch.accession s t

/-- ACCESSION of a part that is up, in recovery or hung changes nothing (R414). -/
def Claim.accessionIdle : Prop :=
  ∀ (s : State) (samples : List (BitVec 8)) (puf : Option (List Byte)) (hang : Option Nat) (u : BringUp),
    s.chip.boot.phase = .up ∨ s.chip.boot.phase = .recovery ∨ s.chip.boot.wdog = true →
    Runs (.accession samples puf hang u) s fun t => State.Frame {} s t

/-- What a reset leaves: every register at its reset value but the latched straps and those of `keep`, no task, no command held, no tag, no
queue entry; flash, factory record and host memory as they were (R418, R420, R439; the stores as after power-on, log 39). -/
structure Chip.ResetTo (c d : Chip) (keep : Nat → Prop) : Prop where
  regs  : ∀ a, a ≠ Reg.bootStrap → ¬ keep a → d.rd a = regReset a
  strap : d.rd Reg.bootStrap = c.rd Reg.bootStrap
  gone  : d.tasks = [] ∧ d.gals = [] ∧ d.wings = [] ∧ d.queues = [] ∧ d.cat = [] ∧ d.full = [] ∧ d.par = [] ∧ d.pairs = [] ∧ d.waits = [] ∧
    d.resends = [] ∧ d.putWait = [] ∧ d.catLate = [] ∧ d.move = none ∧ d.recov = none ∧ d.haltDue = false ∧ d.tick = TickSt.reset ∧
    d.step = StepSt.reset ∧ d.census = []
  kept  : d.boot.flash = c.boot.flash ∧ d.boot.factory = c.boot.factory ∧ d.boot.page0 = c.boot.page0 ∧ d.boot.page1 = c.boot.page1 ∧
    d.boot.uartOut = c.boot.uartOut ∧ d.hostMem = c.hostMem ∧ d.contexts = c.contexts

/-- ACC_WDOG_EXPIRY while a launched set has not ended accession: the part has reset itself, and stands at step 2 with ACC_WDOG_EV (R426); with none
launched nothing changes. -/
def Claim.accWdogExpiry : Prop :=
  ∀ (s : State),
    Runs .accWdogExpiry s fun t =>
      (s.chip.boot.wdog = true →
        t.chip.boot.phase = .starting ∧ t.chip.boot.wdog = false ∧ t.chip.fld Reg.bootStatus 3 0 = 2 ∧ t.chip.flag Reg.bootStatus 18 = true ∧
        s.chip.ResetTo t.chip (fun a => a = Reg.bootStatus ∨ a = Reg.bootCtr 2) ∧ t.ts = s.ts ∧ t.pending = s.pending) ∧
      (s.chip.boot.wdog = false → State.Frame {} s t)

/-- RESET_ASSERT: the part is held in reset; the stacks keep their contents in self-refresh, and what R418 keeps stays in the always-on
domain where the part was up (R418, R439). -/
def Claim.resetAssert : Prop :=
  ∀ (s : State),
    Runs .resetAssert s fun t =>
      t.chip.boot.phase = .inReset ∧ s.chip.ResetTo t.chip (fun _ => False) ∧
      (∀ a < 0x10000000000, t.chip.byte a = s.chip.byte a) ∧ (∀ a, 0x10000000000 ≤ a → t.chip.byte a = memDefault a) ∧
      t.chip.recErr = s.chip.recErr ∧ t.chip.boot.aon = (if s.chip.boot.phase = .up then some s.chip.retained else s.chip.boot.aon) ∧
      t.ts = s.ts ∧ t.pending = s.pending

/-- POWER_LOSS: as a reset, with the stacks' contents lost, and the always-on domain's too where VDD_AON failed (R420, R439). -/
def Claim.powerLoss : Prop :=
  ∀ (s : State) (aon : Bool),
    Runs (.powerLoss aon) s fun t =>
      t.chip.boot.phase = .inReset ∧ s.chip.ResetTo t.chip (fun _ => False) ∧ (∀ a, t.chip.byte a = memDefault a) ∧ t.chip.recErr = [] ∧
      (aon = true → t.chip.boot.aon = none) ∧
      (aon = false → t.chip.boot.aon = (if s.chip.boot.phase = .up then some s.chip.retained else s.chip.boot.aon)) ∧
      t.ts = s.ts ∧ t.pending = s.pending

/-- A flash save has started, with the values `r`, and SAVING is set; or one that runs is to be followed by another (R420). -/
def Chip.SaveBegun (c d : Chip) (r : Retained) : Prop :=
  match c.boot.saving with
  | some _ => d.boot = { c.boot with saveAgain := true } ∧ d.flag Reg.bootRet 17 = c.flag Reg.bootRet 17
  | none => d.boot = { c.boot with saving := some r } ∧ d.flag Reg.bootRet 17 = true

/-- RSAVE_TIMER on a part that is up begins a flash save of the values retained at that moment (R420). -/
def Claim.rsaveTimer : Prop :=
  ∀ (s : State), s.chip.up = true →
    Runs .rsaveTimer s fun t => s.chip.SaveBegun t.chip s.chip.retained ∧ State.Frame { regs := fields [(Reg.bootRet, 17, 17)], parts := [.boot] } s t

/-- SAVE_NOW_WRITE: RSAVE and ACC_WDOG take their values, and with SAVE_NOW 1 a flash save of what the part then keeps starts (R420, R436). -/
def Claim.saveNowWrite : Prop :=
  ∀ (s : State) (w : Writer) (v : Word), s.chip.up = true → s.chip.mayWrite w Reg.bootRet = true →
    Runs (.saveNowWrite w v) s fun t =>
      t.chip.fld Reg.bootRet 15 0 = wbits v 15 0 ∧ t.chip.fld Reg.bootRet 31 20 = wbits v 31 20 ∧
      (if v.getLsbD 16 then
        (∃ r, s.chip.SaveBegun t.chip r ∧ r.fences = s.chip.retained.fences ∧ r.coefs = s.chip.retained.coefs ∧ r.ratios = s.chip.retained.ratios ∧
          r.trims = s.chip.retained.trims) ∧
        State.Frame { regs := fields [(Reg.bootRet, 15, 0), (Reg.bootRet, 17, 17), (Reg.bootRet, 31, 20)], parts := [.boot] } s t
      else State.Frame { regs := fields [(Reg.bootRet, 15, 0), (Reg.bootRet, 31, 20)] } s t)

/-- RETAINED_SAVE_DONE: a page holds the copy, with a SEQ above the other's, whose page stays; a second save follows where one was asked for; else SAVING
is clear, and a power-down notice that waits only for the copy is ready (R418, R420, R445). With no save in progress nothing changes. -/
def Claim.retainedSaveDone : Prop :=
  ∀ (s : State),
    Runs .retainedSaveDone s fun t =>
      (∀ r, s.chip.boot.saving = some r →
        ((∃ q, t.chip.boot.page0 = some { seq := q, body := r } ∧ t.chip.boot.page1 = s.chip.boot.page1 ∧
            ∀ p, s.chip.boot.page1 = some p → p.seq < q) ∨
         (∃ q, t.chip.boot.page1 = some { seq := q, body := r } ∧ t.chip.boot.page0 = s.chip.boot.page0 ∧
            ∀ p, s.chip.boot.page0 = some p → p.seq < q)) ∧
        t.chip.boot.saveAgain = false ∧ t.chip.flag Reg.bootRet 17 = s.chip.boot.saveAgain ∧ t.chip.boot.saving.isSome = s.chip.boot.saveAgain ∧
        (s.chip.boot.saveAgain = false → s.chip.boot.downWait = true → (s.chip.tasks.all fun p => p.2.stopReq.isNone) = true →
          t.chip.boot.downWait = false ∧ t.chip.flag Reg.pwrCtrl 1 = true) ∧
        (s.chip.boot.saveAgain = true ∨ s.chip.boot.downWait = false → State.Frame { regs := fields [(Reg.bootRet, 17, 17)], parts := [.boot] } s t)) ∧
      (s.chip.boot.saving = none → State.Frame {} s t) ∧
      State.Frame { regs := fields [(Reg.bootRet, 17, 17), (Reg.pwrCtrl, 1, 1)], parts := [.boot] } s t

/-- DOWN_NOTICE of 1 while DOWN_READY is 0: every task that can is to stop with 0x18, and a flash save starts, or follows the one that runs; a write of
0, or with DOWN_READY set, does nothing (R445). -/
def Claim.downNotice : Prop :=
  ∀ (s : State) (w : Writer) (v : Word), s.chip.up = true → s.chip.mayWrite w Reg.pwrCtrl = true →
    Runs (.downNotice w v) s fun t =>
      if v.getLsbD 0 = true ∧ s.chip.flag Reg.pwrCtrl 1 = false then
        (∀ k, s.chip.stoppable k = true → t.chip.task k = { s.chip.task k with stopReq := some ((s.chip.task k).stopReq.getD 0x18) }) ∧
        t.chip.boot.downWait = true ∧ t.chip.boot.saving.isSome = true ∧ (s.chip.boot.saving.isSome = true → t.chip.boot.saveAgain = true) ∧
        State.Frame { regs := fields [(Reg.bootRet, 17, 17)], tasks := fun k => s.chip.stoppable k = true, parts := [.boot] } s t
      else State.Frame {} s t

/-- Pendun serves a request of a source: of a port whose GO is set, and, where the request changes the part, the primary; or, in recovery, one that the
table of R433 marks (R403, R428, R433). -/
structure Chip.Serves (c : Chip) (src : MboxSrc) (changes inRecovery : Bool) : Prop where
  phase : c.up = true ∨ c.boot.phase = .recovery
  upOk  : c.up = true → changes = true → src = .host c.primary
  recOk : c.boot.phase = .recovery → inRecovery = true
  go    : ∀ h, src = .host h → c.flag (Reg.hostMbox (portIx h)) 0 = true

/-- The parts of an answer: they follow those that wait for the port's mailbox, of which the first enters it at once where none stands there; or all are
sent on the UART (R403, R429, R433). -/
def Chip.Answered (c d : Chip) (src : MboxSrc) (code : Nat) (bodies : List (List Byte)) : Prop :=
  let ms := bodies.zipIdx.map fun p => message code p.2 bodies.length p.1
  match src with
  | .host h =>
    let l := (c.host (portIx h)).replies ++ ms
    d.flag (Reg.hostMbox (portIx h)) 1 = true ∧
      if c.flag (Reg.hostMbox (portIx h)) 1 = true then (d.host (portIx h)).replies = l ∧ (d.host (portIx h)).p2h = (c.host (portIx h)).p2h
      else (d.host (portIx h)).p2h = l.headD [] ∧ (d.host (portIx h)).replies = l.tail
  | .uart => d.boot.uartOut = c.boot.uartOut ++ ms.flatMap uartFrameOf

/-- A port's request is taken: its GO is clear (R403). -/
def Chip.tookRequest (d : Chip) (src : MboxSrc) : Prop := ∀ h, src = .host h → d.flag (Reg.hostMbox (portIx h)) 0 = false

/-- A request is taken and answered. -/
def Chip.Replied (c d : Chip) (src : MboxSrc) (code : Nat) (bodies : List (List Byte)) : Prop := c.Answered d src code bodies ∧ d.tookRequest src

/-- What an answered request may touch beside its own effect. -/
def Touch.mbox : Touch :=
  { regs := fields [(Reg.hostMbox 0, 1, 0), (Reg.hostMbox 1, 1, 0)], hosts := always, parts := [.boot] }

/-- An answer that changes nothing else. -/
def Chip.OnlyReplied (c d : Chip) (src : MboxSrc) (code : Nat) (bodies : List (List Byte)) : Prop :=
  c.Replied d src code bodies ∧ d.boot = { c.boot with uartOut := d.boot.uartOut }

/-- Both copies of the record lie below the factory record; what lies above is as it was (R413). -/
def Chip.onlyRecord (c d : Chip) : Prop := ∀ a, 0x20000 ≤ a → d.boot.flashByte a = c.boot.flashByte a

/-- STAGE_OPEN: with a session of another source, or an erasure under way, it is refused with status 1; else the erasure of the inactive bank has
begun, staging is closed until it ends, and a record that was PENDING is so no longer (R425, R430; log 44). -/
def Claim.stageOpen : Prop :=
  ∀ (s : State) (src : MboxSrc), s.chip.Serves src true true →
    Runs (.stageOpen src) s fun t =>
      (if s.chip.sessionTaken src = true ∨ s.chip.boot.erasing.isSome = true then s.chip.OnlyReplied t.chip src 0x0100 [[1]]
       else
        t.chip.boot.erasing = some (src, t.chip.boot.inactive) ∧ t.chip.boot.stageOpen = false ∧ t.chip.tookRequest src ∧
        (s.chip.boot.phase = .recovery → t.chip.boot.stageOwner = some src) ∧ s.chip.onlyRecord t.chip ∧
        ((∀ p, s.chip.boot.record = some p → p.2.pending = false) → t.chip.boot.flash = s.chip.boot.flash) ∧
        (∀ p, s.chip.boot.record = some p → p.2.pending = true →
          ∃ j q, t.chip.boot.recCopy j = some q ∧ q.active = p.2.active ∧ q.pending = false)) ∧
      State.Frame (Touch.mbox.or { regs := fields [(Reg.bootStatus, 9, 9)] }) s t

/-- STAGE_ERASE_DONE: the bank reads 0xFF, staging is open at offset 0, and STAGE_OPEN is answered with status 0; with no erasure under way nothing
changes (R425). -/
def Claim.stageEraseDone : Prop :=
  ∀ (s : State),
    Runs .stageEraseDone s fun t =>
      (∀ src k, s.chip.boot.erasing = some (src, k) →
        t.chip.boot.erasing = none ∧ t.chip.boot.stageOpen = true ∧ t.chip.boot.stageNext = 0 ∧
        (∀ a, t.chip.boot.flashByte a = if bankBase k ≤ a ∧ a < bankBase k + bankBytes then 0xFF else s.chip.boot.flashByte a) ∧
        s.chip.Answered t.chip src 0x0100 [[0]] ∧ State.Frame Touch.mbox s t) ∧
      (s.chip.boot.erasing = none → State.Frame {} s t)

/-- STAGE_DATA in an open session at the next offset within the bank: the bank holds the data from there, and the offset moves on; at another
offset, or past the bank, it is refused with status 2, with none open with status 7, and in another source's session with status 1 (R425, R430, R433). -/
def Claim.stageData : Prop :=
  ∀ (s : State) (src : MboxSrc) (off : Nat) (data : List Byte), s.chip.Serves src true true →
    Runs (.stageData src off data) s fun t =>
      (if s.chip.sessionTaken src = true then s.chip.OnlyReplied t.chip src 0x0101 [[1]]
       else if s.chip.boot.stageOpen = false then s.chip.OnlyReplied t.chip src 0x0101 [[7]]
       else if off ≠ s.chip.boot.stageNext ∨ bankBytes < off + data.length then s.chip.OnlyReplied t.chip src 0x0101 [[2]]
       else
         s.chip.Replied t.chip src 0x0101 [[0]] ∧ t.chip.boot.stageNext = off + data.length ∧
         t.chip.boot.flashBytes (bankBase s.chip.boot.inactive + off) data.length = data ∧
         (∀ a, (a < bankBase s.chip.boot.inactive + off ∨ bankBase s.chip.boot.inactive + off + data.length ≤ a) →
           t.chip.boot.flashByte a = s.chip.boot.flashByte a)) ∧
      State.Frame Touch.mbox s t

/-- STAGE_COMMIT of an open session: while the part is up the record is PENDING and names the staged bank with one try, and staging is closed;
in recovery a bank that fails its check is refused with status 3, and one that passes resets the part; another source's session is refused with
status 1, and none open with status 7 (R425, R430). -/
def Claim.stageCommit : Prop :=
  ∀ (s : State) (src : MboxSrc), s.chip.Serves src true true →
    Runs (.stageCommit src) s fun t =>
      let committed := ∃ j q, t.chip.boot.recCopy j = some q ∧ q.pending = true ∧ q.pbank = s.chip.boot.inactive ∧ q.tries = 1
      if s.chip.sessionTaken src = true then s.chip.OnlyReplied t.chip src 0x0102 [[1]] ∧ State.Frame Touch.mbox s t
      else if s.chip.boot.stageOpen = false then s.chip.OnlyReplied t.chip src 0x0102 [[7]] ∧ State.Frame Touch.mbox s t
      else if s.chip.boot.phase ≠ .recovery then
        t.chip.boot.stageOpen = false ∧ s.chip.Replied t.chip src 0x0102 [[0]] ∧ s.chip.onlyRecord t.chip ∧ committed ∧
        State.Frame (Touch.mbox.or { regs := fields [(Reg.bootStatus, 9, 9)] }) s t
      else if s.chip.boot.bankOk s.chip.boot.inactive = false then
        s.chip.OnlyReplied t.chip src 0x0102 [[3]] ∧ State.Frame Touch.mbox s t
      else
        t.chip.boot.phase = .starting ∧ t.chip.fld Reg.bootStatus 3 0 = 2 ∧ t.chip.tasks = [] ∧ s.chip.onlyRecord t.chip ∧ committed ∧
        t.ts = s.ts ∧ t.pending = s.pending

/-- STAGE_ABORT: an open session, or an erasure under way, ends; with neither it is refused with status 7, and another source's session with status 1
(R425, R430, R433). -/
def Claim.stageAbort : Prop :=
  ∀ (s : State) (src : MboxSrc), s.chip.Serves src true true →
    Runs (.stageAbort src) s fun t =>
      (if s.chip.sessionTaken src = true then s.chip.OnlyReplied t.chip src 0x0103 [[1]]
       else if s.chip.boot.stageOpen = false ∧ s.chip.boot.erasing = none then s.chip.OnlyReplied t.chip src 0x0103 [[7]]
       else t.chip.boot.stageOpen = false ∧ t.chip.boot.erasing = none ∧ t.chip.boot.stageOwner = none ∧
         s.chip.Replied t.chip src 0x0103 [[0]]) ∧
      t.chip.boot.flash = s.chip.boot.flash ∧ State.Frame Touch.mbox s t

/-- STAGE_STATUS answers with the status, the next offset, PENDING and TRIES (R433). -/
def Claim.stageStatus : Prop :=
  ∀ (s : State) (src : MboxSrc) (p n : Nat), s.chip.Serves src false true →
    (match s.chip.boot.record with | some r => p = b2n r.2.pending ∧ n = r.2.tries | none => p = 0 ∧ n = 0) →
    Runs (.stageStatus src) s fun t =>
      s.chip.OnlyReplied t.chip src 0x0104
        [leBytes 1 (if s.chip.boot.erasing.isSome then 1 else if s.chip.boot.stageOpen then 0 else 7) ++ leBytes 4 s.chip.boot.stageNext ++
          leBytes 1 p ++ leBytes 1 n] ∧ State.Frame Touch.mbox s t

/-- PROFILE_WRITE within its sector: the profile holds the data at its offset; the first part of a request erases the sector. Past the sector it is
refused with status 2, and in another source's session with status 1 (R413, R430, R433). -/
def Claim.profileWrite : Prop :=
  ∀ (s : State) (src : MboxSrc) (k : Fin 16) (off : Nat) (data : List Byte) (part : Nat), s.chip.Serves src true true →
    Runs (.profileWrite src k off data part) s fun t =>
      (if s.chip.sessionTaken src = true then s.chip.OnlyReplied t.chip src 0x0110 [[1]]
       else if 0x10000 < off + data.length then s.chip.OnlyReplied t.chip src 0x0110 [[2]]
       else
        t.chip.boot.flashBytes (profileBase k + off) data.length = data ∧
        (∀ a, ¬ (profileBase k + off ≤ a ∧ a < profileBase k + off + data.length) →
          t.chip.boot.flashByte a =
            if part = 0 ∧ profileBase k ≤ a ∧ a < profileBase k + 0x10000 then 0xFF else s.chip.boot.flashByte a) ∧
        s.chip.Replied t.chip src 0x0110 [[0]]) ∧
      State.Frame Touch.mbox s t

/-- ATTEST: with no identity it is refused with status 5; else the report, 256 bytes signed and the signature, is answered in two parts
(R432 to R434). -/
def Claim.attest : Prop :=
  ∀ (s : State) (src : MboxSrc) (nonce : List Byte), s.chip.Serves src false false →
    Runs (.attest src nonce) s fun t =>
      (match s.chip.boot.seed with
       | none => s.chip.OnlyReplied t.chip src 0x0200 [[5]]
       | some xi =>
         ∃ head sig, s.chip.OnlyReplied t.chip src 0x0200 [(head ++ sig).take 1984, (head ++ sig).drop 1984] ∧ head.length = 256 ∧ sig.length = 3309 ∧
           (head.drop 32).take 32 = padTo 32 0 nonce ∧ sig = padTo 3309 0 (Config.mldsaSign 0 xi head s.chip.free)) ∧
      State.Frame (Touch.mbox.or { parts := [.free] }) s t

/-- GET_CERT answers with status 0 and the certificate, in three parts (R431, R433). -/
def Claim.getCert : Prop :=
  ∀ (s : State) (src : MboxSrc), s.chip.Serves src false true →
    Runs (.getCert src) s fun t =>
      s.chip.OnlyReplied t.chip src 0x0201
        [(0 :: s.chip.boot.factory.cert).take 1984, ((0 :: s.chip.boot.factory.cert).drop 1984).take 1984,
         ((0 :: s.chip.boot.factory.cert).drop 3968).take 1984] ∧ State.Frame Touch.mbox s t

/-- The rows of R433's table: the source, whether the code changes the part, and whether recovery serves it. -/
def mboxRow : Instr → Option (MboxSrc × Bool × Bool)
  | .stageOpen src | .stageData src _ _ | .stageCommit src | .stageAbort src | .profileWrite src _ _ _ _ => some (src, true, true)
  | .stageStatus src | .getCert src => some (src, false, true)
  | .attest src _ => some (src, false, false)
  | _ => none

/-- A request from a source that may not make it is answered with code 0xFFFF and nothing is done: one that changes the part from any but the primary
port, and in recovery one that recovery does not serve (R403, R428, R433). One whose GO is 0, or before the mailbox is served, does nothing (R414). -/
def Claim.mboxRefused : Prop :=
  ∀ (s : State) (i : Instr) (src : MboxSrc) (changes inRecovery : Bool), mboxRow i = some (src, changes, inRecovery) →
    (s.chip.up = true ∨ s.chip.boot.phase = .recovery → (∀ h, src = .host h → s.chip.flag (Reg.hostMbox (portIx h)) 0 = true) →
        (s.chip.up = true ∧ changes = true ∧ src ≠ .host s.chip.primary ∨ s.chip.boot.phase = .recovery ∧ inRecovery = false) →
      Runs i s fun t => s.chip.OnlyReplied t.chip src 0xFFFF [[]] ∧ State.Frame Touch.mbox s t) ∧
    ((s.chip.up = false ∧ s.chip.boot.phase ≠ .recovery) ∨ (∃ h, src = .host h ∧ s.chip.flag (Reg.hostMbox (portIx h)) 0 = false) →
      Runs i s fun t => State.Frame {} s t)

/-- The command that a UART message asks for, by its code and body (R429, R433). -/
def uartCommand (m : List Byte) : Option Instr :=
  let w := ofLeBytes (m.take 8)
  let body := (m.drop 64).take (bits w 10 0)
  match bits w 31 16 with
  | 0x0100 => some (.stageOpen .uart)
  | 0x0101 => some (.stageData .uart (ofLeBytes (body.take 4)) (body.drop 4))
  | 0x0102 => some (.stageCommit .uart)
  | 0x0103 => some (.stageAbort .uart)
  | 0x0104 => some (.stageStatus .uart)
  | 0x0110 =>
    if h : ofLeBytes (body.take 1) < 16 then
      some (.profileWrite .uart ⟨ofLeBytes (body.take 1), h⟩ (ofLeBytes ((body.drop 1).take 4)) (body.drop 5) (ofLeBytes ((m.drop 8).take 1)))
    else none
  | 0x0200 => some (.attest .uart body)
  | 0x0201 => some (.getCert .uart)
  | _ => none

/-- UART_FRAME: a frame whose marks or CRC fail is answered with status 6; a message whose code asks for nothing, with 0xFFFF; any other does what
its command does, of the UART; a profile number beyond 15 is refused with status 2 (R429, R433). Before the mailbox is served nothing is. -/
def Claim.uartFrame : Prop :=
  ∀ (s : State) (bytes : List Byte),
    (s.chip.up = false → s.chip.boot.phase ≠ .recovery → Runs (.uartFrame bytes) s fun t => State.Frame {} s t) ∧
    (s.chip.up = true ∨ s.chip.boot.phase = .recovery →
      (frameMessage bytes = none →
        Runs (.uartFrame bytes) s fun t => s.chip.OnlyReplied t.chip .uart 0 [[6]] ∧ State.Frame { parts := [.boot] } s t) ∧
      (∀ m, frameMessage bytes = some m →
        (bits (ofLeBytes (m.take 8)) 31 16 ∉ [0x0100, 0x0101, 0x0102, 0x0103, 0x0104, 0x0110, 0x0200, 0x0201] →
          Runs (.uartFrame bytes) s fun t => s.chip.OnlyReplied t.chip .uart 0xFFFF [[]] ∧ State.Frame { parts := [.boot] } s t) ∧
        (∀ i, uartCommand m = some i → Runs (.uartFrame bytes) s fun t => exec i s = .next t) ∧
        (bits (ofLeBytes (m.take 8)) 31 16 = 0x0110 → uartCommand m = none → s.chip.boot.phase = .recovery → s.chip.sessionTaken .uart = false →
          Runs (.uartFrame bytes) s fun t => s.chip.OnlyReplied t.chip .uart 0x0110 [[2]] ∧ State.Frame { parts := [.boot] } s t)))

/-! ### The Turnstile (R446 to R453) -/

/-- A Turnstile without power does nothing but power up (R446, R452). -/
def Claim.turnstileOff : Prop :=
  ∀ (s : State) (i : Instr), s.ts.powered = false →
    ((∃ vs vv opens, i = .turnstileSample vs vv opens) ∨ i = .turnstileReading ∨ (∃ d, i = .smbusPointerWrite d) ∨
      (∃ n last, i = .smbusRead n last) ∨ i = .smbusReadTimeout) →
    exec i s = .next s

/-- TURNSTILE_SAMPLE of a powered Turnstile: each channel's sum takes the product of its two samples, each limited to its range; a clamped
sample is counted, and an open channel adds nothing and is noted (R447). -/
def Claim.turnstileSample : Prop :=
  ∀ (s : State) (vs vv : List Int) (opens : BitVec 4), s.ts.powered = true →
    Runs (.turnstileSample vs vv opens) s fun t =>
      (∀ i < 4, nth 0 t.ts.delta i = nth 0 s.ts.delta i +
        (if opens.getLsbD i then 0 else max (-(2 ^ 17)) (min (2 ^ 17) (nth 0 vs i)) * max 0 (min (2 ^ 18) (nth 0 vv i)))) ∧
      (∀ i < 4, nth 0 t.ts.ovr i = nth 0 s.ts.ovr i +
        (if opens.getLsbD i = false ∧
            ¬ (-(2 ^ 17) ≤ nth 0 vs i ∧ nth 0 vs i ≤ 2 ^ 17 ∧ 0 ≤ nth 0 vv i ∧ nth 0 vv i ≤ 2 ^ 18) then 1 else 0)) ∧
      (∀ i < 4, nth false t.ts.opens i = (nth false s.ts.opens i || opens.getLsbD i)) ∧
      t.ts = { s.ts with delta := t.ts.delta, ovr := t.ts.ovr, opens := t.ts.opens } ∧ State.TsFrame s t

/-- The reading at slot k once a reading held back is placed (R451). -/
def Turnstile.slotNow (x : Turnstile) (k : Nat) : List Byte :=
  match x.held with
  | some r => if k = tsSlot r then r else NMap.get (fun _ => []) x.slots k
  | none => NMap.get (fun _ => []) x.slots k

/-- A reading held back is placed, and is the newest (R451). -/
def Turnstile.PlacedHeld (x y : Turnstile) : Prop :=
  y.held = none ∧ (∀ k, NMap.get (fun _ => []) y.slots k = x.slotNow k) ∧ y.newest = ((x.held.map tsSlot).getD x.newest)

/-- What a reading says of the Turnstile x whose interval it closes, next state y (R449). -/
structure TsReading (x y : Turnstile) (r : List Byte) : Prop where
  len   : r.length = 256 + 3309
  seq   : tsSeq r = y.seq % 2 ^ 64
  secs  : ofLeBytes ((r.drop 16).take 8) = y.secs % 2 ^ 64
  ons   : ofLeBytes ((r.drop 24).take 8) = x.powerons % 2 ^ 64
  flags : bit (ofLeBytes ((r.drop 2).take 2)) 0 = x.cold ∧ bit (ofLeBytes ((r.drop 2).take 2)) 1 = !x.crystal ∧
    ∀ i < 4, bit (ofLeBytes ((r.drop 2).take 2)) (4 + i) = nth false x.opens i ∧
      bit (ofLeBytes ((r.drop 2).take 2)) (8 + i) = decide (nth 0 x.ovr i ≠ 0)
  sums  : ∀ i < 4, ofLeBytes ((r.drop (64 + 16 * i)).take 8) = twos 64 (tsUnits (nth 0 y.total i)) ∧
    ofLeBytes ((r.drop (72 + 16 * i)).take 8) = twos 64 (tsUnits (nth 0 x.delta i))
  ovrs  : ∀ i < 4, ofLeBytes ((r.drop (128 + 4 * i)).take 4) = nth 0 x.ovr i % 2 ^ 32
  sig   : r.drop 256 = padTo 3309 0 (Config.mldsaSign 1 Config.turnstileSeed (r.take 256) x.draws)

/-- TURNSTILE_READING of a powered Turnstile: a reading held back is placed. The new one has the next SEQ and 60 s more, its totals take the interval's
sums, which start again from zero, and it is sealed. It takes the next of the 16 slots; while a read that started inside that slot is in
progress and has not timed out, it is held back and the slot stays (R448, R449, R451, R452). -/
def Claim.turnstileReading : Prop :=
  ∀ (s : State), s.ts.powered = true →
    Runs .turnstileReading s fun t =>
      t.ts.seq = s.ts.seq + 1 ∧ t.ts.secs = s.ts.secs + 60 ∧ t.ts.cold = false ∧
      (∀ i < 4, nth 0 t.ts.total i = nth 0 s.ts.total i + nth 0 s.ts.delta i) ∧ t.ts.delta = List.replicate 4 0 ∧
      t.ts.ovr = List.replicate 4 0 ∧ t.ts.opens = List.replicate 4 false ∧
      (∃ x, (t.ts.copy0 = some x ∨ t.ts.copy1 = some x) ∧ x.seq = t.ts.seq ∧ x.total = t.ts.total ∧ x.secs = t.ts.secs) ∧
      (∃ r : List Byte, TsReading s.ts t.ts r ∧
        (if s.ts.reading = some (tsSlot r) ∧ s.ts.timedOut = false then
           t.ts.held = some r ∧ ∀ k, NMap.get (fun _ => []) t.ts.slots k = s.ts.slotNow k
         else t.ts.held = none ∧ t.ts.newest = tsSlot r ∧
           ∀ k, NMap.get (fun _ => []) t.ts.slots k = if k = tsSlot r then r else s.ts.slotNow k)) ∧
      t.ts.powered = true ∧ t.ts.crystal = s.ts.crystal ∧ t.ts.powerons = s.ts.powerons ∧ t.ts.pointer = s.ts.pointer ∧
      t.ts.reading = s.ts.reading ∧ t.ts.timedOut = s.ts.timedOut ∧ t.ts.out = s.ts.out ∧ State.TsFrame s t

/-- SMBUS_POINTER_WRITE: exactly three bytes set the pointer, least significant first; another length leaves it. A read in progress is over, and
a reading held back is placed (R450, R451). -/
def Claim.smbusPointerWrite : Prop :=
  ∀ (s : State) (data : List Byte), s.ts.powered = true →
    Runs (.smbusPointerWrite data) s fun t =>
      s.ts.PlacedHeld t.ts ∧
      t.ts = { s.ts with
        pointer := if data.length = 3 then ofLeBytes data else s.ts.pointer, reading := none, timedOut := false, held := none,
        slots := t.ts.slots, newest := t.ts.newest } ∧ State.TsFrame s t

/-- SMBUS_READ: its bytes are the mailbox's from the pointer on, which rises by one per byte (R450). After 100 ms every byte reads 0xFF. It holds the
slot in which the transaction began; the last of a transaction lets a reading held back be placed (R451). -/
def Claim.smbusRead : Prop :=
  ∀ (s : State) (len : Nat) (last : Bool), s.ts.powered = true →
    Runs (.smbusRead len last) s fun t =>
      t.ts.out = (List.range len).map (fun k => if s.ts.timedOut then 0xFF else tsByte s.ts ((s.ts.pointer + k) % 2 ^ 24)) ∧
      t.ts.pointer = (s.ts.pointer + len) % 2 ^ 24 ∧
      (last = false → t.ts = { s.ts with out := t.ts.out, pointer := t.ts.pointer,
                                         reading := some (s.ts.reading.getD (slotOfPointer s.ts.pointer)) }) ∧
      (last = true → s.ts.PlacedHeld t.ts ∧ t.ts = { s.ts with
        out := t.ts.out, pointer := t.ts.pointer, reading := none, timedOut := false, held := none, slots := t.ts.slots, newest := t.ts.newest }) ∧
      State.TsFrame s t

/-- SMBUS_READ_TIMEOUT of a read in progress: it has timed out, and a reading held back for it is placed (R451). With none in progress nothing
changes. -/
def Claim.smbusReadTimeout : Prop :=
  ∀ (s : State), s.ts.powered = true →
    Runs .smbusReadTimeout s fun t =>
      (s.ts.reading.isSome = true → s.ts.PlacedHeld t.ts ∧
        t.ts = { s.ts with timedOut := true, held := none, slots := t.ts.slots, newest := t.ts.newest }) ∧
      (s.ts.reading = none → t.ts = s.ts) ∧ State.TsFrame s t

/-- TURNSTILE_POWER_UP: SEQ, TOTAL and the seconds go on from the newer intact sealed copy, from zero where there is none, POWERONS rises, and the next
reading is COLD (R452). One that has power stays as it is. -/
def Claim.turnstilePowerUp : Prop :=
  ∀ (s : State),
    Runs .turnstilePowerUp s fun t =>
      (s.ts.powered = true → t.ts = s.ts) ∧
      (s.ts.powered = false → ∃ z : TsCopy,
        (match s.ts.copy0, s.ts.copy1 with
         | some x, some y => z = if x.seq < y.seq then y else x
         | some x, none => z = x
         | none, some y => z = y
         | none, none => z.seq = 0 ∧ z.total = List.replicate 4 0 ∧ z.secs = 0) ∧
        t.ts = { s.ts with powered := true, cold := true, seq := z.seq, total := z.total, secs := z.secs, powerons := s.ts.powerons + 1 }) ∧
      State.TsFrame s t

/-- TURNSTILE_POWER_LOSS: what is not sealed is lost: the interval's sums, the slots and the mailbox. The sealed copies stay, but the older of two where
the power fails while that one is being written (R452). -/
def Claim.turnstilePowerLoss : Prop :=
  ∀ (s : State) (torn : Bool),
    Runs (.turnstilePowerLoss torn) s fun t =>
      t.ts.powered = false ∧ t.ts.slots = [] ∧ t.ts.delta = List.replicate 4 0 ∧ t.ts.ovr = List.replicate 4 0 ∧
      t.ts.opens = List.replicate 4 false ∧ t.ts.held = none ∧ t.ts.reading = none ∧ t.ts.pointer = 0 ∧
      t.ts.powerons = s.ts.powerons ∧ t.ts.crystal = s.ts.crystal ∧
      (match torn && s.ts.powered, s.ts.copy0, s.ts.copy1 with
       | true, some x, some y => if x.seq < y.seq then t.ts.copy0 = none ∧ t.ts.copy1 = some y else t.ts.copy0 = some x ∧ t.ts.copy1 = none
       | _, x, y => t.ts.copy0 = x ∧ t.ts.copy1 = y) ∧ State.TsFrame s t

/-- CRYSTAL_FAIL and CRYSTAL_RECOVER: readings carry CLOCK_FAULT from the one on and no longer from the other (R446, R449). -/
def Claim.crystal : Prop :=
  (∀ (s : State), Runs .crystalFail s fun t => t.ts = { s.ts with crystal := false } ∧ bit (ofLeBytes ((tsHead t.ts).drop 2 |>.take 2)) 1 = true ∧ State.TsFrame s t) ∧
  (∀ (s : State), Runs .crystalRecover s fun t => t.ts = { s.ts with crystal := true } ∧ bit (ofLeBytes ((tsHead t.ts).drop 2 |>.take 2)) 1 = false ∧ State.TsFrame s t)

/-! ### The block as a whole -/

/-- A step takes the command at the front of the queue and runs it with the queue's rest; on an empty queue the block idles (log 14). -/
def Claim.stepRuns : Prop :=
  (∀ (c : Instr) (s : State), step { s with pending := c :: s.pending } = exec c s) ∧
  (∀ (s : State), s.pending = [] → step s = .next s)

/-- No command puts a command into the queue or takes one out of it. -/
def Claim.queueKept : Prop := ∀ (c : Instr) (s t : State), exec c s = .next t → t.pending = s.pending

/-- The Turnstile and the part share nothing: a command of the one leaves all of the other as it was (R446). -/
def Claim.isolation : Prop :=
  ∀ (c : Instr) (s t : State), exec c s = .next t → if Instr.ofTurnstile c then t.chip = s.chip else t.ts = s.ts

/-- What the two do depends on themselves alone: a command of the part does the same whatever the Turnstile's state, and one of the Turnstile
whatever the part's (R446). -/
def Claim.isolated : Prop :=
  ∀ (c : Instr) (s t u : State), exec c s = .next t →
    (Instr.ofTurnstile c = false → s.chip = u.chip → ∃ v, exec c u = .next v ∧ v.chip = t.chip) ∧
    (Instr.ofTurnstile c = true → s.ts = u.ts → ∃ v, exec c u = .next v ∧ v.ts = t.ts)

/-- Every command has a meaning, and only two can stop: HOST_RESTORE and APERTURE_ACCESS, with one fault, for host accesses whose results
R25, R400 and R401 call unpredictable. -/
def Claim.stops : Prop :=
  ∀ (c : Instr) (s : State), (∀ r, exec c s ≠ .refused r) ∧
    (∀ f, exec c s = .fault f → (∃ h, c = .hostRestore h) ∨ (∃ h off len wd, c = .apertureAccess h off len wd))

/-- Before accession opens register space, a write of a register outside the chip.boot block has no effect (R414). -/
def Claim.registersClosed : Prop :=
  ∀ (s : State) (w : Writer) (a : Nat) (v : Word), s.chip.boot.phase = .inReset ∨ s.chip.boot.phase = .starting → a < 0x10000000 →
    ¬ (0x7000 ≤ a ∧ a < 0x7100) → Runs (.registerWrite w a 8 v) s fun t => State.Frame {} s t

/-- The register that a row writes, and who writes it (the rows of the instruction table that are one register's write). -/
def writesRow : Instr → Option (Writer × Nat)
  | .periodWrite w _ => some (w, Reg.tickPeriod)
  | .taskStartWrite w k _ => some (w, Reg.taskStart k)
  | .pauseWrite w _ => some (w, Reg.tickCtrl)
  | .swapRequestWrite w n g _ => some (w, Reg.galMode n g)
  | .spareSelWrite w n _ => some (w, Reg.spareSel n)
  | .corrDataWrite w n g _ _ => some (w, Reg.corrData n g)
  | .cmdW1Write w n g _ _ => some (w, Reg.cmdW1 n g)
  | .arrayFenceWrite w n a _ => some (w, Reg.mxIdent n a)
  | .signal w n _ | .consume w n _ => some (w, Reg.ledgerOp n)
  | .setFrozen w _ | .clearFrozen w _ | .setPinned w _ | .clearPinned w _ | .bump w _ | .catalogueRead w _ => some (w, Reg.regOp)
  | .annexClearWrite w n _ => some (w, Reg.memAnnexCtrl n)
  | .annexConfigWrite w n size _ => some (w, if size then Reg.memAnnexSize n else Reg.memAnnex n)
  | .release w _ => some (w, Reg.fltCtrl)
  | .assistStart w _ => some (w, Reg.fltAssist)
  | .logAckWrite w _ => some (w, Reg.fltLogPos)
  | .cqHeadWrite h _ => some (.host h, Reg.hostCqHead (portIx h))
  | .msixArmWrite w h _ => some (w, Reg.hostMsixArm (portIx h))
  | .primaryWrite w _ => some (w, Reg.hostCfg)
  | .saveNowWrite w _ => some (w, Reg.bootRet)
  | .downNotice w _ => some (w, Reg.pwrCtrl)
  | _ => none

/-- Every row that writes a register, by a port that may not write it: the write is discarded, and PRIV_DROP of the port's own status is set and
counted (R394, R405). Before register space is open, and in recovery, a row whose register lies outside the chip.boot block does nothing, whoever
writes (R414, R428). -/
def Claim.rowRefused : Prop :=
  (∀ (s : State) (i : Instr) (h : HostPort) (a : Nat), writesRow i = some (.host h, a) → s.chip.up = true → s.chip.mayWrite (.host h) a = false →
    Runs i s fun t =>
      let ctr := if portIx h = 0 then Reg.hostCtr0 2 else Reg.hostCtr1 2
      t.chip.flag (Reg.hostStatus (portIx h)) 18 = true ∧ t.chip.fld ctr 47 0 = (s.chip.fld ctr 47 0 + 1) % 2 ^ 48 ∧
      State.Frame { regs := fields [(Reg.hostStatus (portIx h), 18, 18), (ctr, 47, 0)] } s t) ∧
  (∀ (s : State) (i : Instr) (w : Writer) (a : Nat), writesRow i = some (w, a) → s.chip.up = false → ¬ (0x7000 ≤ a ∧ a < 0x7100) →
    Runs i s fun t => State.Frame {} s t)

/-! ### Invariants -/

/-- The memories keep their canonical form, and with it reads stay well defined by address alone, whatever a step does. -/
def Claim.canonKept : Prop := ∀ (s t : State), s.chip.Canon → step s = .next t → t.chip.Canon

/-- Memory, tags and parity states are canonical after reset. -/
def Claim.canonReset : Prop := State.reset.chip.Canon

/-- No hub queue ever holds more than its 256 tokens, whatever a step does (R231, R232). -/
def Claim.queuesKept : Prop :=
  ∀ (s t : State), (∀ q, (s.chip.queue q).length ≤ 256) → step s = .next t → ∀ q, (t.chip.queue q).length ≤ 256

/-- Every hub queue is empty after reset. -/
def Claim.queuesReset : Prop := ∀ q, State.reset.chip.queue q = []

/-- Every step keeps `Turnstile.Inv`: the newer sealed copy is the last reading's SEQ, TOTAL and seconds, the two copies differ in SEQ, every
slot holds a reading whose SEQ belongs there, and the pointer stays within the mailbox (R448, R450, R452). -/
def Claim.turnstileKept : Prop := ∀ (s t : State), s.ts.Inv → step s = .next t → t.ts.Inv

/-- The Turnstile's invariant holds after reset. -/
def Claim.turnstileReset : Prop := State.reset.ts.Inv

/-- SEQ never falls: a step of a Turnstile in that state leaves SEQ or raises it by one, and only a reading raises it (R448). -/
def Claim.seqRises : Prop :=
  ∀ (c : Instr) (s t : State), s.ts.Inv → exec c s = .next t → t.ts.seq = if c = .turnstileReading ∧ s.ts.powered = true then s.ts.seq + 1 else s.ts.seq

/-! ### Rules stated whole -/

/-- R8: an offset that holds no defined register reads as zero, and a write to it, by whoever may write, is discarded. -/
def Claim.noRegister : Prop :=
  ∀ (s : State) (a : Nat), regDefAt a = none →
    s.chip.regRead a = 0 ∧
    (∀ (w : Writer) (v : Word), s.chip.mayWrite w a = true → a < 0x10000000 → Runs (.registerWrite w a 8 v) s fun t => State.Frame {} s t)

/-- R235: a write of a quota takes effect at once and does nothing else: no tile is evicted or moved, USE stands, and both fields read back
their actual values. An allocation of the class that would pass the quota is not placed: it waits, or is refused. -/
def Claim.quotaWrite : Prop :=
  (∀ (s : State) (w : Writer) (k q : Nat) (v : Word), s.chip.up = true → k < 16 → q < 8 → s.chip.mayWrite w (Reg.quota (8 * k + q)) = true →
    Runs (.registerWrite w (Reg.quota (8 * k + q)) 8 v) s fun t =>
      wbits (t.chip.regRead (Reg.quota (8 * k + q))) 23 0 = wbits v 23 0 ∧
      wbits (t.chip.regRead (Reg.quota (8 * k + q))) 47 24 = s.chip.quotaUse k q ∧
      State.Frame { regs := fields [(Reg.quota (8 * k + q), 23, 0)] } s t) ∧
  (∀ (s : State) (r : AllocReq), s.chip.quotaOf r.task r.qclass < s.chip.quotaUse r.task r.qclass + r.blocks →
    Runs (.allocation r) s fun t =>
      t.chip.quotaUse r.task r.qclass = s.chip.quotaUse r.task r.qclass ∧ ∀ i, t.chip.cate i = s.chip.cate i) ∧
  (∀ (s : State) (r : AllocReq), s.chip.quotaOf r.task r.qclass = 0 → 0 < r.blocks →
    Runs (.allocation r) s fun t =>
      t.chip.quotaUse r.task r.qclass = s.chip.quotaUse r.task r.qclass ∧ ∀ i, t.chip.cate i = s.chip.cate i)

/-- R278: chip.reg.view[k] lies at offset 0x10 + k × 0x8 of the chip.reg block, is reset to 0, takes no write, and reads word k of the entry
that the last READ returned. -/
def Claim.regView : Prop :=
  ∀ (k : Nat), k < 4 → Reg.regView k = 0x2000 + 0x10 + k * 0x8 ∧ regReset (Reg.regView k) = 0 ∧
    (∀ (s : State) (w : Writer) (i : Nat), s.chip.up = true → s.chip.mayWrite w Reg.regOp = true → i < 0x1000000 →
      Runs (.catalogueRead w i) s fun t => t.chip.regRead (Reg.regView k) = (s.chip.cate i).word k) ∧
    (∀ (s : State) (w : Writer) (v : Word), s.chip.up = true → s.chip.mayWrite w (Reg.regView k) = true →
      Runs (.registerWrite w (Reg.regView k) 8 v) s fun t => State.Frame {} s t)

/-- R393: PRIMARY names the one primary port and is loaded from configuration flash; a write of it by the primary takes effect at once, and one by the
other port is discarded; the primary's link down for FAILOVER ms passes the role and sets FAILOVER_EV, unless FAILOVER is 0. -/
def Claim.primaryRule : Prop :=
  (∀ (c : Chip), c.primary = (if c.flag Reg.hostCfg 0 then .B else .A)) ∧
  (∃ d, regDefAt Reg.hostCfg = some d ∧ bit d.cfg 0 = true) ∧
  (∀ (s : State) (h : HostPort) (v : Word), s.chip.up = true →
    (h = s.chip.primary → Runs (.primaryWrite (.host h) v) s fun t => t.chip.primary = if v.getLsbD 0 then .B else .A) ∧
    (h ≠ s.chip.primary → Runs (.primaryWrite (.host h) v) s fun t =>
      t.chip.primary = s.chip.primary ∧ ∀ i, i < 64 → t.chip.flag Reg.hostCfg i = s.chip.flag Reg.hostCfg i)) ∧
  (∀ (s : State), s.chip.up = true → (s.chip.host (portIx s.chip.primary)).link = false →
    Runs .failover s fun t =>
      if s.chip.fld Reg.hostCfg 31 16 = 0 then State.Frame {} s t
      else t.chip.primary = otherPort s.chip.primary ∧ t.chip.flag Reg.hostCfg 32 = true)

/-- The rank in which R346 picks buffers, in the order of R345's list: management, then response, collective and request, class 1 before class
0. -/
def pickRank (b : Nat) : Nat := if b = 6 then 0 else if b = 3 then 1 else if b = 2 then 2 else if b = 5 then 3 else if b = 4 then 4 else if b = 1 then 5 else 6

/-- R346: a sender picks a buffer that has a packet ready and the credits for it; one passed over 64 times while ready goes before any that
was not, and else the first in rank goes. A pick counts as passing over each other buffer that is ready, and starts the count of the picked one and
of those not ready again. -/
def Claim.pickRule : Prop :=
  ∀ (x : PortSt),
    (x.pick = none → ∀ b < 7, x.ready b = false) ∧
    (∀ b, x.pick = some b →
      b < 7 ∧ x.ready b = true ∧
      ((∃ q < 7, x.ready q = true ∧ 64 ≤ nth 0 x.passed q) → 64 ≤ nth 0 x.passed b) ∧
      ((∀ q < 7, x.ready q = true → nth 0 x.passed q < 64) → ∀ q < 7, x.ready q = true → pickRank b ≤ pickRank q) ∧
      (∀ ver, x.stream.length < 1024 → x.passed.length = 7 →
        ∃ y : PortSt, PortSt.fillStream ver 1 x = y ∧ nth 0 y.passed b = 0 ∧
          ∀ q < 7, q ≠ b → nth 0 y.passed q = if x.ready q then nth 0 x.passed q + 1 else 0))

/-- What a buffer needs to be ready: its first packet and credits for the header unit and every data unit of it (R345). -/
def Claim.creditRule : Prop :=
  ∀ (x : PortSt) (b : Nat), x.ready b = true ↔ ∃ q, x.firstOf b = some q ∧ 1 + dataUnits q.pkt ≤ nth 0 x.credits b

/-- Reset leaves what the tables of registers state: the tick logic, the ledger, the census, memory, faults, hosts and start-up, one value of each
(R51, R241, R331, R385 to R389, R406, R436), and the part held in reset with nothing loaded. -/
def Claim.resetValues : Prop :=
  let c := State.reset.chip
  State.reset.pending = [] ∧ c.boot.phase = .inReset ∧ c.mem = [] ∧ c.tasks = [] ∧
  c.rd Reg.tickSlip = 64 ∧ c.rd Reg.tickCount = 0 ∧ c.rd Reg.stepCtrl = 16 ∧ c.rd Reg.irqMask = 0x1FFFFF ∧ c.rd (Reg.wingMask 7) = 0x3FF7FFF ∧
  c.rd (Reg.galMask 15 299) = 0x7F ∧ c.rd Reg.fltCtrl = 100 ∧ c.rd (Reg.hostCredit 1) = 256 ∧ c.rd Reg.bootRet = 60 ∧
  (c.pair 3 4095).buf = 1 ∧ c.halted = false ∧ c.primary = .A

end Sys2Proof.Machine

open Sys2Proof.Machine

/-- A step runs the command at the front of the queue; an empty queue idles. Rests on choices and readings of the
model: log 14 (DESIGN CHOICE), log 88 (DESIGN CHOICE). -/
def Obligations.StepRunsTheFrontCommand : Prop :=
  Claim.stepRuns

/-- What reset leaves: register values, empty queues, memory in canonical form, the Turnstile's invariant. Rests on
choices and readings of the model: log 12 (DESIGN CHOICE), log 13 (DESIGN CHOICE), log 48 (DESIGN CHOICE). -/
def Obligations.ResetState : Prop :=
  Claim.resetValues ∧ Claim.canonReset ∧ Claim.queuesReset ∧ Claim.turnstileReset

/-- No command touches the queue, none is refused, and only two can fault. Rests on choices and readings of the model:
log 99 (DESIGN CHOICE). -/
def Obligations.CommandsStopOnlyOnUnpredictableAccesses : Prop :=
  Claim.queueKept ∧ Claim.stops

/-- The part and the Turnstile share no state and do not depend on each other. -/
def Obligations.PartAndTurnstileAreIsolated : Prop :=
  Claim.isolation ∧ Claim.isolated

/-- Every step keeps memory, tags and parity states in canonical form. Rests on choices and readings of the model: log
12 (DESIGN CHOICE). -/
def Obligations.MemoriesStayCanonical : Prop :=
  Claim.canonKept

/-- Every step keeps every hub queue within its 256 tokens. -/
def Obligations.HubQueuesStayBounded : Prop :=
  Claim.queuesKept

/-- Every step keeps the Turnstile's invariant, and SEQ rises only by a reading. Rests on choices and readings of the
model: log 45 (DESIGN CHOICE). -/
def Obligations.TurnstileKeepsItsReadings : Prop :=
  Claim.turnstileKept ∧ Claim.seqRises

/-- A link frame that arrives as it was built decodes to what was sent. -/
def Obligations.FrameArrivesAsSent : Prop :=
  Claim.frameIntact

/-- An offset with no register reads as zero, and a write to it is discarded. -/
def Obligations.UndefinedOffsetsReadZero : Prop :=
  Claim.noRegister

/-- A write of a quota takes effect at once, moves nothing, and closes the class to what it has no room for. -/
def Obligations.QuotaWriteMovesNothing : Prop :=
  Claim.quotaWrite

/-- chip.reg.view: place, reset, no write, and the words of the last entry read. -/
def Obligations.EntryViewRegisters : Prop :=
  Claim.regView

/-- PRIMARY names the one primary port, moves by its write, and fails over with its link. -/
def Obligations.PrimaryRole : Prop :=
  Claim.primaryRule

/-- The sender's pick of the next packet: readiness, starvation and rank. -/
def Obligations.PacketPickOrder : Prop :=
  Claim.pickRule

/-- REGISTER_WRITE and the rows that write one register: size, undefined offsets, interrupt masks, privilege, and
closed register space. Rests on choices and readings of the model: log 96 (DEDUCED). -/
def Obligations.RegisterWrites : Prop :=
  Claim.registerWrite ∧ Claim.registersClosed ∧ Claim.rowRefused

/-- TICK_EDGE of a running part, of a halted one, of one with a halt due, and of one whose hub die is at fault. Rests
on choices and readings of the model: log 90 (DEDUCED). -/
def Obligations.TickEdges : Prop :=
  Claim.tickEdge ∧ Claim.tickEdgeHalted ∧ Claim.tickEdgeHalts ∧ Claim.tickEdgeHubFault

/-- Start tick, start, pause and slip stop of a task. Rests on choices and readings of the model: log 90 (DEDUCED). -/
def Obligations.TasksStartPauseAndSlip : Prop :=
  Claim.taskStartWrite ∧ Claim.taskStart ∧ Claim.pauseWrite ∧ Claim.cascadePause ∧ Claim.slipStop

/-- PERIOD, the master's listening, SYNC pulses, tick loss, period and count of the cascade. Rests on choices and
readings of the model: log 90 (DEDUCED). -/
def Obligations.CascadeSynchronisation : Prop :=
  Claim.periodWrite ∧ Claim.masterListenEnd ∧ Claim.syncPulse ∧ Claim.tickLoss ∧ Claim.periodPropagate ∧
  Claim.tickCountAdopt

/-- A wing's wake and rest, and the issue of a held command. Rests on choices and readings of the model: log 90
(DEDUCED), log 104 (DESIGN CHOICE), log 114 (DEDUCED), log 121 (DEDUCED). -/
def Obligations.WingsWakeRestAndIssue : Prop :=
  Claim.wakeComplete ∧ Claim.registerPathIdle ∧ Claim.commandIssue ∧ Claim.commandIssueFirst

/-- Census combine and record, contributions, vote, outcome, skip limit and combine records. Rests on choices and
readings of the model: log 20 (DEDUCED), log 85 (DEDUCED), log 86 (DEDUCED). -/
def Obligations.TrainingStepAndCensus : Prop :=
  Claim.amaxCombine ∧ Claim.censusRecordWrite ∧ Claim.contributionHeader ∧ Claim.contributionRefused ∧
  Claim.voteSubmit ∧ Claim.outcomeDecide ∧ Claim.skipLimit ∧ Claim.combineRecord ∧ Claim.amaxOther ∧
  Claim.combineAmax

/-- The state block of the update, the update program over it, and the sign-step rule. Rests on choices and readings
of the model: log 120 (DESIGN CHOICE). -/
def Obligations.TrainingUpdate : Prop :=
  Claim.stateBytes ∧ Claim.signStepRule ∧ Claim.updateBlock

/-- MVM commands of a gallery: queueing, invalid and refused ones, start, waiting, and completion. Rests on choices
and readings of the model: log 4 (DESIGN CHOICE), log 53 (DEDUCED), log 101 (DEDUCED), log 103 (DESIGN CHOICE). -/
def Obligations.GalleryMvm : Prop :=
  Claim.mvm ∧ Claim.mvmBad ∧ Claim.mvmStart ∧ Claim.mvmComplete ∧ Claim.mvmRefForward ∧ Claim.mvmOverBudget ∧
  Claim.mvmHistWait

/-- WRITE, its activation, staged codes, verified cells, and completion of a plane. Rests on choices and readings of
the model: log 54 (DESIGN CHOICE), log 56 (DESIGN CHOICE), log 58 (DEDUCED). -/
def Obligations.GalleryPlaneWrites : Prop :=
  Claim.write ∧ Claim.writeActivate ∧ Claim.stagedCodesArrive ∧ Claim.cellVerify ∧ Claim.planeWriteComplete ∧
  Claim.cellNext

/-- SWAP, a requested swap, its effect, and commands by the register path. Rests on choices and readings of the model:
log 58 (DEDUCED), log 90 (DEDUCED). -/
def Obligations.GallerySwapsAndRegisterPath : Prop :=
  Claim.swap ∧ Claim.swapRequestWrite ∧ Claim.swapTakeEffect ∧ Claim.cmdW1Write

/-- Rotation of the spare converter, its selection, and calibration. -/
def Obligations.SpareConvertersAndCalibration : Prop :=
  Claim.spareRotationPoint ∧ Claim.vitrineRotate ∧ Claim.spareSelWrite ∧ Claim.calibrationPass ∧
  Claim.calibrationRetry ∧ Claim.calibrationFail

/-- Column measurements, ageing coefficients, and access to the correction store. Rests on choices and readings of the
model: log 108 (DEDUCED). -/
def Obligations.CorrectionCoefficients : Prop :=
  Claim.columnMeasureHeld ∧ Claim.columnMeasureDone ∧ Claim.coefAged ∧ Claim.corrDataWrite ∧ Claim.corrDataRead

/-- Watch conversions, urgent requests, stale sensors, and the ages of cell groups. Rests on choices and readings of
the model: log 60 (DEDUCED), log 61 (DESIGN CHOICE), log 106 (DEDUCED). -/
def Obligations.MonitorsAndGroupAges : Prop :=
  Claim.watchConversion ∧ Claim.urgentRequest ∧ Claim.tempStale ∧ Claim.groupDue ∧ Claim.groupLate ∧
  Claim.groupExpired ∧ Claim.groupExpiredTile ∧ Claim.watchSequence ∧ Claim.conservatorRequest

/-- Live, idle and resident rehangs: start, a moved source, slots, cells and completion. Rests on choices and readings
of the model: log 57 (DEDUCED), log 61 (DESIGN CHOICE), log 105 (DESIGN CHOICE), log 107 (DEDUCED). -/
def Obligations.Rehangs : Prop :=
  Claim.rehangSourceMoved ∧ Claim.liveRehangStart ∧ Claim.idleRehangStart ∧ Claim.refreshSlotStart ∧
  Claim.refreshSlotEnd ∧ Claim.rehangComplete ∧ Claim.movedResponse ∧ Claim.cellRehang ∧ Claim.rehangWritten ∧
  Claim.swapOfRehang ∧ Claim.refreshComplete

/-- PASS: its entries, its exact product sums, and its wait for a LOAD. Rests on choices and readings of the model:
log 62 (DESIGN CHOICE), log 100 (DESIGN CHOICE), log 103 (DESIGN CHOICE). -/
def Obligations.ArrayPasses : Prop :=
  Claim.pass ∧ Claim.passProduct ∧ Claim.passWaits ∧ Claim.arrayBadOp

/-- LOAD and FLUSH of a matrix array, valid and invalid, their completion, and raw records. Rests on choices and
readings of the model: log 59 (DEDUCED), log 62 (DESIGN CHOICE), log 100 (DESIGN CHOICE), log 101 (DEDUCED). -/
def Obligations.ArrayLoadsAndFlushes : Prop :=
  Claim.load ∧ Claim.loadComplete ∧ Claim.flush ∧ Claim.flushBegin ∧ Claim.flushRaw ∧ Claim.flushWaits

/-- Fencing an array, and guard runs of galleries, arrays and vector engines. Rests on choices and readings of the
model: log 33 (DESIGN CHOICE), log 63 (DEDUCED), log 68 (DEDUCED), log 69 (DEDUCED), log 123 (DEDUCED). -/
def Obligations.FencesAndGuards : Prop :=
  Claim.arrayFenceWrite ∧ Claim.guardRun ∧ Claim.arrayGuardWindow ∧ Claim.vectorGuard ∧ Claim.guardClass ∧
  Claim.arrayClassOwn ∧ Claim.arrayClassOther

/-- Lane-wise vector instructions on two sources. Rests on choices and readings of the model: log 10 (DESIGN CHOICE),
log 22 (DEDUCED). -/
def Obligations.VectorTwoSourceLanes : Prop :=
  Claim.vAdd ∧ Claim.vSub ∧ Claim.vMul ∧ Claim.vMin ∧ Claim.vMax ∧ Claim.vDiv ∧ Claim.vAnd ∧ Claim.vOr ∧ Claim.vXor

/-- Lane-wise vector instructions on one source. Rests on choices and readings of the model: log 7 (DESIGN CHOICE),
log 10 (DESIGN CHOICE), log 22 (DEDUCED). -/
def Obligations.VectorOneSourceLanes : Prop :=
  Claim.vMov ∧ Claim.vAbs ∧ Claim.vNeg ∧ Claim.vSqrt ∧ Claim.vExp2 ∧ Claim.vLog2 ∧ Claim.vShl ∧ Claim.vShr

/-- Selection, broadcast, comparisons, flags, conversion and reduction. Rests on choices and readings of the model:
log 10 (DESIGN CHOICE), log 22 (DEDUCED), log 117 (DEDUCED), log 118 (DESIGN CHOICE), log 119 (DESIGN CHOICE). -/
def Obligations.VectorMasksAndConversions : Prop :=
  Claim.vSel ∧ Claim.vBcast ∧ Claim.vCmpeq ∧ Claim.vCmplt ∧ Claim.vCmple ∧ Claim.vFlag ∧ Claim.vCvt ∧ Claim.vRsum ∧
  Claim.vCvtWaits

/-- Vector loads and stores, and a forbidden address. Rests on choices and readings of the model: log 22 (DEDUCED). -/
def Obligations.VectorMemory : Prop :=
  Claim.vVld ∧ Claim.vAccessFault ∧ Claim.vVst ∧ Claim.vVldTag ∧ Claim.vVstTag

/-- A vector command, an invalid one, its end, scalars and branches. Rests on choices and readings of the model: log
10 (DESIGN CHOICE), log 22 (DEDUCED). -/
def Obligations.VectorPrograms : Prop :=
  Claim.vVend ∧ Claim.vSop ∧ Claim.vSloop ∧ Claim.vSbr ∧ Claim.vectorCommand ∧ Claim.vectorCommandBad

/-- Docent loads, stores, cached loads, register loads, and accesses that fault. Rests on choices and readings of the
model: log 5 (DESIGN CHOICE), log 6 (DESIGN CHOICE), log 11 (DESIGN CHOICE), log 89 (DEDUCED), log 109 (DESIGN
CHOICE). -/
def Obligations.DocentLoadsAndStores : Prop :=
  Claim.ld ∧ Claim.ldCached ∧ Claim.ldMiss ∧ Claim.ldRegister ∧ Claim.st ∧ Claim.accessFault ∧ Claim.stRegister ∧
  Claim.docentCacheError ∧ Claim.docentTurn

/-- Tagged loads and stores, waiting, its end, and an overrun fill. Rests on choices and readings of the model: log 5
(DESIGN CHOICE), log 84 (DEDUCED). -/
def Obligations.DocentTaggedAccesses : Prop :=
  Claim.ldf ∧ Claim.ldWaits ∧ Claim.ldc ∧ Claim.stf ∧ Claim.tagWaitResend ∧ Claim.fillOverrun

/-- FENCE, DINV, PREF, CMD, TICK, SPAWN and EXIT of a docent thread. Rests on choices and readings of the model: log 5
(DESIGN CHOICE), log 25 (DESIGN CHOICE), log 26 (DESIGN CHOICE), log 27 (DESIGN CHOICE), log 89 (DEDUCED). -/
def Obligations.DocentControl : Prop :=
  Claim.fence ∧ Claim.dinv ∧ Claim.pref ∧ Claim.cmd ∧ Claim.cmdIllegal ∧ Claim.tick ∧ Claim.spawn ∧ Claim.exit ∧
  Claim.cmdOwn

/-- COPY inside the part and to other parts, tagged, waiting, contributions, a bad COPY, and the end of a transfer.
Rests on choices and readings of the model: log 52 (DESIGN CHOICE), log 87 (DEDUCED). -/
def Obligations.DmaTransfers : Prop :=
  Claim.copy ∧ Claim.copyBad ∧ Claim.transferSignal ∧ Claim.copyBegins ∧ Claim.copyTagged ∧ Claim.copyWaits ∧
  Claim.copyFar ∧ Claim.copyRemote ∧ Claim.copyContribution ∧ Claim.copyTurn

/-- Signals and consumes of counter pairs, strays, hub queues, and management packets. Rests on choices and readings
of the model: log 16 (DEDUCED), log 50 (DEDUCED), log 51 (DESIGN CHOICE). -/
def Obligations.PairsAndQueues : Prop :=
  Claim.signal ∧ Claim.consume ∧ Claim.stray ∧ Claim.consumePacket ∧ Claim.queuePut ∧ Claim.queueTake ∧ Claim.mgmt

/-- Allocation of a block, its wait for quota, and its admission. Rests on choices and readings of the model: log 30
(DESIGN CHOICE), log 64 (DEDUCED). -/
def Obligations.Allocation : Prop :=
  Claim.allocation ∧ Claim.allocationWaits ∧ Claim.pendingAdmit

/-- chip.reg.op: FROZEN, PINNED, BUMP, READ, and operations that are discarded. Rests on choices and readings of the
model: log 94 (DESIGN CHOICE). -/
def Obligations.CatalogueOperations : Prop :=
  Claim.frozen ∧ Claim.pinned ∧ Claim.bump ∧ Claim.opDiscarded ∧ Claim.catalogueRead

/-- A conflict, the redirect of a role or a block, and an abandoned move. Rests on choices and readings of the model:
log 28 (DEDUCED), log 31 (DESIGN CHOICE), log 63 (DEDUCED), log 76 (DEDUCED). -/
def Obligations.MovesAndRedirects : Prop :=
  Claim.conflictNotice ∧ Claim.galleryRedirect ∧ Claim.blockRedirect ∧ Claim.moveAbandon ∧ Claim.moveAbandonFault ∧
  Claim.conflictOver

/-- LEND, RETURN and PREFETCH: start, skip, copy, staleness and check. Rests on choices and readings of the model: log
32 (DEDUCED), log 52 (DESIGN CHOICE), log 65 (DEDUCED), log 66 (DEDUCED). -/
def Obligations.MovementPlan : Prop :=
  Claim.lend ∧ Claim.planSkipped ∧ Claim.lendCopyDone ∧ Claim.lendStale ∧ Claim.returnTile ∧ Claim.returnCopyDone ∧
  Claim.prefetch ∧ Claim.prefetchCheck ∧ Claim.prefetchStale ∧ Claim.prefetchCopyDone

/-- Request order, reads, corrected reads, writes and scrubs of a memory line. Rests on choices and readings of the
model: log 81 (DEDUCED), log 82 (DEDUCED). -/
def Obligations.MemoryLines : Prop :=
  Claim.memSlotGrant ∧ Claim.memRead ∧ Claim.memReadCorrected ∧ Claim.memWrite ∧ Claim.scrubRead

/-- Accumulating stores, frozen blocks, draining reads, and clearing of the annex. Rests on choices and readings of
the model: log 83 (DEDUCED). -/
def Obligations.GradientAnnex : Prop :=
  Claim.accumulateStore ∧ Claim.accumulateFrozen ∧ Claim.drainingRead ∧ Claim.annexClearWrite ∧
  Claim.annexConfigWrite ∧ Claim.annexClearDone

/-- Frames sent, resent, received and discarded. Rests on choices and readings of the model: log 78 (DEDUCED), log 79
(DEDUCED), log 80 (DEDUCED), log 122 (DEDUCED). -/
def Obligations.LinkFrames : Prop :=
  Claim.frameSend ∧ Claim.frameResend ∧ Claim.frameReceive ∧ Claim.frameBad ∧ Claim.frameDropped

/-- Replay, link fault, lock, retraining, bring-up and capabilities of a port. Rests on choices and readings of the
model: log 23 (DEDUCED), log 63 (DEDUCED). -/
def Obligations.LinkPortsAndReplay : Prop :=
  Claim.replayTimeout ∧ Claim.linkFault ∧ Claim.lockLoss ∧ Claim.portRetrainDone ∧ Claim.portBringup ∧
  Claim.capabilityExchange

/-- Low power, idle units, readiness by credit, timestamps, and the cascade's assembly. Rests on choices and readings
of the model: log 24 (DEDUCED). -/
def Obligations.LinkPowerAndCascade : Prop :=
  Claim.portWake ∧ Claim.portIdleLp ∧ Claim.idle ∧ Claim.creditRule ∧ Claim.timestampExchange ∧
  Claim.cascadeAssemble

/-- Write, read, read-data and forwarded packets, waiting and tagged ones, and bad ones. Rests on choices and readings
of the model: log 80 (DEDUCED). -/
def Obligations.LinkPackets : Prop :=
  Claim.writePacket ∧ Claim.packetBad ∧ Claim.readPacket ∧ Claim.rdata ∧ Claim.packetForward ∧
  Claim.writePacketWaits ∧ Claim.packetPassed ∧ Claim.readTagged ∧ Claim.readWaits ∧ Claim.packetVersion

/-- Release of held tasks, its timer, the assist stream, and the log's acknowledgement. Rests on choices and readings
of the model: log 70 (DEDUCED), log 71 (DEDUCED). -/
def Obligations.ReleaseAndAssist : Prop :=
  Claim.release ∧ Claim.assistWaitExpiry ∧ Claim.assistStart ∧ Claim.assistDone ∧ Claim.logAckWrite

/-- HOST_LOAD, its refusals, and the completion of a load. Rests on choices and readings of the model: log 29
(DEDUCED), log 34 (DESIGN CHOICE), log 49 (DESIGN CHOICE), log 75 (DESIGN CHOICE). -/
def Obligations.TaskLoads : Prop :=
  Claim.hostLoad ∧ Claim.hostLoadRefused ∧ Claim.taskLoadComplete

/-- UNLOAD, STOP, SAVE, RESTORE and NOP. Rests on choices and readings of the model: log 35 (DESIGN CHOICE), log 36
(DEDUCED), log 49 (DESIGN CHOICE), log 73 (DEDUCED), log 77 (DEDUCED), log 99 (DESIGN CHOICE). -/
def Obligations.TaskTokens : Prop :=
  Claim.hostUnload ∧ Claim.hostStop ∧ Claim.hostSave ∧ Claim.hostRestore ∧ Claim.hostRestoreStops ∧ Claim.hostNop

/-- The completion ring, MSI-X arming, and the mailboxes' registers. Rests on choices and readings of the model: log
17 (DEDUCED). -/
def Obligations.CompletionsAndInterrupts : Prop :=
  Claim.completionWrite ∧ Claim.cqHeadWrite ∧ Claim.msixArmWrite ∧ Claim.mailboxWrites

/-- The primary role, failover, port resets, aperture accesses, completion errors and link-up. Rests on choices and
readings of the model: log 74 (DEDUCED), log 94 (DESIGN CHOICE), log 99 (DESIGN CHOICE), log 124 (DESIGN CHOICE). -/
def Obligations.PortsAndAperture : Prop :=
  Claim.primaryWrite ∧ Claim.failover ∧ Claim.portReset ∧ Claim.apertureAccess ∧ Claim.pcieCompletionError ∧
  Claim.pcieLinkUp

/-- The ways accession ends: recovery, up, a failed profile, a hang, and no effect. Rests on choices and readings of
the model: log 1 (DESIGN CHOICE), log 42 (DESIGN CHOICE), log 43 (DESIGN CHOICE), log 47 (DEDUCED), log 92 (DEDUCED),
log 93 (DEDUCED), log 126 (DEDUCED). -/
def Obligations.AccessionOutcomes : Prop :=
  Claim.accessionRecovery ∧ Claim.accession ∧ Claim.accessionConfig ∧ Claim.accessionIdle ∧ Claim.accWdogExpiry ∧
  Claim.accessionBank ∧ Claim.accessionRestore ∧ Claim.accessionHangs

/-- Reset, power loss, flash saves, and the power-down notice. Rests on choices and readings of the model: log 39
(DESIGN CHOICE), log 91 (DEDUCED), log 93 (DEDUCED). -/
def Obligations.ResetsAndSaves : Prop :=
  Claim.resetAssert ∧ Claim.powerLoss ∧ Claim.rsaveTimer ∧ Claim.saveNowWrite ∧ Claim.retainedSaveDone ∧
  Claim.downNotice

/-- STAGE_OPEN to STAGE_STATUS: staging of an image over the mailbox. Rests on choices and readings of the model: log
42 (DESIGN CHOICE), log 44 (DESIGN CHOICE). -/
def Obligations.StagingAnImage : Prop :=
  Claim.stageOpen ∧ Claim.stageData ∧ Claim.stageCommit ∧ Claim.stageAbort ∧ Claim.stageStatus ∧
  Claim.stageEraseDone

/-- Profile writes, attestation, the certificate, refused requests, and UART frames. Rests on choices and readings of
the model: log 9 (PRESUMED), log 44 (DESIGN CHOICE). -/
def Obligations.ProfilesIdentityAndRecoveryFrames : Prop :=
  Claim.profileWrite ∧ Claim.attest ∧ Claim.getCert ∧ Claim.mboxRefused ∧ Claim.uartFrame

/-- Samples, readings, the SMBus mailbox, power and crystal of the Turnstile. Rests on choices and readings of the
model: log 40 (DESIGN CHOICE), log 41 (DESIGN CHOICE), log 45 (DESIGN CHOICE). -/
def Obligations.TurnstileMeter : Prop :=
  Claim.turnstileSample ∧ Claim.turnstileReading ∧ Claim.smbusPointerWrite ∧ Claim.smbusRead ∧
  Claim.smbusReadTimeout ∧ Claim.turnstilePowerUp ∧ Claim.turnstilePowerLoss ∧ Claim.crystal ∧ Claim.turnstileOff
end

