-- ==== Sys2Proof/Laws/Bits.lean ====
section
/-! SUPPORT. Bit fields: what a field reads after a field was set. -/

namespace Sys2Proof.Machine

/-- The bits of a number with a field replaced. -/
theorem testBit_setBits (v hi lo x i : Nat) (h : lo ≤ hi) :
    (setBits v hi lo x).testBit i = if lo ≤ i ∧ i ≤ hi then x.testBit (i - lo) else v.testBit i := by
  have hv : v = 2 ^ lo * (2 ^ (hi - lo + 1) * (v / 2 ^ lo / 2 ^ (hi - lo + 1)) + bits v hi lo) + v % 2 ^ lo := by
    simp only [bits, Nat.shiftRight_eq_div_pow]
    rw [Nat.div_add_mod, Nat.div_add_mod]
  have hs : setBits v hi lo x =
      2 ^ lo * (2 ^ (hi - lo + 1) * (v / 2 ^ lo / 2 ^ (hi - lo + 1)) + x % 2 ^ (hi - lo + 1)) + v % 2 ^ lo := by
    unfold setBits
    conv_lhs => arg 1; arg 1; rw [hv]
    generalize v / 2 ^ lo / 2 ^ (hi - lo + 1) = q
    generalize bits v hi lo = b
    generalize v % 2 ^ lo = r
    generalize x % 2 ^ (hi - lo + 1) = y
    generalize 2 ^ (hi - lo + 1) * q = z
    generalize 2 ^ lo = p
    have e1 : p * (z + b) + r - b * p = p * z + r := by
      have : p * (z + b) + r = p * z + r + b * p := by ring
      omega
    rw [e1]; ring
  rw [hs]
  conv_rhs => arg 3; rw [hv]
  have hr : v % 2 ^ lo < 2 ^ lo := Nat.mod_lt _ (by positivity)
  have hb : bits v hi lo < 2 ^ (hi - lo + 1) := Nat.mod_lt _ (by positivity)
  have hy : x % 2 ^ (hi - lo + 1) < 2 ^ (hi - lo + 1) := Nat.mod_lt _ (by positivity)
  rw [Nat.testBit_two_pow_mul_add _ hr, Nat.testBit_two_pow_mul_add _ hr,
    Nat.testBit_two_pow_mul_add _ hb, Nat.testBit_two_pow_mul_add _ hy]
  by_cases h1 : i < lo
  · simp [h1]
  · by_cases h2 : i ≤ hi
    · have h3 : i - lo < hi - lo + 1 := by omega
      simp [h1, h2, h3, Nat.testBit_mod_two_pow, Nat.not_lt.mp h1]
    · have h3 : ¬ i - lo < hi - lo + 1 := by omega
      have h4 : ¬ (lo ≤ i ∧ i ≤ hi) := by omega
      rw [if_neg h1, if_neg h3, if_neg h4, if_neg h1, if_neg h3]

theorem testBit_bits (v hi lo i : Nat) : (bits v hi lo).testBit i = (decide (i < hi - lo + 1) && v.testBit (lo + i)) := by
  simp [bits, Nat.testBit_mod_two_pow, Nat.testBit_shiftRight]

/-- A field that was set reads what was written, cut to its width. -/
theorem bits_setBits_self (v hi lo x : Nat) (h : lo ≤ hi) : bits (setBits v hi lo x) hi lo = x % 2 ^ (hi - lo + 1) := by
  apply Nat.eq_of_testBit_eq
  intro i
  rw [testBit_bits, testBit_setBits _ _ _ _ _ h, Nat.testBit_mod_two_pow]
  by_cases hi' : i < hi - lo + 1
  · have : lo ≤ lo + i ∧ lo + i ≤ hi := by omega
    simp [hi', this]
  · simp [hi']

/-- A field apart from the one that was set reads as before. -/
theorem bits_setBits_disjoint (v hi lo x hi' lo' : Nat) (h : lo ≤ hi) (h' : lo' ≤ hi') (d : hi' < lo ∨ hi < lo') :
    bits (setBits v hi lo x) hi' lo' = bits v hi' lo' := by
  apply Nat.eq_of_testBit_eq
  intro i
  rw [testBit_bits, testBit_bits, testBit_setBits _ _ _ _ _ h]
  by_cases hi2 : i < hi' - lo' + 1
  · have : ¬ (lo ≤ lo' + i ∧ lo' + i ≤ hi) := by omega
    simp [hi2, this]
  · simp [hi2]

theorem setBits_lt {v hi lo x n : Nat} (h : lo ≤ hi) (hv : v < 2 ^ n) (hn : hi < n) : setBits v hi lo x < 2 ^ n := by
  apply Nat.lt_pow_two_of_testBit
  intro i hi'
  rw [testBit_setBits _ _ _ _ _ h]
  have : ¬ (lo ≤ i ∧ i ≤ hi) := by omega
  simp only [this, if_false]
  exact Nat.testBit_lt_two_pow (lt_of_lt_of_le hv (Nat.pow_le_pow_right (by decide) hi'))

theorem bits_lt (v hi lo : Nat) : bits v hi lo < 2 ^ (hi - lo + 1) := Nat.mod_lt _ (by positivity)

end Sys2Proof.Machine
end

