-- ==== Sys2Proof/Laws/Map.lean ====
section
/-! SUPPORT. Sparse maps: what a write changes and what it leaves, and that every map operation keeps the canonical form. -/

namespace Sys2Proof.Machine

variable {α : Type}

theorem NMap.find_put_self (m : NMap α) (k : Nat) (v : α) : NMap.find (NMap.put m k v) k = some v := by
  induction m with
  | nil => simp [NMap.put, NMap.find]
  | cons p t ih =>
    obtain ⟨k', v'⟩ := p
    simp only [NMap.put]
    split
    · simp [NMap.find]
    · split
      · simp [NMap.find]
      · simp [NMap.find, *]

theorem NMap.find_put_ne (m : NMap α) {j k : Nat} (v : α) (h : j ≠ k) : NMap.find (NMap.put m k v) j = NMap.find m j := by
  induction m with
  | nil => simp [NMap.put, NMap.find, Ne.symm h]
  | cons p t ih =>
    obtain ⟨k', v'⟩ := p
    simp only [NMap.put]
    split
    · simp [NMap.find, Ne.symm h]
    · split
      · subst_vars; simp [NMap.find, Ne.symm h]
      · simp [NMap.find, ih]

theorem NMap.find_del_self (m : NMap α) (k : Nat) : NMap.find (NMap.del m k) k = none := by
  induction m with
  | nil => rfl
  | cons p t ih =>
    obtain ⟨k', v'⟩ := p
    simp only [NMap.del]
    split
    · exact ih
    · simp [NMap.find, *]

theorem NMap.find_del_ne (m : NMap α) {j k : Nat} (h : j ≠ k) : NMap.find (NMap.del m k) j = NMap.find m j := by
  induction m with
  | nil => rfl
  | cons p t ih =>
    obtain ⟨k', v'⟩ := p
    simp only [NMap.del]
    split
    · subst_vars; simp [NMap.find, ih, Ne.symm h]
    · simp [NMap.find, ih]

/-- Reading back the key that was written. -/
@[simp] theorem NMap.get_set_self [DecidableEq α] (d : Nat → α) (m : NMap α) (k : Nat) (v : α) :
    NMap.get d (NMap.set d m k v) k = v := by
  unfold NMap.set NMap.get
  split
  · simp [NMap.find_del_self, *]
  · simp [NMap.find_put_self]

/-- A write leaves every other key. -/
theorem NMap.get_set_ne [DecidableEq α] (d : Nat → α) (m : NMap α) {j k : Nat} (v : α) (h : j ≠ k) :
    NMap.get d (NMap.set d m k v) j = NMap.get d m j := by
  unfold NMap.set NMap.get
  split
  · rw [NMap.find_del_ne _ h]
  · rw [NMap.find_put_ne _ _ h]

/-- A read after a write, at any key. -/
theorem NMap.get_set [DecidableEq α] (d : Nat → α) (m : NMap α) (j k : Nat) (v : α) :
    NMap.get d (NMap.set d m k v) j = if j = k then v else NMap.get d m j := by
  split
  · subst_vars; simp
  · exact NMap.get_set_ne d m v ‹_›

@[simp] theorem NMap.get_nil (d : Nat → α) (k : Nat) : NMap.get d [] k = d k := rfl

theorem NMap.wfFrom_mono [DecidableEq α] {d : Nat → α} {a b : Nat} {m : NMap α} (h : NMap.wfFrom d b m = true) (hab : a ≤ b) :
    NMap.wfFrom d a m = true := by
  cases m with
  | nil => rfl
  | cons p t =>
    obtain ⟨k, v⟩ := p
    simp only [NMap.wfFrom, Bool.and_eq_true, decide_eq_true_eq] at h ⊢
    exact ⟨⟨by omega, h.1.2⟩, h.2⟩

theorem NMap.put_wfFrom [DecidableEq α] {d : Nat → α} {b k : Nat} {m : NMap α} {v : α} (h : NMap.wfFrom d b m = true)
    (hb : b ≤ k) (hv : v ≠ d k) : NMap.wfFrom d b (NMap.put m k v) = true := by
  induction m generalizing b with
  | nil => simp [NMap.put, NMap.wfFrom, hb, hv]
  | cons p t ih =>
    obtain ⟨k', v'⟩ := p
    simp only [NMap.wfFrom, Bool.and_eq_true, decide_eq_true_eq] at h
    simp only [NMap.put]
    split
    · simp only [NMap.wfFrom, Bool.and_eq_true, decide_eq_true_eq]
      exact ⟨⟨hb, hv⟩, ⟨⟨by omega, h.1.2⟩, h.2⟩⟩
    · split
      · subst_vars
        simp only [NMap.wfFrom, Bool.and_eq_true, decide_eq_true_eq]
        exact ⟨⟨hb, hv⟩, h.2⟩
      · simp only [NMap.wfFrom, Bool.and_eq_true, decide_eq_true_eq]
        exact ⟨h.1, ih h.2 (by omega)⟩

theorem NMap.del_wfFrom [DecidableEq α] {d : Nat → α} {b k : Nat} {m : NMap α} (h : NMap.wfFrom d b m = true) :
    NMap.wfFrom d b (NMap.del m k) = true := by
  induction m generalizing b with
  | nil => rfl
  | cons p t ih =>
    obtain ⟨k', v'⟩ := p
    simp only [NMap.wfFrom, Bool.and_eq_true, decide_eq_true_eq] at h
    simp only [NMap.del]
    split
    · exact ih (NMap.wfFrom_mono h.2 (by omega))
    · simp only [NMap.wfFrom, Bool.and_eq_true, decide_eq_true_eq]
      exact ⟨h.1, ih h.2⟩

theorem NMap.filter_wfFrom [DecidableEq α] {d : Nat → α} {b : Nat} {m : NMap α} (f : Nat × α → Bool)
    (h : NMap.wfFrom d b m = true) : NMap.wfFrom d b (m.filter f) = true := by
  induction m generalizing b with
  | nil => rfl
  | cons p t ih =>
    obtain ⟨k', v'⟩ := p
    simp only [NMap.wfFrom, Bool.and_eq_true, decide_eq_true_eq] at h
    simp only [List.filter_cons]
    split
    · simp only [NMap.wfFrom, Bool.and_eq_true, decide_eq_true_eq]
      exact ⟨h.1, ih h.2⟩
    · exact ih (NMap.wfFrom_mono h.2 (by omega))

/-- The empty map is in canonical form. -/
@[simp] theorem NMap.wf_nil [DecidableEq α] (d : Nat → α) : NMap.wf d [] = true := rfl

/-- A write keeps the canonical form. -/
theorem NMap.set_wf [DecidableEq α] {d : Nat → α} {m : NMap α} (k : Nat) (v : α) (h : NMap.wf d m = true) :
    NMap.wf d (NMap.set d m k v) = true := by
  unfold NMap.set
  split
  · exact NMap.del_wfFrom h
  · exact NMap.put_wfFrom h (Nat.zero_le _) ‹_›

/-- Dropping entries keeps the canonical form. -/
theorem NMap.filter_wf [DecidableEq α] {d : Nat → α} {m : NMap α} (f : Nat × α → Bool) (h : NMap.wf d m = true) :
    NMap.wf d (m.filter f) = true := NMap.filter_wfFrom f h

/-- Changing every entry keeps the canonical form. -/
theorem NMap.update_wf [DecidableEq α] {d : Nat → α} (f : Nat → α → α) {m : NMap α} (h : NMap.wf d m = true) : NMap.wf d (NMap.update d f m) = true := by
  unfold NMap.update
  have aux : ∀ (l : List (Nat × α)) (acc : NMap α), NMap.wf d acc = true →
      NMap.wf d (l.foldl (fun acc p => NMap.set d acc p.1 (f p.1 p.2)) acc) = true := by
    intro l
    induction l with
    | nil => intro acc h; exact h
    | cons p t ih => intro acc h; exact ih _ (NMap.set_wf _ _ h)
  exact aux m m h

end Sys2Proof.Machine
end

