-- ==== Sys2Proof/Laws/State.lean ====
section
/-! SUPPORT. What each named update of the part's state leaves unchanged, field by field, and what it makes the field it writes
read. -/

namespace Sys2Proof.Machine

/-! ### Chip.wr writes `regs` only -/

@[simp] theorem Chip.wr_mem (c : Chip) (a : Nat) (v : Word) : (c.wr a v).mem = c.mem := rfl
@[simp] theorem Chip.wr_recErr (c : Chip) (a : Nat) (v : Word) : (c.wr a v).recErr = c.recErr := rfl
@[simp] theorem Chip.wr_full (c : Chip) (a : Nat) (v : Word) : (c.wr a v).full = c.full := rfl
@[simp] theorem Chip.wr_par (c : Chip) (a : Nat) (v : Word) : (c.wr a v).par = c.par := rfl
@[simp] theorem Chip.wr_waits (c : Chip) (a : Nat) (v : Word) : (c.wr a v).waits = c.waits := rfl
@[simp] theorem Chip.wr_resends (c : Chip) (a : Nat) (v : Word) : (c.wr a v).resends = c.resends := rfl
@[simp] theorem Chip.wr_gals (c : Chip) (a : Nat) (v : Word) : (c.wr a v).gals = c.gals := rfl
@[simp] theorem Chip.wr_wings (c : Chip) (a : Nat) (v : Word) : (c.wr a v).wings = c.wings := rfl
@[simp] theorem Chip.wr_dies (c : Chip) (a : Nat) (v : Word) : (c.wr a v).dies = c.dies := rfl
@[simp] theorem Chip.wr_tasks (c : Chip) (a : Nat) (v : Word) : (c.wr a v).tasks = c.tasks := rfl
@[simp] theorem Chip.wr_cat (c : Chip) (a : Nat) (v : Word) : (c.wr a v).cat = c.cat := rfl
@[simp] theorem Chip.wr_catLate (c : Chip) (a : Nat) (v : Word) : (c.wr a v).catLate = c.catLate := rfl
@[simp] theorem Chip.wr_planLate (c : Chip) (a : Nat) (v : Word) : (c.wr a v).planLate = c.planLate := rfl
@[simp] theorem Chip.wr_pinDue (c : Chip) (a : Nat) (v : Word) : (c.wr a v).pinDue = c.pinDue := rfl
@[simp] theorem Chip.wr_redirTask (c : Chip) (a : Nat) (v : Word) : (c.wr a v).redirTask = c.redirTask := rfl
@[simp] theorem Chip.wr_pairs (c : Chip) (a : Nat) (v : Word) : (c.wr a v).pairs = c.pairs := rfl
@[simp] theorem Chip.wr_queues (c : Chip) (a : Nat) (v : Word) : (c.wr a v).queues = c.queues := rfl
@[simp] theorem Chip.wr_putWait (c : Chip) (a : Nat) (v : Word) : (c.wr a v).putWait = c.putWait := rfl
@[simp] theorem Chip.wr_takeWait (c : Chip) (a : Nat) (v : Word) : (c.wr a v).takeWait = c.takeWait := rfl
@[simp] theorem Chip.wr_taken (c : Chip) (a : Nat) (v : Word) : (c.wr a v).taken = c.taken := rfl
@[simp] theorem Chip.wr_census (c : Chip) (a : Nat) (v : Word) : (c.wr a v).census = c.census := rfl
@[simp] theorem Chip.wr_histStep (c : Chip) (a : Nat) (v : Word) : (c.wr a v).histStep = c.histStep := rfl
@[simp] theorem Chip.wr_tick (c : Chip) (a : Nat) (v : Word) : (c.wr a v).tick = c.tick := rfl
@[simp] theorem Chip.wr_step (c : Chip) (a : Nat) (v : Word) : (c.wr a v).step = c.step := rfl
@[simp] theorem Chip.wr_move (c : Chip) (a : Nat) (v : Word) : (c.wr a v).move = c.move := rfl
@[simp] theorem Chip.wr_toMove (c : Chip) (a : Nat) (v : Word) : (c.wr a v).toMove = c.toMove := rfl
@[simp] theorem Chip.wr_recov (c : Chip) (a : Nat) (v : Word) : (c.wr a v).recov = c.recov := rfl
@[simp] theorem Chip.wr_haltDue (c : Chip) (a : Nat) (v : Word) : (c.wr a v).haltDue = c.haltDue := rfl
@[simp] theorem Chip.wr_assist (c : Chip) (a : Nat) (v : Word) : (c.wr a v).assist = c.assist := rfl
@[simp] theorem Chip.wr_hosts (c : Chip) (a : Nat) (v : Word) : (c.wr a v).hosts = c.hosts := rfl
@[simp] theorem Chip.wr_hostMem (c : Chip) (a : Nat) (v : Word) : (c.wr a v).hostMem = c.hostMem := rfl
@[simp] theorem Chip.wr_contexts (c : Chip) (a : Nat) (v : Word) : (c.wr a v).contexts = c.contexts := rfl
@[simp] theorem Chip.wr_busData (c : Chip) (a : Nat) (v : Word) : (c.wr a v).busData = c.busData := rfl
@[simp] theorem Chip.wr_busBytes (c : Chip) (a : Nat) (v : Word) : (c.wr a v).busBytes = c.busBytes := rfl
@[simp] theorem Chip.wr_lineOut (c : Chip) (a : Nat) (v : Word) : (c.wr a v).lineOut = c.lineOut := rfl
@[simp] theorem Chip.wr_linePoison (c : Chip) (a : Nat) (v : Word) : (c.wr a v).linePoison = c.linePoison := rfl
@[simp] theorem Chip.wr_boot (c : Chip) (a : Nat) (v : Word) : (c.wr a v).boot = c.boot := rfl
@[simp] theorem Chip.wr_free (c : Chip) (a : Nat) (v : Word) : (c.wr a v).free = c.free := rfl
@[simp] theorem Chip.wr_read_gal (c : Chip) (a : Nat) (v : Word) (n' g' : Nat) : (c.wr a v).gal n' g' = c.gal n' g' := rfl
@[simp] theorem Chip.wr_read_wing (c : Chip) (a : Nat) (v : Word) (n' : Nat) : (c.wr a v).wing n' = c.wing n' := rfl
@[simp] theorem Chip.wr_read_die (c : Chip) (a : Nat) (v : Word) (d' : Nat) : (c.wr a v).die d' = c.die d' := rfl
@[simp] theorem Chip.wr_read_task (c : Chip) (a : Nat) (v : Word) (t' : Nat) : (c.wr a v).task t' = c.task t' := rfl
@[simp] theorem Chip.wr_read_host (c : Chip) (a : Nat) (v : Word) (h' : Nat) : (c.wr a v).host h' = c.host h' := rfl
@[simp] theorem Chip.wr_read_pair (c : Chip) (a : Nat) (v : Word) (n' i' : Nat) : (c.wr a v).pair n' i' = c.pair n' i' := rfl
@[simp] theorem Chip.wr_read_queue (c : Chip) (a : Nat) (v : Word) (q' : Nat) : (c.wr a v).queue q' = c.queue q' := rfl
@[simp] theorem Chip.wr_read_cate (c : Chip) (a : Nat) (v : Word) (i' : Nat) : (c.wr a v).cate i' = c.cate i' := rfl
@[simp] theorem Chip.wr_read_byte (c : Chip) (a : Nat) (v : Word) (a' : Nat) : (c.wr a v).byte a' = c.byte a' := rfl
@[simp] theorem Chip.wr_read_isFull (c : Chip) (a : Nat) (v : Word) (a' : Nat) : (c.wr a v).isFull a' = c.isFull a' := rfl
@[simp] theorem Chip.wr_read_parAt (c : Chip) (a : Nat) (v : Word) (a' : Nat) : (c.wr a v).parAt a' = c.parAt a' := rfl

/-! ### Chip.setFld writes `regs` only -/

@[simp] theorem Chip.setFld_mem (c : Chip) (a h l x : Nat) : (c.setFld a h l x).mem = c.mem := rfl
@[simp] theorem Chip.setFld_recErr (c : Chip) (a h l x : Nat) : (c.setFld a h l x).recErr = c.recErr := rfl
@[simp] theorem Chip.setFld_full (c : Chip) (a h l x : Nat) : (c.setFld a h l x).full = c.full := rfl
@[simp] theorem Chip.setFld_par (c : Chip) (a h l x : Nat) : (c.setFld a h l x).par = c.par := rfl
@[simp] theorem Chip.setFld_waits (c : Chip) (a h l x : Nat) : (c.setFld a h l x).waits = c.waits := rfl
@[simp] theorem Chip.setFld_resends (c : Chip) (a h l x : Nat) : (c.setFld a h l x).resends = c.resends := rfl
@[simp] theorem Chip.setFld_gals (c : Chip) (a h l x : Nat) : (c.setFld a h l x).gals = c.gals := rfl
@[simp] theorem Chip.setFld_wings (c : Chip) (a h l x : Nat) : (c.setFld a h l x).wings = c.wings := rfl
@[simp] theorem Chip.setFld_dies (c : Chip) (a h l x : Nat) : (c.setFld a h l x).dies = c.dies := rfl
@[simp] theorem Chip.setFld_tasks (c : Chip) (a h l x : Nat) : (c.setFld a h l x).tasks = c.tasks := rfl
@[simp] theorem Chip.setFld_cat (c : Chip) (a h l x : Nat) : (c.setFld a h l x).cat = c.cat := rfl
@[simp] theorem Chip.setFld_catLate (c : Chip) (a h l x : Nat) : (c.setFld a h l x).catLate = c.catLate := rfl
@[simp] theorem Chip.setFld_planLate (c : Chip) (a h l x : Nat) : (c.setFld a h l x).planLate = c.planLate := rfl
@[simp] theorem Chip.setFld_pinDue (c : Chip) (a h l x : Nat) : (c.setFld a h l x).pinDue = c.pinDue := rfl
@[simp] theorem Chip.setFld_redirTask (c : Chip) (a h l x : Nat) : (c.setFld a h l x).redirTask = c.redirTask := rfl
@[simp] theorem Chip.setFld_pairs (c : Chip) (a h l x : Nat) : (c.setFld a h l x).pairs = c.pairs := rfl
@[simp] theorem Chip.setFld_queues (c : Chip) (a h l x : Nat) : (c.setFld a h l x).queues = c.queues := rfl
@[simp] theorem Chip.setFld_putWait (c : Chip) (a h l x : Nat) : (c.setFld a h l x).putWait = c.putWait := rfl
@[simp] theorem Chip.setFld_takeWait (c : Chip) (a h l x : Nat) : (c.setFld a h l x).takeWait = c.takeWait := rfl
@[simp] theorem Chip.setFld_taken (c : Chip) (a h l x : Nat) : (c.setFld a h l x).taken = c.taken := rfl
@[simp] theorem Chip.setFld_census (c : Chip) (a h l x : Nat) : (c.setFld a h l x).census = c.census := rfl
@[simp] theorem Chip.setFld_histStep (c : Chip) (a h l x : Nat) : (c.setFld a h l x).histStep = c.histStep := rfl
@[simp] theorem Chip.setFld_tick (c : Chip) (a h l x : Nat) : (c.setFld a h l x).tick = c.tick := rfl
@[simp] theorem Chip.setFld_step (c : Chip) (a h l x : Nat) : (c.setFld a h l x).step = c.step := rfl
@[simp] theorem Chip.setFld_move (c : Chip) (a h l x : Nat) : (c.setFld a h l x).move = c.move := rfl
@[simp] theorem Chip.setFld_toMove (c : Chip) (a h l x : Nat) : (c.setFld a h l x).toMove = c.toMove := rfl
@[simp] theorem Chip.setFld_recov (c : Chip) (a h l x : Nat) : (c.setFld a h l x).recov = c.recov := rfl
@[simp] theorem Chip.setFld_haltDue (c : Chip) (a h l x : Nat) : (c.setFld a h l x).haltDue = c.haltDue := rfl
@[simp] theorem Chip.setFld_assist (c : Chip) (a h l x : Nat) : (c.setFld a h l x).assist = c.assist := rfl
@[simp] theorem Chip.setFld_hosts (c : Chip) (a h l x : Nat) : (c.setFld a h l x).hosts = c.hosts := rfl
@[simp] theorem Chip.setFld_hostMem (c : Chip) (a h l x : Nat) : (c.setFld a h l x).hostMem = c.hostMem := rfl
@[simp] theorem Chip.setFld_contexts (c : Chip) (a h l x : Nat) : (c.setFld a h l x).contexts = c.contexts := rfl
@[simp] theorem Chip.setFld_busData (c : Chip) (a h l x : Nat) : (c.setFld a h l x).busData = c.busData := rfl
@[simp] theorem Chip.setFld_busBytes (c : Chip) (a h l x : Nat) : (c.setFld a h l x).busBytes = c.busBytes := rfl
@[simp] theorem Chip.setFld_lineOut (c : Chip) (a h l x : Nat) : (c.setFld a h l x).lineOut = c.lineOut := rfl
@[simp] theorem Chip.setFld_linePoison (c : Chip) (a h l x : Nat) : (c.setFld a h l x).linePoison = c.linePoison := rfl
@[simp] theorem Chip.setFld_boot (c : Chip) (a h l x : Nat) : (c.setFld a h l x).boot = c.boot := rfl
@[simp] theorem Chip.setFld_free (c : Chip) (a h l x : Nat) : (c.setFld a h l x).free = c.free := rfl
@[simp] theorem Chip.setFld_read_gal (c : Chip) (a h l x : Nat) (n' g' : Nat) : (c.setFld a h l x).gal n' g' = c.gal n' g' := rfl
@[simp] theorem Chip.setFld_read_wing (c : Chip) (a h l x : Nat) (n' : Nat) : (c.setFld a h l x).wing n' = c.wing n' := rfl
@[simp] theorem Chip.setFld_read_die (c : Chip) (a h l x : Nat) (d' : Nat) : (c.setFld a h l x).die d' = c.die d' := rfl
@[simp] theorem Chip.setFld_read_task (c : Chip) (a h l x : Nat) (t' : Nat) : (c.setFld a h l x).task t' = c.task t' := rfl
@[simp] theorem Chip.setFld_read_host (c : Chip) (a h l x : Nat) (h' : Nat) : (c.setFld a h l x).host h' = c.host h' := rfl
@[simp] theorem Chip.setFld_read_pair (c : Chip) (a h l x : Nat) (n' i' : Nat) : (c.setFld a h l x).pair n' i' = c.pair n' i' := rfl
@[simp] theorem Chip.setFld_read_queue (c : Chip) (a h l x : Nat) (q' : Nat) : (c.setFld a h l x).queue q' = c.queue q' := rfl
@[simp] theorem Chip.setFld_read_cate (c : Chip) (a h l x : Nat) (i' : Nat) : (c.setFld a h l x).cate i' = c.cate i' := rfl
@[simp] theorem Chip.setFld_read_byte (c : Chip) (a h l x : Nat) (a' : Nat) : (c.setFld a h l x).byte a' = c.byte a' := rfl
@[simp] theorem Chip.setFld_read_isFull (c : Chip) (a h l x : Nat) (a' : Nat) : (c.setFld a h l x).isFull a' = c.isFull a' := rfl
@[simp] theorem Chip.setFld_read_parAt (c : Chip) (a h l x : Nat) (a' : Nat) : (c.setFld a h l x).parAt a' = c.parAt a' := rfl

/-! ### Chip.setFlag writes `regs` only -/

@[simp] theorem Chip.setFlag_mem (c : Chip) (a i : Nat) (b : Bool) : (c.setFlag a i b).mem = c.mem := rfl
@[simp] theorem Chip.setFlag_recErr (c : Chip) (a i : Nat) (b : Bool) : (c.setFlag a i b).recErr = c.recErr := rfl
@[simp] theorem Chip.setFlag_full (c : Chip) (a i : Nat) (b : Bool) : (c.setFlag a i b).full = c.full := rfl
@[simp] theorem Chip.setFlag_par (c : Chip) (a i : Nat) (b : Bool) : (c.setFlag a i b).par = c.par := rfl
@[simp] theorem Chip.setFlag_waits (c : Chip) (a i : Nat) (b : Bool) : (c.setFlag a i b).waits = c.waits := rfl
@[simp] theorem Chip.setFlag_resends (c : Chip) (a i : Nat) (b : Bool) : (c.setFlag a i b).resends = c.resends := rfl
@[simp] theorem Chip.setFlag_gals (c : Chip) (a i : Nat) (b : Bool) : (c.setFlag a i b).gals = c.gals := rfl
@[simp] theorem Chip.setFlag_wings (c : Chip) (a i : Nat) (b : Bool) : (c.setFlag a i b).wings = c.wings := rfl
@[simp] theorem Chip.setFlag_dies (c : Chip) (a i : Nat) (b : Bool) : (c.setFlag a i b).dies = c.dies := rfl
@[simp] theorem Chip.setFlag_tasks (c : Chip) (a i : Nat) (b : Bool) : (c.setFlag a i b).tasks = c.tasks := rfl
@[simp] theorem Chip.setFlag_cat (c : Chip) (a i : Nat) (b : Bool) : (c.setFlag a i b).cat = c.cat := rfl
@[simp] theorem Chip.setFlag_catLate (c : Chip) (a i : Nat) (b : Bool) : (c.setFlag a i b).catLate = c.catLate := rfl
@[simp] theorem Chip.setFlag_planLate (c : Chip) (a i : Nat) (b : Bool) : (c.setFlag a i b).planLate = c.planLate := rfl
@[simp] theorem Chip.setFlag_pinDue (c : Chip) (a i : Nat) (b : Bool) : (c.setFlag a i b).pinDue = c.pinDue := rfl
@[simp] theorem Chip.setFlag_redirTask (c : Chip) (a i : Nat) (b : Bool) : (c.setFlag a i b).redirTask = c.redirTask := rfl
@[simp] theorem Chip.setFlag_pairs (c : Chip) (a i : Nat) (b : Bool) : (c.setFlag a i b).pairs = c.pairs := rfl
@[simp] theorem Chip.setFlag_queues (c : Chip) (a i : Nat) (b : Bool) : (c.setFlag a i b).queues = c.queues := rfl
@[simp] theorem Chip.setFlag_putWait (c : Chip) (a i : Nat) (b : Bool) : (c.setFlag a i b).putWait = c.putWait := rfl
@[simp] theorem Chip.setFlag_takeWait (c : Chip) (a i : Nat) (b : Bool) : (c.setFlag a i b).takeWait = c.takeWait := rfl
@[simp] theorem Chip.setFlag_taken (c : Chip) (a i : Nat) (b : Bool) : (c.setFlag a i b).taken = c.taken := rfl
@[simp] theorem Chip.setFlag_census (c : Chip) (a i : Nat) (b : Bool) : (c.setFlag a i b).census = c.census := rfl
@[simp] theorem Chip.setFlag_histStep (c : Chip) (a i : Nat) (b : Bool) : (c.setFlag a i b).histStep = c.histStep := rfl
@[simp] theorem Chip.setFlag_tick (c : Chip) (a i : Nat) (b : Bool) : (c.setFlag a i b).tick = c.tick := rfl
@[simp] theorem Chip.setFlag_step (c : Chip) (a i : Nat) (b : Bool) : (c.setFlag a i b).step = c.step := rfl
@[simp] theorem Chip.setFlag_move (c : Chip) (a i : Nat) (b : Bool) : (c.setFlag a i b).move = c.move := rfl
@[simp] theorem Chip.setFlag_toMove (c : Chip) (a i : Nat) (b : Bool) : (c.setFlag a i b).toMove = c.toMove := rfl
@[simp] theorem Chip.setFlag_recov (c : Chip) (a i : Nat) (b : Bool) : (c.setFlag a i b).recov = c.recov := rfl
@[simp] theorem Chip.setFlag_haltDue (c : Chip) (a i : Nat) (b : Bool) : (c.setFlag a i b).haltDue = c.haltDue := rfl
@[simp] theorem Chip.setFlag_assist (c : Chip) (a i : Nat) (b : Bool) : (c.setFlag a i b).assist = c.assist := rfl
@[simp] theorem Chip.setFlag_hosts (c : Chip) (a i : Nat) (b : Bool) : (c.setFlag a i b).hosts = c.hosts := rfl
@[simp] theorem Chip.setFlag_hostMem (c : Chip) (a i : Nat) (b : Bool) : (c.setFlag a i b).hostMem = c.hostMem := rfl
@[simp] theorem Chip.setFlag_contexts (c : Chip) (a i : Nat) (b : Bool) : (c.setFlag a i b).contexts = c.contexts := rfl
@[simp] theorem Chip.setFlag_busData (c : Chip) (a i : Nat) (b : Bool) : (c.setFlag a i b).busData = c.busData := rfl
@[simp] theorem Chip.setFlag_busBytes (c : Chip) (a i : Nat) (b : Bool) : (c.setFlag a i b).busBytes = c.busBytes := rfl
@[simp] theorem Chip.setFlag_lineOut (c : Chip) (a i : Nat) (b : Bool) : (c.setFlag a i b).lineOut = c.lineOut := rfl
@[simp] theorem Chip.setFlag_linePoison (c : Chip) (a i : Nat) (b : Bool) : (c.setFlag a i b).linePoison = c.linePoison := rfl
@[simp] theorem Chip.setFlag_boot (c : Chip) (a i : Nat) (b : Bool) : (c.setFlag a i b).boot = c.boot := rfl
@[simp] theorem Chip.setFlag_free (c : Chip) (a i : Nat) (b : Bool) : (c.setFlag a i b).free = c.free := rfl
@[simp] theorem Chip.setFlag_read_gal (c : Chip) (a i : Nat) (b : Bool) (n' g' : Nat) : (c.setFlag a i b).gal n' g' = c.gal n' g' := rfl
@[simp] theorem Chip.setFlag_read_wing (c : Chip) (a i : Nat) (b : Bool) (n' : Nat) : (c.setFlag a i b).wing n' = c.wing n' := rfl
@[simp] theorem Chip.setFlag_read_die (c : Chip) (a i : Nat) (b : Bool) (d' : Nat) : (c.setFlag a i b).die d' = c.die d' := rfl
@[simp] theorem Chip.setFlag_read_task (c : Chip) (a i : Nat) (b : Bool) (t' : Nat) : (c.setFlag a i b).task t' = c.task t' := rfl
@[simp] theorem Chip.setFlag_read_host (c : Chip) (a i : Nat) (b : Bool) (h' : Nat) : (c.setFlag a i b).host h' = c.host h' := rfl
@[simp] theorem Chip.setFlag_read_pair (c : Chip) (a i : Nat) (b : Bool) (n' i' : Nat) : (c.setFlag a i b).pair n' i' = c.pair n' i' := rfl
@[simp] theorem Chip.setFlag_read_queue (c : Chip) (a i : Nat) (b : Bool) (q' : Nat) : (c.setFlag a i b).queue q' = c.queue q' := rfl
@[simp] theorem Chip.setFlag_read_cate (c : Chip) (a i : Nat) (b : Bool) (i' : Nat) : (c.setFlag a i b).cate i' = c.cate i' := rfl
@[simp] theorem Chip.setFlag_read_byte (c : Chip) (a i : Nat) (b : Bool) (a' : Nat) : (c.setFlag a i b).byte a' = c.byte a' := rfl
@[simp] theorem Chip.setFlag_read_isFull (c : Chip) (a i : Nat) (b : Bool) (a' : Nat) : (c.setFlag a i b).isFull a' = c.isFull a' := rfl
@[simp] theorem Chip.setFlag_read_parAt (c : Chip) (a i : Nat) (b : Bool) (a' : Nat) : (c.setFlag a i b).parAt a' = c.parAt a' := rfl

/-! ### Chip.raise writes `regs` only -/

@[simp] theorem Chip.raise_mem (c : Chip) (a i k : Nat) : (c.raise a i k).mem = c.mem := by simp only [Chip.raise, Chip.countBy, Chip.setFlag_mem, Chip.setFld_mem]
@[simp] theorem Chip.raise_recErr (c : Chip) (a i k : Nat) : (c.raise a i k).recErr = c.recErr := by simp only [Chip.raise, Chip.countBy, Chip.setFlag_recErr, Chip.setFld_recErr]
@[simp] theorem Chip.raise_full (c : Chip) (a i k : Nat) : (c.raise a i k).full = c.full := by simp only [Chip.raise, Chip.countBy, Chip.setFlag_full, Chip.setFld_full]
@[simp] theorem Chip.raise_par (c : Chip) (a i k : Nat) : (c.raise a i k).par = c.par := by simp only [Chip.raise, Chip.countBy, Chip.setFlag_par, Chip.setFld_par]
@[simp] theorem Chip.raise_waits (c : Chip) (a i k : Nat) : (c.raise a i k).waits = c.waits := by simp only [Chip.raise, Chip.countBy, Chip.setFlag_waits, Chip.setFld_waits]
@[simp] theorem Chip.raise_resends (c : Chip) (a i k : Nat) : (c.raise a i k).resends = c.resends := by simp only [Chip.raise, Chip.countBy, Chip.setFlag_resends, Chip.setFld_resends]
@[simp] theorem Chip.raise_gals (c : Chip) (a i k : Nat) : (c.raise a i k).gals = c.gals := by simp only [Chip.raise, Chip.countBy, Chip.setFlag_gals, Chip.setFld_gals]
@[simp] theorem Chip.raise_wings (c : Chip) (a i k : Nat) : (c.raise a i k).wings = c.wings := by simp only [Chip.raise, Chip.countBy, Chip.setFlag_wings, Chip.setFld_wings]
@[simp] theorem Chip.raise_dies (c : Chip) (a i k : Nat) : (c.raise a i k).dies = c.dies := by simp only [Chip.raise, Chip.countBy, Chip.setFlag_dies, Chip.setFld_dies]
@[simp] theorem Chip.raise_tasks (c : Chip) (a i k : Nat) : (c.raise a i k).tasks = c.tasks := by simp only [Chip.raise, Chip.countBy, Chip.setFlag_tasks, Chip.setFld_tasks]
@[simp] theorem Chip.raise_cat (c : Chip) (a i k : Nat) : (c.raise a i k).cat = c.cat := by simp only [Chip.raise, Chip.countBy, Chip.setFlag_cat, Chip.setFld_cat]
@[simp] theorem Chip.raise_catLate (c : Chip) (a i k : Nat) : (c.raise a i k).catLate = c.catLate := by simp only [Chip.raise, Chip.countBy, Chip.setFlag_catLate, Chip.setFld_catLate]
@[simp] theorem Chip.raise_planLate (c : Chip) (a i k : Nat) : (c.raise a i k).planLate = c.planLate := by simp only [Chip.raise, Chip.countBy, Chip.setFlag_planLate, Chip.setFld_planLate]
@[simp] theorem Chip.raise_pinDue (c : Chip) (a i k : Nat) : (c.raise a i k).pinDue = c.pinDue := by simp only [Chip.raise, Chip.countBy, Chip.setFlag_pinDue, Chip.setFld_pinDue]
@[simp] theorem Chip.raise_redirTask (c : Chip) (a i k : Nat) : (c.raise a i k).redirTask = c.redirTask := by simp only [Chip.raise, Chip.countBy, Chip.setFlag_redirTask, Chip.setFld_redirTask]
@[simp] theorem Chip.raise_pairs (c : Chip) (a i k : Nat) : (c.raise a i k).pairs = c.pairs := by simp only [Chip.raise, Chip.countBy, Chip.setFlag_pairs, Chip.setFld_pairs]
@[simp] theorem Chip.raise_queues (c : Chip) (a i k : Nat) : (c.raise a i k).queues = c.queues := by simp only [Chip.raise, Chip.countBy, Chip.setFlag_queues, Chip.setFld_queues]
@[simp] theorem Chip.raise_putWait (c : Chip) (a i k : Nat) : (c.raise a i k).putWait = c.putWait := by simp only [Chip.raise, Chip.countBy, Chip.setFlag_putWait, Chip.setFld_putWait]
@[simp] theorem Chip.raise_takeWait (c : Chip) (a i k : Nat) : (c.raise a i k).takeWait = c.takeWait := by simp only [Chip.raise, Chip.countBy, Chip.setFlag_takeWait, Chip.setFld_takeWait]
@[simp] theorem Chip.raise_taken (c : Chip) (a i k : Nat) : (c.raise a i k).taken = c.taken := by simp only [Chip.raise, Chip.countBy, Chip.setFlag_taken, Chip.setFld_taken]
@[simp] theorem Chip.raise_census (c : Chip) (a i k : Nat) : (c.raise a i k).census = c.census := by simp only [Chip.raise, Chip.countBy, Chip.setFlag_census, Chip.setFld_census]
@[simp] theorem Chip.raise_histStep (c : Chip) (a i k : Nat) : (c.raise a i k).histStep = c.histStep := by simp only [Chip.raise, Chip.countBy, Chip.setFlag_histStep, Chip.setFld_histStep]
@[simp] theorem Chip.raise_tick (c : Chip) (a i k : Nat) : (c.raise a i k).tick = c.tick := by simp only [Chip.raise, Chip.countBy, Chip.setFlag_tick, Chip.setFld_tick]
@[simp] theorem Chip.raise_step (c : Chip) (a i k : Nat) : (c.raise a i k).step = c.step := by simp only [Chip.raise, Chip.countBy, Chip.setFlag_step, Chip.setFld_step]
@[simp] theorem Chip.raise_move (c : Chip) (a i k : Nat) : (c.raise a i k).move = c.move := by simp only [Chip.raise, Chip.countBy, Chip.setFlag_move, Chip.setFld_move]
@[simp] theorem Chip.raise_toMove (c : Chip) (a i k : Nat) : (c.raise a i k).toMove = c.toMove := by simp only [Chip.raise, Chip.countBy, Chip.setFlag_toMove, Chip.setFld_toMove]
@[simp] theorem Chip.raise_recov (c : Chip) (a i k : Nat) : (c.raise a i k).recov = c.recov := by simp only [Chip.raise, Chip.countBy, Chip.setFlag_recov, Chip.setFld_recov]
@[simp] theorem Chip.raise_haltDue (c : Chip) (a i k : Nat) : (c.raise a i k).haltDue = c.haltDue := by simp only [Chip.raise, Chip.countBy, Chip.setFlag_haltDue, Chip.setFld_haltDue]
@[simp] theorem Chip.raise_assist (c : Chip) (a i k : Nat) : (c.raise a i k).assist = c.assist := by simp only [Chip.raise, Chip.countBy, Chip.setFlag_assist, Chip.setFld_assist]
@[simp] theorem Chip.raise_hosts (c : Chip) (a i k : Nat) : (c.raise a i k).hosts = c.hosts := by simp only [Chip.raise, Chip.countBy, Chip.setFlag_hosts, Chip.setFld_hosts]
@[simp] theorem Chip.raise_hostMem (c : Chip) (a i k : Nat) : (c.raise a i k).hostMem = c.hostMem := by simp only [Chip.raise, Chip.countBy, Chip.setFlag_hostMem, Chip.setFld_hostMem]
@[simp] theorem Chip.raise_contexts (c : Chip) (a i k : Nat) : (c.raise a i k).contexts = c.contexts := by simp only [Chip.raise, Chip.countBy, Chip.setFlag_contexts, Chip.setFld_contexts]
@[simp] theorem Chip.raise_busData (c : Chip) (a i k : Nat) : (c.raise a i k).busData = c.busData := by simp only [Chip.raise, Chip.countBy, Chip.setFlag_busData, Chip.setFld_busData]
@[simp] theorem Chip.raise_busBytes (c : Chip) (a i k : Nat) : (c.raise a i k).busBytes = c.busBytes := by simp only [Chip.raise, Chip.countBy, Chip.setFlag_busBytes, Chip.setFld_busBytes]
@[simp] theorem Chip.raise_lineOut (c : Chip) (a i k : Nat) : (c.raise a i k).lineOut = c.lineOut := by simp only [Chip.raise, Chip.countBy, Chip.setFlag_lineOut, Chip.setFld_lineOut]
@[simp] theorem Chip.raise_linePoison (c : Chip) (a i k : Nat) : (c.raise a i k).linePoison = c.linePoison := by simp only [Chip.raise, Chip.countBy, Chip.setFlag_linePoison, Chip.setFld_linePoison]
@[simp] theorem Chip.raise_boot (c : Chip) (a i k : Nat) : (c.raise a i k).boot = c.boot := by simp only [Chip.raise, Chip.countBy, Chip.setFlag_boot, Chip.setFld_boot]
@[simp] theorem Chip.raise_free (c : Chip) (a i k : Nat) : (c.raise a i k).free = c.free := by simp only [Chip.raise, Chip.countBy, Chip.setFlag_free, Chip.setFld_free]
@[simp] theorem Chip.raise_read_gal (c : Chip) (a i k : Nat) (n' g' : Nat) : (c.raise a i k).gal n' g' = c.gal n' g' := by simp only [Chip.raise, Chip.countBy, Chip.setFlag_read_gal, Chip.setFld_read_gal]
@[simp] theorem Chip.raise_read_wing (c : Chip) (a i k : Nat) (n' : Nat) : (c.raise a i k).wing n' = c.wing n' := by simp only [Chip.raise, Chip.countBy, Chip.setFlag_read_wing, Chip.setFld_read_wing]
@[simp] theorem Chip.raise_read_die (c : Chip) (a i k : Nat) (d' : Nat) : (c.raise a i k).die d' = c.die d' := by simp only [Chip.raise, Chip.countBy, Chip.setFlag_read_die, Chip.setFld_read_die]
@[simp] theorem Chip.raise_read_task (c : Chip) (a i k : Nat) (t' : Nat) : (c.raise a i k).task t' = c.task t' := by simp only [Chip.raise, Chip.countBy, Chip.setFlag_read_task, Chip.setFld_read_task]
@[simp] theorem Chip.raise_read_host (c : Chip) (a i k : Nat) (h' : Nat) : (c.raise a i k).host h' = c.host h' := by simp only [Chip.raise, Chip.countBy, Chip.setFlag_read_host, Chip.setFld_read_host]
@[simp] theorem Chip.raise_read_pair (c : Chip) (a i k : Nat) (n' i' : Nat) : (c.raise a i k).pair n' i' = c.pair n' i' := by simp only [Chip.raise, Chip.countBy, Chip.setFlag_read_pair, Chip.setFld_read_pair]
@[simp] theorem Chip.raise_read_queue (c : Chip) (a i k : Nat) (q' : Nat) : (c.raise a i k).queue q' = c.queue q' := by simp only [Chip.raise, Chip.countBy, Chip.setFlag_read_queue, Chip.setFld_read_queue]
@[simp] theorem Chip.raise_read_cate (c : Chip) (a i k : Nat) (i' : Nat) : (c.raise a i k).cate i' = c.cate i' := by simp only [Chip.raise, Chip.countBy, Chip.setFlag_read_cate, Chip.setFld_read_cate]
@[simp] theorem Chip.raise_read_byte (c : Chip) (a i k : Nat) (a' : Nat) : (c.raise a i k).byte a' = c.byte a' := by simp only [Chip.raise, Chip.countBy, Chip.setFlag_read_byte, Chip.setFld_read_byte]
@[simp] theorem Chip.raise_read_isFull (c : Chip) (a i k : Nat) (a' : Nat) : (c.raise a i k).isFull a' = c.isFull a' := by simp only [Chip.raise, Chip.countBy, Chip.setFlag_read_isFull, Chip.setFld_read_isFull]
@[simp] theorem Chip.raise_read_parAt (c : Chip) (a i k : Nat) (a' : Nat) : (c.raise a i k).parAt a' = c.parAt a' := by simp only [Chip.raise, Chip.countBy, Chip.setFlag_read_parAt, Chip.setFld_read_parAt]

/-! ### Chip.draw writes `free` only -/

@[simp] theorem Chip.draw_regs (c : Chip)  : (c.draw).regs = c.regs := rfl
@[simp] theorem Chip.draw_mem (c : Chip)  : (c.draw).mem = c.mem := rfl
@[simp] theorem Chip.draw_recErr (c : Chip)  : (c.draw).recErr = c.recErr := rfl
@[simp] theorem Chip.draw_full (c : Chip)  : (c.draw).full = c.full := rfl
@[simp] theorem Chip.draw_par (c : Chip)  : (c.draw).par = c.par := rfl
@[simp] theorem Chip.draw_waits (c : Chip)  : (c.draw).waits = c.waits := rfl
@[simp] theorem Chip.draw_resends (c : Chip)  : (c.draw).resends = c.resends := rfl
@[simp] theorem Chip.draw_gals (c : Chip)  : (c.draw).gals = c.gals := rfl
@[simp] theorem Chip.draw_wings (c : Chip)  : (c.draw).wings = c.wings := rfl
@[simp] theorem Chip.draw_dies (c : Chip)  : (c.draw).dies = c.dies := rfl
@[simp] theorem Chip.draw_tasks (c : Chip)  : (c.draw).tasks = c.tasks := rfl
@[simp] theorem Chip.draw_cat (c : Chip)  : (c.draw).cat = c.cat := rfl
@[simp] theorem Chip.draw_catLate (c : Chip)  : (c.draw).catLate = c.catLate := rfl
@[simp] theorem Chip.draw_planLate (c : Chip)  : (c.draw).planLate = c.planLate := rfl
@[simp] theorem Chip.draw_pinDue (c : Chip)  : (c.draw).pinDue = c.pinDue := rfl
@[simp] theorem Chip.draw_redirTask (c : Chip)  : (c.draw).redirTask = c.redirTask := rfl
@[simp] theorem Chip.draw_pairs (c : Chip)  : (c.draw).pairs = c.pairs := rfl
@[simp] theorem Chip.draw_queues (c : Chip)  : (c.draw).queues = c.queues := rfl
@[simp] theorem Chip.draw_putWait (c : Chip)  : (c.draw).putWait = c.putWait := rfl
@[simp] theorem Chip.draw_takeWait (c : Chip)  : (c.draw).takeWait = c.takeWait := rfl
@[simp] theorem Chip.draw_taken (c : Chip)  : (c.draw).taken = c.taken := rfl
@[simp] theorem Chip.draw_census (c : Chip)  : (c.draw).census = c.census := rfl
@[simp] theorem Chip.draw_histStep (c : Chip)  : (c.draw).histStep = c.histStep := rfl
@[simp] theorem Chip.draw_tick (c : Chip)  : (c.draw).tick = c.tick := rfl
@[simp] theorem Chip.draw_step (c : Chip)  : (c.draw).step = c.step := rfl
@[simp] theorem Chip.draw_move (c : Chip)  : (c.draw).move = c.move := rfl
@[simp] theorem Chip.draw_toMove (c : Chip)  : (c.draw).toMove = c.toMove := rfl
@[simp] theorem Chip.draw_recov (c : Chip)  : (c.draw).recov = c.recov := rfl
@[simp] theorem Chip.draw_haltDue (c : Chip)  : (c.draw).haltDue = c.haltDue := rfl
@[simp] theorem Chip.draw_assist (c : Chip)  : (c.draw).assist = c.assist := rfl
@[simp] theorem Chip.draw_hosts (c : Chip)  : (c.draw).hosts = c.hosts := rfl
@[simp] theorem Chip.draw_hostMem (c : Chip)  : (c.draw).hostMem = c.hostMem := rfl
@[simp] theorem Chip.draw_contexts (c : Chip)  : (c.draw).contexts = c.contexts := rfl
@[simp] theorem Chip.draw_busData (c : Chip)  : (c.draw).busData = c.busData := rfl
@[simp] theorem Chip.draw_busBytes (c : Chip)  : (c.draw).busBytes = c.busBytes := rfl
@[simp] theorem Chip.draw_lineOut (c : Chip)  : (c.draw).lineOut = c.lineOut := rfl
@[simp] theorem Chip.draw_linePoison (c : Chip)  : (c.draw).linePoison = c.linePoison := rfl
@[simp] theorem Chip.draw_boot (c : Chip)  : (c.draw).boot = c.boot := rfl
@[simp] theorem Chip.draw_read_rd (c : Chip)  (a' : Nat) : (c.draw).rd a' = c.rd a' := rfl
@[simp] theorem Chip.draw_read_fld (c : Chip)  (a' h' l' : Nat) : (c.draw).fld a' h' l' = c.fld a' h' l' := rfl
@[simp] theorem Chip.draw_read_flag (c : Chip)  (a' i' : Nat) : (c.draw).flag a' i' = c.flag a' i' := rfl
@[simp] theorem Chip.draw_read_gal (c : Chip)  (n' g' : Nat) : (c.draw).gal n' g' = c.gal n' g' := rfl
@[simp] theorem Chip.draw_read_wing (c : Chip)  (n' : Nat) : (c.draw).wing n' = c.wing n' := rfl
@[simp] theorem Chip.draw_read_die (c : Chip)  (d' : Nat) : (c.draw).die d' = c.die d' := rfl
@[simp] theorem Chip.draw_read_task (c : Chip)  (t' : Nat) : (c.draw).task t' = c.task t' := rfl
@[simp] theorem Chip.draw_read_host (c : Chip)  (h' : Nat) : (c.draw).host h' = c.host h' := rfl
@[simp] theorem Chip.draw_read_pair (c : Chip)  (n' i' : Nat) : (c.draw).pair n' i' = c.pair n' i' := rfl
@[simp] theorem Chip.draw_read_queue (c : Chip)  (q' : Nat) : (c.draw).queue q' = c.queue q' := rfl
@[simp] theorem Chip.draw_read_cate (c : Chip)  (i' : Nat) : (c.draw).cate i' = c.cate i' := rfl
@[simp] theorem Chip.draw_read_byte (c : Chip)  (a' : Nat) : (c.draw).byte a' = c.byte a' := rfl
@[simp] theorem Chip.draw_read_isFull (c : Chip)  (a' : Nat) : (c.draw).isFull a' = c.isFull a' := rfl
@[simp] theorem Chip.draw_read_parAt (c : Chip)  (a' : Nat) : (c.draw).parAt a' = c.parAt a' := rfl

/-! ### Chip.setGal writes `gals` only -/

@[simp] theorem Chip.setGal_regs (c : Chip) (n g : Nat) (x : Gal) : (c.setGal n g x).regs = c.regs := rfl
@[simp] theorem Chip.setGal_mem (c : Chip) (n g : Nat) (x : Gal) : (c.setGal n g x).mem = c.mem := rfl
@[simp] theorem Chip.setGal_recErr (c : Chip) (n g : Nat) (x : Gal) : (c.setGal n g x).recErr = c.recErr := rfl
@[simp] theorem Chip.setGal_full (c : Chip) (n g : Nat) (x : Gal) : (c.setGal n g x).full = c.full := rfl
@[simp] theorem Chip.setGal_par (c : Chip) (n g : Nat) (x : Gal) : (c.setGal n g x).par = c.par := rfl
@[simp] theorem Chip.setGal_waits (c : Chip) (n g : Nat) (x : Gal) : (c.setGal n g x).waits = c.waits := rfl
@[simp] theorem Chip.setGal_resends (c : Chip) (n g : Nat) (x : Gal) : (c.setGal n g x).resends = c.resends := rfl
@[simp] theorem Chip.setGal_wings (c : Chip) (n g : Nat) (x : Gal) : (c.setGal n g x).wings = c.wings := rfl
@[simp] theorem Chip.setGal_dies (c : Chip) (n g : Nat) (x : Gal) : (c.setGal n g x).dies = c.dies := rfl
@[simp] theorem Chip.setGal_tasks (c : Chip) (n g : Nat) (x : Gal) : (c.setGal n g x).tasks = c.tasks := rfl
@[simp] theorem Chip.setGal_cat (c : Chip) (n g : Nat) (x : Gal) : (c.setGal n g x).cat = c.cat := rfl
@[simp] theorem Chip.setGal_catLate (c : Chip) (n g : Nat) (x : Gal) : (c.setGal n g x).catLate = c.catLate := rfl
@[simp] theorem Chip.setGal_planLate (c : Chip) (n g : Nat) (x : Gal) : (c.setGal n g x).planLate = c.planLate := rfl
@[simp] theorem Chip.setGal_pinDue (c : Chip) (n g : Nat) (x : Gal) : (c.setGal n g x).pinDue = c.pinDue := rfl
@[simp] theorem Chip.setGal_redirTask (c : Chip) (n g : Nat) (x : Gal) : (c.setGal n g x).redirTask = c.redirTask := rfl
@[simp] theorem Chip.setGal_pairs (c : Chip) (n g : Nat) (x : Gal) : (c.setGal n g x).pairs = c.pairs := rfl
@[simp] theorem Chip.setGal_queues (c : Chip) (n g : Nat) (x : Gal) : (c.setGal n g x).queues = c.queues := rfl
@[simp] theorem Chip.setGal_putWait (c : Chip) (n g : Nat) (x : Gal) : (c.setGal n g x).putWait = c.putWait := rfl
@[simp] theorem Chip.setGal_takeWait (c : Chip) (n g : Nat) (x : Gal) : (c.setGal n g x).takeWait = c.takeWait := rfl
@[simp] theorem Chip.setGal_taken (c : Chip) (n g : Nat) (x : Gal) : (c.setGal n g x).taken = c.taken := rfl
@[simp] theorem Chip.setGal_census (c : Chip) (n g : Nat) (x : Gal) : (c.setGal n g x).census = c.census := rfl
@[simp] theorem Chip.setGal_histStep (c : Chip) (n g : Nat) (x : Gal) : (c.setGal n g x).histStep = c.histStep := rfl
@[simp] theorem Chip.setGal_tick (c : Chip) (n g : Nat) (x : Gal) : (c.setGal n g x).tick = c.tick := rfl
@[simp] theorem Chip.setGal_step (c : Chip) (n g : Nat) (x : Gal) : (c.setGal n g x).step = c.step := rfl
@[simp] theorem Chip.setGal_move (c : Chip) (n g : Nat) (x : Gal) : (c.setGal n g x).move = c.move := rfl
@[simp] theorem Chip.setGal_toMove (c : Chip) (n g : Nat) (x : Gal) : (c.setGal n g x).toMove = c.toMove := rfl
@[simp] theorem Chip.setGal_recov (c : Chip) (n g : Nat) (x : Gal) : (c.setGal n g x).recov = c.recov := rfl
@[simp] theorem Chip.setGal_haltDue (c : Chip) (n g : Nat) (x : Gal) : (c.setGal n g x).haltDue = c.haltDue := rfl
@[simp] theorem Chip.setGal_assist (c : Chip) (n g : Nat) (x : Gal) : (c.setGal n g x).assist = c.assist := rfl
@[simp] theorem Chip.setGal_hosts (c : Chip) (n g : Nat) (x : Gal) : (c.setGal n g x).hosts = c.hosts := rfl
@[simp] theorem Chip.setGal_hostMem (c : Chip) (n g : Nat) (x : Gal) : (c.setGal n g x).hostMem = c.hostMem := rfl
@[simp] theorem Chip.setGal_contexts (c : Chip) (n g : Nat) (x : Gal) : (c.setGal n g x).contexts = c.contexts := rfl
@[simp] theorem Chip.setGal_busData (c : Chip) (n g : Nat) (x : Gal) : (c.setGal n g x).busData = c.busData := rfl
@[simp] theorem Chip.setGal_busBytes (c : Chip) (n g : Nat) (x : Gal) : (c.setGal n g x).busBytes = c.busBytes := rfl
@[simp] theorem Chip.setGal_lineOut (c : Chip) (n g : Nat) (x : Gal) : (c.setGal n g x).lineOut = c.lineOut := rfl
@[simp] theorem Chip.setGal_linePoison (c : Chip) (n g : Nat) (x : Gal) : (c.setGal n g x).linePoison = c.linePoison := rfl
@[simp] theorem Chip.setGal_boot (c : Chip) (n g : Nat) (x : Gal) : (c.setGal n g x).boot = c.boot := rfl
@[simp] theorem Chip.setGal_free (c : Chip) (n g : Nat) (x : Gal) : (c.setGal n g x).free = c.free := rfl
@[simp] theorem Chip.setGal_read_rd (c : Chip) (n g : Nat) (x : Gal) (a' : Nat) : (c.setGal n g x).rd a' = c.rd a' := rfl
@[simp] theorem Chip.setGal_read_fld (c : Chip) (n g : Nat) (x : Gal) (a' h' l' : Nat) : (c.setGal n g x).fld a' h' l' = c.fld a' h' l' := rfl
@[simp] theorem Chip.setGal_read_flag (c : Chip) (n g : Nat) (x : Gal) (a' i' : Nat) : (c.setGal n g x).flag a' i' = c.flag a' i' := rfl
@[simp] theorem Chip.setGal_read_wing (c : Chip) (n g : Nat) (x : Gal) (n' : Nat) : (c.setGal n g x).wing n' = c.wing n' := rfl
@[simp] theorem Chip.setGal_read_die (c : Chip) (n g : Nat) (x : Gal) (d' : Nat) : (c.setGal n g x).die d' = c.die d' := rfl
@[simp] theorem Chip.setGal_read_task (c : Chip) (n g : Nat) (x : Gal) (t' : Nat) : (c.setGal n g x).task t' = c.task t' := rfl
@[simp] theorem Chip.setGal_read_host (c : Chip) (n g : Nat) (x : Gal) (h' : Nat) : (c.setGal n g x).host h' = c.host h' := rfl
@[simp] theorem Chip.setGal_read_pair (c : Chip) (n g : Nat) (x : Gal) (n' i' : Nat) : (c.setGal n g x).pair n' i' = c.pair n' i' := rfl
@[simp] theorem Chip.setGal_read_queue (c : Chip) (n g : Nat) (x : Gal) (q' : Nat) : (c.setGal n g x).queue q' = c.queue q' := rfl
@[simp] theorem Chip.setGal_read_cate (c : Chip) (n g : Nat) (x : Gal) (i' : Nat) : (c.setGal n g x).cate i' = c.cate i' := rfl
@[simp] theorem Chip.setGal_read_byte (c : Chip) (n g : Nat) (x : Gal) (a' : Nat) : (c.setGal n g x).byte a' = c.byte a' := rfl
@[simp] theorem Chip.setGal_read_isFull (c : Chip) (n g : Nat) (x : Gal) (a' : Nat) : (c.setGal n g x).isFull a' = c.isFull a' := rfl
@[simp] theorem Chip.setGal_read_parAt (c : Chip) (n g : Nat) (x : Gal) (a' : Nat) : (c.setGal n g x).parAt a' = c.parAt a' := rfl

/-! ### Chip.modGal writes `gals` only -/

@[simp] theorem Chip.modGal_regs (c : Chip) (n g : Nat) (f : Gal → Gal) : (c.modGal n g f).regs = c.regs := rfl
@[simp] theorem Chip.modGal_mem (c : Chip) (n g : Nat) (f : Gal → Gal) : (c.modGal n g f).mem = c.mem := rfl
@[simp] theorem Chip.modGal_recErr (c : Chip) (n g : Nat) (f : Gal → Gal) : (c.modGal n g f).recErr = c.recErr := rfl
@[simp] theorem Chip.modGal_full (c : Chip) (n g : Nat) (f : Gal → Gal) : (c.modGal n g f).full = c.full := rfl
@[simp] theorem Chip.modGal_par (c : Chip) (n g : Nat) (f : Gal → Gal) : (c.modGal n g f).par = c.par := rfl
@[simp] theorem Chip.modGal_waits (c : Chip) (n g : Nat) (f : Gal → Gal) : (c.modGal n g f).waits = c.waits := rfl
@[simp] theorem Chip.modGal_resends (c : Chip) (n g : Nat) (f : Gal → Gal) : (c.modGal n g f).resends = c.resends := rfl
@[simp] theorem Chip.modGal_wings (c : Chip) (n g : Nat) (f : Gal → Gal) : (c.modGal n g f).wings = c.wings := rfl
@[simp] theorem Chip.modGal_dies (c : Chip) (n g : Nat) (f : Gal → Gal) : (c.modGal n g f).dies = c.dies := rfl
@[simp] theorem Chip.modGal_tasks (c : Chip) (n g : Nat) (f : Gal → Gal) : (c.modGal n g f).tasks = c.tasks := rfl
@[simp] theorem Chip.modGal_cat (c : Chip) (n g : Nat) (f : Gal → Gal) : (c.modGal n g f).cat = c.cat := rfl
@[simp] theorem Chip.modGal_catLate (c : Chip) (n g : Nat) (f : Gal → Gal) : (c.modGal n g f).catLate = c.catLate := rfl
@[simp] theorem Chip.modGal_planLate (c : Chip) (n g : Nat) (f : Gal → Gal) : (c.modGal n g f).planLate = c.planLate := rfl
@[simp] theorem Chip.modGal_pinDue (c : Chip) (n g : Nat) (f : Gal → Gal) : (c.modGal n g f).pinDue = c.pinDue := rfl
@[simp] theorem Chip.modGal_redirTask (c : Chip) (n g : Nat) (f : Gal → Gal) : (c.modGal n g f).redirTask = c.redirTask := rfl
@[simp] theorem Chip.modGal_pairs (c : Chip) (n g : Nat) (f : Gal → Gal) : (c.modGal n g f).pairs = c.pairs := rfl
@[simp] theorem Chip.modGal_queues (c : Chip) (n g : Nat) (f : Gal → Gal) : (c.modGal n g f).queues = c.queues := rfl
@[simp] theorem Chip.modGal_putWait (c : Chip) (n g : Nat) (f : Gal → Gal) : (c.modGal n g f).putWait = c.putWait := rfl
@[simp] theorem Chip.modGal_takeWait (c : Chip) (n g : Nat) (f : Gal → Gal) : (c.modGal n g f).takeWait = c.takeWait := rfl
@[simp] theorem Chip.modGal_taken (c : Chip) (n g : Nat) (f : Gal → Gal) : (c.modGal n g f).taken = c.taken := rfl
@[simp] theorem Chip.modGal_census (c : Chip) (n g : Nat) (f : Gal → Gal) : (c.modGal n g f).census = c.census := rfl
@[simp] theorem Chip.modGal_histStep (c : Chip) (n g : Nat) (f : Gal → Gal) : (c.modGal n g f).histStep = c.histStep := rfl
@[simp] theorem Chip.modGal_tick (c : Chip) (n g : Nat) (f : Gal → Gal) : (c.modGal n g f).tick = c.tick := rfl
@[simp] theorem Chip.modGal_step (c : Chip) (n g : Nat) (f : Gal → Gal) : (c.modGal n g f).step = c.step := rfl
@[simp] theorem Chip.modGal_move (c : Chip) (n g : Nat) (f : Gal → Gal) : (c.modGal n g f).move = c.move := rfl
@[simp] theorem Chip.modGal_toMove (c : Chip) (n g : Nat) (f : Gal → Gal) : (c.modGal n g f).toMove = c.toMove := rfl
@[simp] theorem Chip.modGal_recov (c : Chip) (n g : Nat) (f : Gal → Gal) : (c.modGal n g f).recov = c.recov := rfl
@[simp] theorem Chip.modGal_haltDue (c : Chip) (n g : Nat) (f : Gal → Gal) : (c.modGal n g f).haltDue = c.haltDue := rfl
@[simp] theorem Chip.modGal_assist (c : Chip) (n g : Nat) (f : Gal → Gal) : (c.modGal n g f).assist = c.assist := rfl
@[simp] theorem Chip.modGal_hosts (c : Chip) (n g : Nat) (f : Gal → Gal) : (c.modGal n g f).hosts = c.hosts := rfl
@[simp] theorem Chip.modGal_hostMem (c : Chip) (n g : Nat) (f : Gal → Gal) : (c.modGal n g f).hostMem = c.hostMem := rfl
@[simp] theorem Chip.modGal_contexts (c : Chip) (n g : Nat) (f : Gal → Gal) : (c.modGal n g f).contexts = c.contexts := rfl
@[simp] theorem Chip.modGal_busData (c : Chip) (n g : Nat) (f : Gal → Gal) : (c.modGal n g f).busData = c.busData := rfl
@[simp] theorem Chip.modGal_busBytes (c : Chip) (n g : Nat) (f : Gal → Gal) : (c.modGal n g f).busBytes = c.busBytes := rfl
@[simp] theorem Chip.modGal_lineOut (c : Chip) (n g : Nat) (f : Gal → Gal) : (c.modGal n g f).lineOut = c.lineOut := rfl
@[simp] theorem Chip.modGal_linePoison (c : Chip) (n g : Nat) (f : Gal → Gal) : (c.modGal n g f).linePoison = c.linePoison := rfl
@[simp] theorem Chip.modGal_boot (c : Chip) (n g : Nat) (f : Gal → Gal) : (c.modGal n g f).boot = c.boot := rfl
@[simp] theorem Chip.modGal_free (c : Chip) (n g : Nat) (f : Gal → Gal) : (c.modGal n g f).free = c.free := rfl
@[simp] theorem Chip.modGal_read_rd (c : Chip) (n g : Nat) (f : Gal → Gal) (a' : Nat) : (c.modGal n g f).rd a' = c.rd a' := rfl
@[simp] theorem Chip.modGal_read_fld (c : Chip) (n g : Nat) (f : Gal → Gal) (a' h' l' : Nat) : (c.modGal n g f).fld a' h' l' = c.fld a' h' l' := rfl
@[simp] theorem Chip.modGal_read_flag (c : Chip) (n g : Nat) (f : Gal → Gal) (a' i' : Nat) : (c.modGal n g f).flag a' i' = c.flag a' i' := rfl
@[simp] theorem Chip.modGal_read_wing (c : Chip) (n g : Nat) (f : Gal → Gal) (n' : Nat) : (c.modGal n g f).wing n' = c.wing n' := rfl
@[simp] theorem Chip.modGal_read_die (c : Chip) (n g : Nat) (f : Gal → Gal) (d' : Nat) : (c.modGal n g f).die d' = c.die d' := rfl
@[simp] theorem Chip.modGal_read_task (c : Chip) (n g : Nat) (f : Gal → Gal) (t' : Nat) : (c.modGal n g f).task t' = c.task t' := rfl
@[simp] theorem Chip.modGal_read_host (c : Chip) (n g : Nat) (f : Gal → Gal) (h' : Nat) : (c.modGal n g f).host h' = c.host h' := rfl
@[simp] theorem Chip.modGal_read_pair (c : Chip) (n g : Nat) (f : Gal → Gal) (n' i' : Nat) : (c.modGal n g f).pair n' i' = c.pair n' i' := rfl
@[simp] theorem Chip.modGal_read_queue (c : Chip) (n g : Nat) (f : Gal → Gal) (q' : Nat) : (c.modGal n g f).queue q' = c.queue q' := rfl
@[simp] theorem Chip.modGal_read_cate (c : Chip) (n g : Nat) (f : Gal → Gal) (i' : Nat) : (c.modGal n g f).cate i' = c.cate i' := rfl
@[simp] theorem Chip.modGal_read_byte (c : Chip) (n g : Nat) (f : Gal → Gal) (a' : Nat) : (c.modGal n g f).byte a' = c.byte a' := rfl
@[simp] theorem Chip.modGal_read_isFull (c : Chip) (n g : Nat) (f : Gal → Gal) (a' : Nat) : (c.modGal n g f).isFull a' = c.isFull a' := rfl
@[simp] theorem Chip.modGal_read_parAt (c : Chip) (n g : Nat) (f : Gal → Gal) (a' : Nat) : (c.modGal n g f).parAt a' = c.parAt a' := rfl

/-! ### Chip.setWing writes `wings` only -/

@[simp] theorem Chip.setWing_regs (c : Chip) (n : Nat) (x : WingSt) : (c.setWing n x).regs = c.regs := rfl
@[simp] theorem Chip.setWing_mem (c : Chip) (n : Nat) (x : WingSt) : (c.setWing n x).mem = c.mem := rfl
@[simp] theorem Chip.setWing_recErr (c : Chip) (n : Nat) (x : WingSt) : (c.setWing n x).recErr = c.recErr := rfl
@[simp] theorem Chip.setWing_full (c : Chip) (n : Nat) (x : WingSt) : (c.setWing n x).full = c.full := rfl
@[simp] theorem Chip.setWing_par (c : Chip) (n : Nat) (x : WingSt) : (c.setWing n x).par = c.par := rfl
@[simp] theorem Chip.setWing_waits (c : Chip) (n : Nat) (x : WingSt) : (c.setWing n x).waits = c.waits := rfl
@[simp] theorem Chip.setWing_resends (c : Chip) (n : Nat) (x : WingSt) : (c.setWing n x).resends = c.resends := rfl
@[simp] theorem Chip.setWing_gals (c : Chip) (n : Nat) (x : WingSt) : (c.setWing n x).gals = c.gals := rfl
@[simp] theorem Chip.setWing_dies (c : Chip) (n : Nat) (x : WingSt) : (c.setWing n x).dies = c.dies := rfl
@[simp] theorem Chip.setWing_tasks (c : Chip) (n : Nat) (x : WingSt) : (c.setWing n x).tasks = c.tasks := rfl
@[simp] theorem Chip.setWing_cat (c : Chip) (n : Nat) (x : WingSt) : (c.setWing n x).cat = c.cat := rfl
@[simp] theorem Chip.setWing_catLate (c : Chip) (n : Nat) (x : WingSt) : (c.setWing n x).catLate = c.catLate := rfl
@[simp] theorem Chip.setWing_planLate (c : Chip) (n : Nat) (x : WingSt) : (c.setWing n x).planLate = c.planLate := rfl
@[simp] theorem Chip.setWing_pinDue (c : Chip) (n : Nat) (x : WingSt) : (c.setWing n x).pinDue = c.pinDue := rfl
@[simp] theorem Chip.setWing_redirTask (c : Chip) (n : Nat) (x : WingSt) : (c.setWing n x).redirTask = c.redirTask := rfl
@[simp] theorem Chip.setWing_pairs (c : Chip) (n : Nat) (x : WingSt) : (c.setWing n x).pairs = c.pairs := rfl
@[simp] theorem Chip.setWing_queues (c : Chip) (n : Nat) (x : WingSt) : (c.setWing n x).queues = c.queues := rfl
@[simp] theorem Chip.setWing_putWait (c : Chip) (n : Nat) (x : WingSt) : (c.setWing n x).putWait = c.putWait := rfl
@[simp] theorem Chip.setWing_takeWait (c : Chip) (n : Nat) (x : WingSt) : (c.setWing n x).takeWait = c.takeWait := rfl
@[simp] theorem Chip.setWing_taken (c : Chip) (n : Nat) (x : WingSt) : (c.setWing n x).taken = c.taken := rfl
@[simp] theorem Chip.setWing_census (c : Chip) (n : Nat) (x : WingSt) : (c.setWing n x).census = c.census := rfl
@[simp] theorem Chip.setWing_histStep (c : Chip) (n : Nat) (x : WingSt) : (c.setWing n x).histStep = c.histStep := rfl
@[simp] theorem Chip.setWing_tick (c : Chip) (n : Nat) (x : WingSt) : (c.setWing n x).tick = c.tick := rfl
@[simp] theorem Chip.setWing_step (c : Chip) (n : Nat) (x : WingSt) : (c.setWing n x).step = c.step := rfl
@[simp] theorem Chip.setWing_move (c : Chip) (n : Nat) (x : WingSt) : (c.setWing n x).move = c.move := rfl
@[simp] theorem Chip.setWing_toMove (c : Chip) (n : Nat) (x : WingSt) : (c.setWing n x).toMove = c.toMove := rfl
@[simp] theorem Chip.setWing_recov (c : Chip) (n : Nat) (x : WingSt) : (c.setWing n x).recov = c.recov := rfl
@[simp] theorem Chip.setWing_haltDue (c : Chip) (n : Nat) (x : WingSt) : (c.setWing n x).haltDue = c.haltDue := rfl
@[simp] theorem Chip.setWing_assist (c : Chip) (n : Nat) (x : WingSt) : (c.setWing n x).assist = c.assist := rfl
@[simp] theorem Chip.setWing_hosts (c : Chip) (n : Nat) (x : WingSt) : (c.setWing n x).hosts = c.hosts := rfl
@[simp] theorem Chip.setWing_hostMem (c : Chip) (n : Nat) (x : WingSt) : (c.setWing n x).hostMem = c.hostMem := rfl
@[simp] theorem Chip.setWing_contexts (c : Chip) (n : Nat) (x : WingSt) : (c.setWing n x).contexts = c.contexts := rfl
@[simp] theorem Chip.setWing_busData (c : Chip) (n : Nat) (x : WingSt) : (c.setWing n x).busData = c.busData := rfl
@[simp] theorem Chip.setWing_busBytes (c : Chip) (n : Nat) (x : WingSt) : (c.setWing n x).busBytes = c.busBytes := rfl
@[simp] theorem Chip.setWing_lineOut (c : Chip) (n : Nat) (x : WingSt) : (c.setWing n x).lineOut = c.lineOut := rfl
@[simp] theorem Chip.setWing_linePoison (c : Chip) (n : Nat) (x : WingSt) : (c.setWing n x).linePoison = c.linePoison := rfl
@[simp] theorem Chip.setWing_boot (c : Chip) (n : Nat) (x : WingSt) : (c.setWing n x).boot = c.boot := rfl
@[simp] theorem Chip.setWing_free (c : Chip) (n : Nat) (x : WingSt) : (c.setWing n x).free = c.free := rfl
@[simp] theorem Chip.setWing_read_rd (c : Chip) (n : Nat) (x : WingSt) (a' : Nat) : (c.setWing n x).rd a' = c.rd a' := rfl
@[simp] theorem Chip.setWing_read_fld (c : Chip) (n : Nat) (x : WingSt) (a' h' l' : Nat) : (c.setWing n x).fld a' h' l' = c.fld a' h' l' := rfl
@[simp] theorem Chip.setWing_read_flag (c : Chip) (n : Nat) (x : WingSt) (a' i' : Nat) : (c.setWing n x).flag a' i' = c.flag a' i' := rfl
@[simp] theorem Chip.setWing_read_gal (c : Chip) (n : Nat) (x : WingSt) (n' g' : Nat) : (c.setWing n x).gal n' g' = c.gal n' g' := rfl
@[simp] theorem Chip.setWing_read_die (c : Chip) (n : Nat) (x : WingSt) (d' : Nat) : (c.setWing n x).die d' = c.die d' := rfl
@[simp] theorem Chip.setWing_read_task (c : Chip) (n : Nat) (x : WingSt) (t' : Nat) : (c.setWing n x).task t' = c.task t' := rfl
@[simp] theorem Chip.setWing_read_host (c : Chip) (n : Nat) (x : WingSt) (h' : Nat) : (c.setWing n x).host h' = c.host h' := rfl
@[simp] theorem Chip.setWing_read_pair (c : Chip) (n : Nat) (x : WingSt) (n' i' : Nat) : (c.setWing n x).pair n' i' = c.pair n' i' := rfl
@[simp] theorem Chip.setWing_read_queue (c : Chip) (n : Nat) (x : WingSt) (q' : Nat) : (c.setWing n x).queue q' = c.queue q' := rfl
@[simp] theorem Chip.setWing_read_cate (c : Chip) (n : Nat) (x : WingSt) (i' : Nat) : (c.setWing n x).cate i' = c.cate i' := rfl
@[simp] theorem Chip.setWing_read_byte (c : Chip) (n : Nat) (x : WingSt) (a' : Nat) : (c.setWing n x).byte a' = c.byte a' := rfl
@[simp] theorem Chip.setWing_read_isFull (c : Chip) (n : Nat) (x : WingSt) (a' : Nat) : (c.setWing n x).isFull a' = c.isFull a' := rfl
@[simp] theorem Chip.setWing_read_parAt (c : Chip) (n : Nat) (x : WingSt) (a' : Nat) : (c.setWing n x).parAt a' = c.parAt a' := rfl

/-! ### Chip.modWing writes `wings` only -/

@[simp] theorem Chip.modWing_regs (c : Chip) (n : Nat) (f : WingSt → WingSt) : (c.modWing n f).regs = c.regs := rfl
@[simp] theorem Chip.modWing_mem (c : Chip) (n : Nat) (f : WingSt → WingSt) : (c.modWing n f).mem = c.mem := rfl
@[simp] theorem Chip.modWing_recErr (c : Chip) (n : Nat) (f : WingSt → WingSt) : (c.modWing n f).recErr = c.recErr := rfl
@[simp] theorem Chip.modWing_full (c : Chip) (n : Nat) (f : WingSt → WingSt) : (c.modWing n f).full = c.full := rfl
@[simp] theorem Chip.modWing_par (c : Chip) (n : Nat) (f : WingSt → WingSt) : (c.modWing n f).par = c.par := rfl
@[simp] theorem Chip.modWing_waits (c : Chip) (n : Nat) (f : WingSt → WingSt) : (c.modWing n f).waits = c.waits := rfl
@[simp] theorem Chip.modWing_resends (c : Chip) (n : Nat) (f : WingSt → WingSt) : (c.modWing n f).resends = c.resends := rfl
@[simp] theorem Chip.modWing_gals (c : Chip) (n : Nat) (f : WingSt → WingSt) : (c.modWing n f).gals = c.gals := rfl
@[simp] theorem Chip.modWing_dies (c : Chip) (n : Nat) (f : WingSt → WingSt) : (c.modWing n f).dies = c.dies := rfl
@[simp] theorem Chip.modWing_tasks (c : Chip) (n : Nat) (f : WingSt → WingSt) : (c.modWing n f).tasks = c.tasks := rfl
@[simp] theorem Chip.modWing_cat (c : Chip) (n : Nat) (f : WingSt → WingSt) : (c.modWing n f).cat = c.cat := rfl
@[simp] theorem Chip.modWing_catLate (c : Chip) (n : Nat) (f : WingSt → WingSt) : (c.modWing n f).catLate = c.catLate := rfl
@[simp] theorem Chip.modWing_planLate (c : Chip) (n : Nat) (f : WingSt → WingSt) : (c.modWing n f).planLate = c.planLate := rfl
@[simp] theorem Chip.modWing_pinDue (c : Chip) (n : Nat) (f : WingSt → WingSt) : (c.modWing n f).pinDue = c.pinDue := rfl
@[simp] theorem Chip.modWing_redirTask (c : Chip) (n : Nat) (f : WingSt → WingSt) : (c.modWing n f).redirTask = c.redirTask := rfl
@[simp] theorem Chip.modWing_pairs (c : Chip) (n : Nat) (f : WingSt → WingSt) : (c.modWing n f).pairs = c.pairs := rfl
@[simp] theorem Chip.modWing_queues (c : Chip) (n : Nat) (f : WingSt → WingSt) : (c.modWing n f).queues = c.queues := rfl
@[simp] theorem Chip.modWing_putWait (c : Chip) (n : Nat) (f : WingSt → WingSt) : (c.modWing n f).putWait = c.putWait := rfl
@[simp] theorem Chip.modWing_takeWait (c : Chip) (n : Nat) (f : WingSt → WingSt) : (c.modWing n f).takeWait = c.takeWait := rfl
@[simp] theorem Chip.modWing_taken (c : Chip) (n : Nat) (f : WingSt → WingSt) : (c.modWing n f).taken = c.taken := rfl
@[simp] theorem Chip.modWing_census (c : Chip) (n : Nat) (f : WingSt → WingSt) : (c.modWing n f).census = c.census := rfl
@[simp] theorem Chip.modWing_histStep (c : Chip) (n : Nat) (f : WingSt → WingSt) : (c.modWing n f).histStep = c.histStep := rfl
@[simp] theorem Chip.modWing_tick (c : Chip) (n : Nat) (f : WingSt → WingSt) : (c.modWing n f).tick = c.tick := rfl
@[simp] theorem Chip.modWing_step (c : Chip) (n : Nat) (f : WingSt → WingSt) : (c.modWing n f).step = c.step := rfl
@[simp] theorem Chip.modWing_move (c : Chip) (n : Nat) (f : WingSt → WingSt) : (c.modWing n f).move = c.move := rfl
@[simp] theorem Chip.modWing_toMove (c : Chip) (n : Nat) (f : WingSt → WingSt) : (c.modWing n f).toMove = c.toMove := rfl
@[simp] theorem Chip.modWing_recov (c : Chip) (n : Nat) (f : WingSt → WingSt) : (c.modWing n f).recov = c.recov := rfl
@[simp] theorem Chip.modWing_haltDue (c : Chip) (n : Nat) (f : WingSt → WingSt) : (c.modWing n f).haltDue = c.haltDue := rfl
@[simp] theorem Chip.modWing_assist (c : Chip) (n : Nat) (f : WingSt → WingSt) : (c.modWing n f).assist = c.assist := rfl
@[simp] theorem Chip.modWing_hosts (c : Chip) (n : Nat) (f : WingSt → WingSt) : (c.modWing n f).hosts = c.hosts := rfl
@[simp] theorem Chip.modWing_hostMem (c : Chip) (n : Nat) (f : WingSt → WingSt) : (c.modWing n f).hostMem = c.hostMem := rfl
@[simp] theorem Chip.modWing_contexts (c : Chip) (n : Nat) (f : WingSt → WingSt) : (c.modWing n f).contexts = c.contexts := rfl
@[simp] theorem Chip.modWing_busData (c : Chip) (n : Nat) (f : WingSt → WingSt) : (c.modWing n f).busData = c.busData := rfl
@[simp] theorem Chip.modWing_busBytes (c : Chip) (n : Nat) (f : WingSt → WingSt) : (c.modWing n f).busBytes = c.busBytes := rfl
@[simp] theorem Chip.modWing_lineOut (c : Chip) (n : Nat) (f : WingSt → WingSt) : (c.modWing n f).lineOut = c.lineOut := rfl
@[simp] theorem Chip.modWing_linePoison (c : Chip) (n : Nat) (f : WingSt → WingSt) : (c.modWing n f).linePoison = c.linePoison := rfl
@[simp] theorem Chip.modWing_boot (c : Chip) (n : Nat) (f : WingSt → WingSt) : (c.modWing n f).boot = c.boot := rfl
@[simp] theorem Chip.modWing_free (c : Chip) (n : Nat) (f : WingSt → WingSt) : (c.modWing n f).free = c.free := rfl
@[simp] theorem Chip.modWing_read_rd (c : Chip) (n : Nat) (f : WingSt → WingSt) (a' : Nat) : (c.modWing n f).rd a' = c.rd a' := rfl
@[simp] theorem Chip.modWing_read_fld (c : Chip) (n : Nat) (f : WingSt → WingSt) (a' h' l' : Nat) : (c.modWing n f).fld a' h' l' = c.fld a' h' l' := rfl
@[simp] theorem Chip.modWing_read_flag (c : Chip) (n : Nat) (f : WingSt → WingSt) (a' i' : Nat) : (c.modWing n f).flag a' i' = c.flag a' i' := rfl
@[simp] theorem Chip.modWing_read_gal (c : Chip) (n : Nat) (f : WingSt → WingSt) (n' g' : Nat) : (c.modWing n f).gal n' g' = c.gal n' g' := rfl
@[simp] theorem Chip.modWing_read_die (c : Chip) (n : Nat) (f : WingSt → WingSt) (d' : Nat) : (c.modWing n f).die d' = c.die d' := rfl
@[simp] theorem Chip.modWing_read_task (c : Chip) (n : Nat) (f : WingSt → WingSt) (t' : Nat) : (c.modWing n f).task t' = c.task t' := rfl
@[simp] theorem Chip.modWing_read_host (c : Chip) (n : Nat) (f : WingSt → WingSt) (h' : Nat) : (c.modWing n f).host h' = c.host h' := rfl
@[simp] theorem Chip.modWing_read_pair (c : Chip) (n : Nat) (f : WingSt → WingSt) (n' i' : Nat) : (c.modWing n f).pair n' i' = c.pair n' i' := rfl
@[simp] theorem Chip.modWing_read_queue (c : Chip) (n : Nat) (f : WingSt → WingSt) (q' : Nat) : (c.modWing n f).queue q' = c.queue q' := rfl
@[simp] theorem Chip.modWing_read_cate (c : Chip) (n : Nat) (f : WingSt → WingSt) (i' : Nat) : (c.modWing n f).cate i' = c.cate i' := rfl
@[simp] theorem Chip.modWing_read_byte (c : Chip) (n : Nat) (f : WingSt → WingSt) (a' : Nat) : (c.modWing n f).byte a' = c.byte a' := rfl
@[simp] theorem Chip.modWing_read_isFull (c : Chip) (n : Nat) (f : WingSt → WingSt) (a' : Nat) : (c.modWing n f).isFull a' = c.isFull a' := rfl
@[simp] theorem Chip.modWing_read_parAt (c : Chip) (n : Nat) (f : WingSt → WingSt) (a' : Nat) : (c.modWing n f).parAt a' = c.parAt a' := rfl

/-! ### Chip.modDie writes `dies` only -/

@[simp] theorem Chip.modDie_regs (c : Chip) (d : Nat) (f : Die → Die) : (c.modDie d f).regs = c.regs := rfl
@[simp] theorem Chip.modDie_mem (c : Chip) (d : Nat) (f : Die → Die) : (c.modDie d f).mem = c.mem := rfl
@[simp] theorem Chip.modDie_recErr (c : Chip) (d : Nat) (f : Die → Die) : (c.modDie d f).recErr = c.recErr := rfl
@[simp] theorem Chip.modDie_full (c : Chip) (d : Nat) (f : Die → Die) : (c.modDie d f).full = c.full := rfl
@[simp] theorem Chip.modDie_par (c : Chip) (d : Nat) (f : Die → Die) : (c.modDie d f).par = c.par := rfl
@[simp] theorem Chip.modDie_waits (c : Chip) (d : Nat) (f : Die → Die) : (c.modDie d f).waits = c.waits := rfl
@[simp] theorem Chip.modDie_resends (c : Chip) (d : Nat) (f : Die → Die) : (c.modDie d f).resends = c.resends := rfl
@[simp] theorem Chip.modDie_gals (c : Chip) (d : Nat) (f : Die → Die) : (c.modDie d f).gals = c.gals := rfl
@[simp] theorem Chip.modDie_wings (c : Chip) (d : Nat) (f : Die → Die) : (c.modDie d f).wings = c.wings := rfl
@[simp] theorem Chip.modDie_tasks (c : Chip) (d : Nat) (f : Die → Die) : (c.modDie d f).tasks = c.tasks := rfl
@[simp] theorem Chip.modDie_cat (c : Chip) (d : Nat) (f : Die → Die) : (c.modDie d f).cat = c.cat := rfl
@[simp] theorem Chip.modDie_catLate (c : Chip) (d : Nat) (f : Die → Die) : (c.modDie d f).catLate = c.catLate := rfl
@[simp] theorem Chip.modDie_planLate (c : Chip) (d : Nat) (f : Die → Die) : (c.modDie d f).planLate = c.planLate := rfl
@[simp] theorem Chip.modDie_pinDue (c : Chip) (d : Nat) (f : Die → Die) : (c.modDie d f).pinDue = c.pinDue := rfl
@[simp] theorem Chip.modDie_redirTask (c : Chip) (d : Nat) (f : Die → Die) : (c.modDie d f).redirTask = c.redirTask := rfl
@[simp] theorem Chip.modDie_pairs (c : Chip) (d : Nat) (f : Die → Die) : (c.modDie d f).pairs = c.pairs := rfl
@[simp] theorem Chip.modDie_queues (c : Chip) (d : Nat) (f : Die → Die) : (c.modDie d f).queues = c.queues := rfl
@[simp] theorem Chip.modDie_putWait (c : Chip) (d : Nat) (f : Die → Die) : (c.modDie d f).putWait = c.putWait := rfl
@[simp] theorem Chip.modDie_takeWait (c : Chip) (d : Nat) (f : Die → Die) : (c.modDie d f).takeWait = c.takeWait := rfl
@[simp] theorem Chip.modDie_taken (c : Chip) (d : Nat) (f : Die → Die) : (c.modDie d f).taken = c.taken := rfl
@[simp] theorem Chip.modDie_census (c : Chip) (d : Nat) (f : Die → Die) : (c.modDie d f).census = c.census := rfl
@[simp] theorem Chip.modDie_histStep (c : Chip) (d : Nat) (f : Die → Die) : (c.modDie d f).histStep = c.histStep := rfl
@[simp] theorem Chip.modDie_tick (c : Chip) (d : Nat) (f : Die → Die) : (c.modDie d f).tick = c.tick := rfl
@[simp] theorem Chip.modDie_step (c : Chip) (d : Nat) (f : Die → Die) : (c.modDie d f).step = c.step := rfl
@[simp] theorem Chip.modDie_move (c : Chip) (d : Nat) (f : Die → Die) : (c.modDie d f).move = c.move := rfl
@[simp] theorem Chip.modDie_toMove (c : Chip) (d : Nat) (f : Die → Die) : (c.modDie d f).toMove = c.toMove := rfl
@[simp] theorem Chip.modDie_recov (c : Chip) (d : Nat) (f : Die → Die) : (c.modDie d f).recov = c.recov := rfl
@[simp] theorem Chip.modDie_haltDue (c : Chip) (d : Nat) (f : Die → Die) : (c.modDie d f).haltDue = c.haltDue := rfl
@[simp] theorem Chip.modDie_assist (c : Chip) (d : Nat) (f : Die → Die) : (c.modDie d f).assist = c.assist := rfl
@[simp] theorem Chip.modDie_hosts (c : Chip) (d : Nat) (f : Die → Die) : (c.modDie d f).hosts = c.hosts := rfl
@[simp] theorem Chip.modDie_hostMem (c : Chip) (d : Nat) (f : Die → Die) : (c.modDie d f).hostMem = c.hostMem := rfl
@[simp] theorem Chip.modDie_contexts (c : Chip) (d : Nat) (f : Die → Die) : (c.modDie d f).contexts = c.contexts := rfl
@[simp] theorem Chip.modDie_busData (c : Chip) (d : Nat) (f : Die → Die) : (c.modDie d f).busData = c.busData := rfl
@[simp] theorem Chip.modDie_busBytes (c : Chip) (d : Nat) (f : Die → Die) : (c.modDie d f).busBytes = c.busBytes := rfl
@[simp] theorem Chip.modDie_lineOut (c : Chip) (d : Nat) (f : Die → Die) : (c.modDie d f).lineOut = c.lineOut := rfl
@[simp] theorem Chip.modDie_linePoison (c : Chip) (d : Nat) (f : Die → Die) : (c.modDie d f).linePoison = c.linePoison := rfl
@[simp] theorem Chip.modDie_boot (c : Chip) (d : Nat) (f : Die → Die) : (c.modDie d f).boot = c.boot := rfl
@[simp] theorem Chip.modDie_free (c : Chip) (d : Nat) (f : Die → Die) : (c.modDie d f).free = c.free := rfl
@[simp] theorem Chip.modDie_read_rd (c : Chip) (d : Nat) (f : Die → Die) (a' : Nat) : (c.modDie d f).rd a' = c.rd a' := rfl
@[simp] theorem Chip.modDie_read_fld (c : Chip) (d : Nat) (f : Die → Die) (a' h' l' : Nat) : (c.modDie d f).fld a' h' l' = c.fld a' h' l' := rfl
@[simp] theorem Chip.modDie_read_flag (c : Chip) (d : Nat) (f : Die → Die) (a' i' : Nat) : (c.modDie d f).flag a' i' = c.flag a' i' := rfl
@[simp] theorem Chip.modDie_read_gal (c : Chip) (d : Nat) (f : Die → Die) (n' g' : Nat) : (c.modDie d f).gal n' g' = c.gal n' g' := rfl
@[simp] theorem Chip.modDie_read_wing (c : Chip) (d : Nat) (f : Die → Die) (n' : Nat) : (c.modDie d f).wing n' = c.wing n' := rfl
@[simp] theorem Chip.modDie_read_task (c : Chip) (d : Nat) (f : Die → Die) (t' : Nat) : (c.modDie d f).task t' = c.task t' := rfl
@[simp] theorem Chip.modDie_read_host (c : Chip) (d : Nat) (f : Die → Die) (h' : Nat) : (c.modDie d f).host h' = c.host h' := rfl
@[simp] theorem Chip.modDie_read_pair (c : Chip) (d : Nat) (f : Die → Die) (n' i' : Nat) : (c.modDie d f).pair n' i' = c.pair n' i' := rfl
@[simp] theorem Chip.modDie_read_queue (c : Chip) (d : Nat) (f : Die → Die) (q' : Nat) : (c.modDie d f).queue q' = c.queue q' := rfl
@[simp] theorem Chip.modDie_read_cate (c : Chip) (d : Nat) (f : Die → Die) (i' : Nat) : (c.modDie d f).cate i' = c.cate i' := rfl
@[simp] theorem Chip.modDie_read_byte (c : Chip) (d : Nat) (f : Die → Die) (a' : Nat) : (c.modDie d f).byte a' = c.byte a' := rfl
@[simp] theorem Chip.modDie_read_isFull (c : Chip) (d : Nat) (f : Die → Die) (a' : Nat) : (c.modDie d f).isFull a' = c.isFull a' := rfl
@[simp] theorem Chip.modDie_read_parAt (c : Chip) (d : Nat) (f : Die → Die) (a' : Nat) : (c.modDie d f).parAt a' = c.parAt a' := rfl

/-! ### Chip.setTask writes `tasks` only -/

@[simp] theorem Chip.setTask_regs (c : Chip) (t : Nat) (x : TaskSt) : (c.setTask t x).regs = c.regs := rfl
@[simp] theorem Chip.setTask_mem (c : Chip) (t : Nat) (x : TaskSt) : (c.setTask t x).mem = c.mem := rfl
@[simp] theorem Chip.setTask_recErr (c : Chip) (t : Nat) (x : TaskSt) : (c.setTask t x).recErr = c.recErr := rfl
@[simp] theorem Chip.setTask_full (c : Chip) (t : Nat) (x : TaskSt) : (c.setTask t x).full = c.full := rfl
@[simp] theorem Chip.setTask_par (c : Chip) (t : Nat) (x : TaskSt) : (c.setTask t x).par = c.par := rfl
@[simp] theorem Chip.setTask_waits (c : Chip) (t : Nat) (x : TaskSt) : (c.setTask t x).waits = c.waits := rfl
@[simp] theorem Chip.setTask_resends (c : Chip) (t : Nat) (x : TaskSt) : (c.setTask t x).resends = c.resends := rfl
@[simp] theorem Chip.setTask_gals (c : Chip) (t : Nat) (x : TaskSt) : (c.setTask t x).gals = c.gals := rfl
@[simp] theorem Chip.setTask_wings (c : Chip) (t : Nat) (x : TaskSt) : (c.setTask t x).wings = c.wings := rfl
@[simp] theorem Chip.setTask_dies (c : Chip) (t : Nat) (x : TaskSt) : (c.setTask t x).dies = c.dies := rfl
@[simp] theorem Chip.setTask_cat (c : Chip) (t : Nat) (x : TaskSt) : (c.setTask t x).cat = c.cat := rfl
@[simp] theorem Chip.setTask_catLate (c : Chip) (t : Nat) (x : TaskSt) : (c.setTask t x).catLate = c.catLate := rfl
@[simp] theorem Chip.setTask_planLate (c : Chip) (t : Nat) (x : TaskSt) : (c.setTask t x).planLate = c.planLate := rfl
@[simp] theorem Chip.setTask_pinDue (c : Chip) (t : Nat) (x : TaskSt) : (c.setTask t x).pinDue = c.pinDue := rfl
@[simp] theorem Chip.setTask_redirTask (c : Chip) (t : Nat) (x : TaskSt) : (c.setTask t x).redirTask = c.redirTask := rfl
@[simp] theorem Chip.setTask_pairs (c : Chip) (t : Nat) (x : TaskSt) : (c.setTask t x).pairs = c.pairs := rfl
@[simp] theorem Chip.setTask_queues (c : Chip) (t : Nat) (x : TaskSt) : (c.setTask t x).queues = c.queues := rfl
@[simp] theorem Chip.setTask_putWait (c : Chip) (t : Nat) (x : TaskSt) : (c.setTask t x).putWait = c.putWait := rfl
@[simp] theorem Chip.setTask_takeWait (c : Chip) (t : Nat) (x : TaskSt) : (c.setTask t x).takeWait = c.takeWait := rfl
@[simp] theorem Chip.setTask_taken (c : Chip) (t : Nat) (x : TaskSt) : (c.setTask t x).taken = c.taken := rfl
@[simp] theorem Chip.setTask_census (c : Chip) (t : Nat) (x : TaskSt) : (c.setTask t x).census = c.census := rfl
@[simp] theorem Chip.setTask_histStep (c : Chip) (t : Nat) (x : TaskSt) : (c.setTask t x).histStep = c.histStep := rfl
@[simp] theorem Chip.setTask_tick (c : Chip) (t : Nat) (x : TaskSt) : (c.setTask t x).tick = c.tick := rfl
@[simp] theorem Chip.setTask_step (c : Chip) (t : Nat) (x : TaskSt) : (c.setTask t x).step = c.step := rfl
@[simp] theorem Chip.setTask_move (c : Chip) (t : Nat) (x : TaskSt) : (c.setTask t x).move = c.move := rfl
@[simp] theorem Chip.setTask_toMove (c : Chip) (t : Nat) (x : TaskSt) : (c.setTask t x).toMove = c.toMove := rfl
@[simp] theorem Chip.setTask_recov (c : Chip) (t : Nat) (x : TaskSt) : (c.setTask t x).recov = c.recov := rfl
@[simp] theorem Chip.setTask_haltDue (c : Chip) (t : Nat) (x : TaskSt) : (c.setTask t x).haltDue = c.haltDue := rfl
@[simp] theorem Chip.setTask_assist (c : Chip) (t : Nat) (x : TaskSt) : (c.setTask t x).assist = c.assist := rfl
@[simp] theorem Chip.setTask_hosts (c : Chip) (t : Nat) (x : TaskSt) : (c.setTask t x).hosts = c.hosts := rfl
@[simp] theorem Chip.setTask_hostMem (c : Chip) (t : Nat) (x : TaskSt) : (c.setTask t x).hostMem = c.hostMem := rfl
@[simp] theorem Chip.setTask_contexts (c : Chip) (t : Nat) (x : TaskSt) : (c.setTask t x).contexts = c.contexts := rfl
@[simp] theorem Chip.setTask_busData (c : Chip) (t : Nat) (x : TaskSt) : (c.setTask t x).busData = c.busData := rfl
@[simp] theorem Chip.setTask_busBytes (c : Chip) (t : Nat) (x : TaskSt) : (c.setTask t x).busBytes = c.busBytes := rfl
@[simp] theorem Chip.setTask_lineOut (c : Chip) (t : Nat) (x : TaskSt) : (c.setTask t x).lineOut = c.lineOut := rfl
@[simp] theorem Chip.setTask_linePoison (c : Chip) (t : Nat) (x : TaskSt) : (c.setTask t x).linePoison = c.linePoison := rfl
@[simp] theorem Chip.setTask_boot (c : Chip) (t : Nat) (x : TaskSt) : (c.setTask t x).boot = c.boot := rfl
@[simp] theorem Chip.setTask_free (c : Chip) (t : Nat) (x : TaskSt) : (c.setTask t x).free = c.free := rfl
@[simp] theorem Chip.setTask_read_rd (c : Chip) (t : Nat) (x : TaskSt) (a' : Nat) : (c.setTask t x).rd a' = c.rd a' := rfl
@[simp] theorem Chip.setTask_read_fld (c : Chip) (t : Nat) (x : TaskSt) (a' h' l' : Nat) : (c.setTask t x).fld a' h' l' = c.fld a' h' l' := rfl
@[simp] theorem Chip.setTask_read_flag (c : Chip) (t : Nat) (x : TaskSt) (a' i' : Nat) : (c.setTask t x).flag a' i' = c.flag a' i' := rfl
@[simp] theorem Chip.setTask_read_gal (c : Chip) (t : Nat) (x : TaskSt) (n' g' : Nat) : (c.setTask t x).gal n' g' = c.gal n' g' := rfl
@[simp] theorem Chip.setTask_read_wing (c : Chip) (t : Nat) (x : TaskSt) (n' : Nat) : (c.setTask t x).wing n' = c.wing n' := rfl
@[simp] theorem Chip.setTask_read_die (c : Chip) (t : Nat) (x : TaskSt) (d' : Nat) : (c.setTask t x).die d' = c.die d' := rfl
@[simp] theorem Chip.setTask_read_host (c : Chip) (t : Nat) (x : TaskSt) (h' : Nat) : (c.setTask t x).host h' = c.host h' := rfl
@[simp] theorem Chip.setTask_read_pair (c : Chip) (t : Nat) (x : TaskSt) (n' i' : Nat) : (c.setTask t x).pair n' i' = c.pair n' i' := rfl
@[simp] theorem Chip.setTask_read_queue (c : Chip) (t : Nat) (x : TaskSt) (q' : Nat) : (c.setTask t x).queue q' = c.queue q' := rfl
@[simp] theorem Chip.setTask_read_cate (c : Chip) (t : Nat) (x : TaskSt) (i' : Nat) : (c.setTask t x).cate i' = c.cate i' := rfl
@[simp] theorem Chip.setTask_read_byte (c : Chip) (t : Nat) (x : TaskSt) (a' : Nat) : (c.setTask t x).byte a' = c.byte a' := rfl
@[simp] theorem Chip.setTask_read_isFull (c : Chip) (t : Nat) (x : TaskSt) (a' : Nat) : (c.setTask t x).isFull a' = c.isFull a' := rfl
@[simp] theorem Chip.setTask_read_parAt (c : Chip) (t : Nat) (x : TaskSt) (a' : Nat) : (c.setTask t x).parAt a' = c.parAt a' := rfl

/-! ### Chip.modTask writes `tasks` only -/

@[simp] theorem Chip.modTask_regs (c : Chip) (t : Nat) (f : TaskSt → TaskSt) : (c.modTask t f).regs = c.regs := rfl
@[simp] theorem Chip.modTask_mem (c : Chip) (t : Nat) (f : TaskSt → TaskSt) : (c.modTask t f).mem = c.mem := rfl
@[simp] theorem Chip.modTask_recErr (c : Chip) (t : Nat) (f : TaskSt → TaskSt) : (c.modTask t f).recErr = c.recErr := rfl
@[simp] theorem Chip.modTask_full (c : Chip) (t : Nat) (f : TaskSt → TaskSt) : (c.modTask t f).full = c.full := rfl
@[simp] theorem Chip.modTask_par (c : Chip) (t : Nat) (f : TaskSt → TaskSt) : (c.modTask t f).par = c.par := rfl
@[simp] theorem Chip.modTask_waits (c : Chip) (t : Nat) (f : TaskSt → TaskSt) : (c.modTask t f).waits = c.waits := rfl
@[simp] theorem Chip.modTask_resends (c : Chip) (t : Nat) (f : TaskSt → TaskSt) : (c.modTask t f).resends = c.resends := rfl
@[simp] theorem Chip.modTask_gals (c : Chip) (t : Nat) (f : TaskSt → TaskSt) : (c.modTask t f).gals = c.gals := rfl
@[simp] theorem Chip.modTask_wings (c : Chip) (t : Nat) (f : TaskSt → TaskSt) : (c.modTask t f).wings = c.wings := rfl
@[simp] theorem Chip.modTask_dies (c : Chip) (t : Nat) (f : TaskSt → TaskSt) : (c.modTask t f).dies = c.dies := rfl
@[simp] theorem Chip.modTask_cat (c : Chip) (t : Nat) (f : TaskSt → TaskSt) : (c.modTask t f).cat = c.cat := rfl
@[simp] theorem Chip.modTask_catLate (c : Chip) (t : Nat) (f : TaskSt → TaskSt) : (c.modTask t f).catLate = c.catLate := rfl
@[simp] theorem Chip.modTask_planLate (c : Chip) (t : Nat) (f : TaskSt → TaskSt) : (c.modTask t f).planLate = c.planLate := rfl
@[simp] theorem Chip.modTask_pinDue (c : Chip) (t : Nat) (f : TaskSt → TaskSt) : (c.modTask t f).pinDue = c.pinDue := rfl
@[simp] theorem Chip.modTask_redirTask (c : Chip) (t : Nat) (f : TaskSt → TaskSt) : (c.modTask t f).redirTask = c.redirTask := rfl
@[simp] theorem Chip.modTask_pairs (c : Chip) (t : Nat) (f : TaskSt → TaskSt) : (c.modTask t f).pairs = c.pairs := rfl
@[simp] theorem Chip.modTask_queues (c : Chip) (t : Nat) (f : TaskSt → TaskSt) : (c.modTask t f).queues = c.queues := rfl
@[simp] theorem Chip.modTask_putWait (c : Chip) (t : Nat) (f : TaskSt → TaskSt) : (c.modTask t f).putWait = c.putWait := rfl
@[simp] theorem Chip.modTask_takeWait (c : Chip) (t : Nat) (f : TaskSt → TaskSt) : (c.modTask t f).takeWait = c.takeWait := rfl
@[simp] theorem Chip.modTask_taken (c : Chip) (t : Nat) (f : TaskSt → TaskSt) : (c.modTask t f).taken = c.taken := rfl
@[simp] theorem Chip.modTask_census (c : Chip) (t : Nat) (f : TaskSt → TaskSt) : (c.modTask t f).census = c.census := rfl
@[simp] theorem Chip.modTask_histStep (c : Chip) (t : Nat) (f : TaskSt → TaskSt) : (c.modTask t f).histStep = c.histStep := rfl
@[simp] theorem Chip.modTask_tick (c : Chip) (t : Nat) (f : TaskSt → TaskSt) : (c.modTask t f).tick = c.tick := rfl
@[simp] theorem Chip.modTask_step (c : Chip) (t : Nat) (f : TaskSt → TaskSt) : (c.modTask t f).step = c.step := rfl
@[simp] theorem Chip.modTask_move (c : Chip) (t : Nat) (f : TaskSt → TaskSt) : (c.modTask t f).move = c.move := rfl
@[simp] theorem Chip.modTask_toMove (c : Chip) (t : Nat) (f : TaskSt → TaskSt) : (c.modTask t f).toMove = c.toMove := rfl
@[simp] theorem Chip.modTask_recov (c : Chip) (t : Nat) (f : TaskSt → TaskSt) : (c.modTask t f).recov = c.recov := rfl
@[simp] theorem Chip.modTask_haltDue (c : Chip) (t : Nat) (f : TaskSt → TaskSt) : (c.modTask t f).haltDue = c.haltDue := rfl
@[simp] theorem Chip.modTask_assist (c : Chip) (t : Nat) (f : TaskSt → TaskSt) : (c.modTask t f).assist = c.assist := rfl
@[simp] theorem Chip.modTask_hosts (c : Chip) (t : Nat) (f : TaskSt → TaskSt) : (c.modTask t f).hosts = c.hosts := rfl
@[simp] theorem Chip.modTask_hostMem (c : Chip) (t : Nat) (f : TaskSt → TaskSt) : (c.modTask t f).hostMem = c.hostMem := rfl
@[simp] theorem Chip.modTask_contexts (c : Chip) (t : Nat) (f : TaskSt → TaskSt) : (c.modTask t f).contexts = c.contexts := rfl
@[simp] theorem Chip.modTask_busData (c : Chip) (t : Nat) (f : TaskSt → TaskSt) : (c.modTask t f).busData = c.busData := rfl
@[simp] theorem Chip.modTask_busBytes (c : Chip) (t : Nat) (f : TaskSt → TaskSt) : (c.modTask t f).busBytes = c.busBytes := rfl
@[simp] theorem Chip.modTask_lineOut (c : Chip) (t : Nat) (f : TaskSt → TaskSt) : (c.modTask t f).lineOut = c.lineOut := rfl
@[simp] theorem Chip.modTask_linePoison (c : Chip) (t : Nat) (f : TaskSt → TaskSt) : (c.modTask t f).linePoison = c.linePoison := rfl
@[simp] theorem Chip.modTask_boot (c : Chip) (t : Nat) (f : TaskSt → TaskSt) : (c.modTask t f).boot = c.boot := rfl
@[simp] theorem Chip.modTask_free (c : Chip) (t : Nat) (f : TaskSt → TaskSt) : (c.modTask t f).free = c.free := rfl
@[simp] theorem Chip.modTask_read_rd (c : Chip) (t : Nat) (f : TaskSt → TaskSt) (a' : Nat) : (c.modTask t f).rd a' = c.rd a' := rfl
@[simp] theorem Chip.modTask_read_fld (c : Chip) (t : Nat) (f : TaskSt → TaskSt) (a' h' l' : Nat) : (c.modTask t f).fld a' h' l' = c.fld a' h' l' := rfl
@[simp] theorem Chip.modTask_read_flag (c : Chip) (t : Nat) (f : TaskSt → TaskSt) (a' i' : Nat) : (c.modTask t f).flag a' i' = c.flag a' i' := rfl
@[simp] theorem Chip.modTask_read_gal (c : Chip) (t : Nat) (f : TaskSt → TaskSt) (n' g' : Nat) : (c.modTask t f).gal n' g' = c.gal n' g' := rfl
@[simp] theorem Chip.modTask_read_wing (c : Chip) (t : Nat) (f : TaskSt → TaskSt) (n' : Nat) : (c.modTask t f).wing n' = c.wing n' := rfl
@[simp] theorem Chip.modTask_read_die (c : Chip) (t : Nat) (f : TaskSt → TaskSt) (d' : Nat) : (c.modTask t f).die d' = c.die d' := rfl
@[simp] theorem Chip.modTask_read_host (c : Chip) (t : Nat) (f : TaskSt → TaskSt) (h' : Nat) : (c.modTask t f).host h' = c.host h' := rfl
@[simp] theorem Chip.modTask_read_pair (c : Chip) (t : Nat) (f : TaskSt → TaskSt) (n' i' : Nat) : (c.modTask t f).pair n' i' = c.pair n' i' := rfl
@[simp] theorem Chip.modTask_read_queue (c : Chip) (t : Nat) (f : TaskSt → TaskSt) (q' : Nat) : (c.modTask t f).queue q' = c.queue q' := rfl
@[simp] theorem Chip.modTask_read_cate (c : Chip) (t : Nat) (f : TaskSt → TaskSt) (i' : Nat) : (c.modTask t f).cate i' = c.cate i' := rfl
@[simp] theorem Chip.modTask_read_byte (c : Chip) (t : Nat) (f : TaskSt → TaskSt) (a' : Nat) : (c.modTask t f).byte a' = c.byte a' := rfl
@[simp] theorem Chip.modTask_read_isFull (c : Chip) (t : Nat) (f : TaskSt → TaskSt) (a' : Nat) : (c.modTask t f).isFull a' = c.isFull a' := rfl
@[simp] theorem Chip.modTask_read_parAt (c : Chip) (t : Nat) (f : TaskSt → TaskSt) (a' : Nat) : (c.modTask t f).parAt a' = c.parAt a' := rfl

/-! ### Chip.modHost writes `hosts` only -/

@[simp] theorem Chip.modHost_regs (c : Chip) (h : Nat) (f : HostSt → HostSt) : (c.modHost h f).regs = c.regs := rfl
@[simp] theorem Chip.modHost_mem (c : Chip) (h : Nat) (f : HostSt → HostSt) : (c.modHost h f).mem = c.mem := rfl
@[simp] theorem Chip.modHost_recErr (c : Chip) (h : Nat) (f : HostSt → HostSt) : (c.modHost h f).recErr = c.recErr := rfl
@[simp] theorem Chip.modHost_full (c : Chip) (h : Nat) (f : HostSt → HostSt) : (c.modHost h f).full = c.full := rfl
@[simp] theorem Chip.modHost_par (c : Chip) (h : Nat) (f : HostSt → HostSt) : (c.modHost h f).par = c.par := rfl
@[simp] theorem Chip.modHost_waits (c : Chip) (h : Nat) (f : HostSt → HostSt) : (c.modHost h f).waits = c.waits := rfl
@[simp] theorem Chip.modHost_resends (c : Chip) (h : Nat) (f : HostSt → HostSt) : (c.modHost h f).resends = c.resends := rfl
@[simp] theorem Chip.modHost_gals (c : Chip) (h : Nat) (f : HostSt → HostSt) : (c.modHost h f).gals = c.gals := rfl
@[simp] theorem Chip.modHost_wings (c : Chip) (h : Nat) (f : HostSt → HostSt) : (c.modHost h f).wings = c.wings := rfl
@[simp] theorem Chip.modHost_dies (c : Chip) (h : Nat) (f : HostSt → HostSt) : (c.modHost h f).dies = c.dies := rfl
@[simp] theorem Chip.modHost_tasks (c : Chip) (h : Nat) (f : HostSt → HostSt) : (c.modHost h f).tasks = c.tasks := rfl
@[simp] theorem Chip.modHost_cat (c : Chip) (h : Nat) (f : HostSt → HostSt) : (c.modHost h f).cat = c.cat := rfl
@[simp] theorem Chip.modHost_catLate (c : Chip) (h : Nat) (f : HostSt → HostSt) : (c.modHost h f).catLate = c.catLate := rfl
@[simp] theorem Chip.modHost_planLate (c : Chip) (h : Nat) (f : HostSt → HostSt) : (c.modHost h f).planLate = c.planLate := rfl
@[simp] theorem Chip.modHost_pinDue (c : Chip) (h : Nat) (f : HostSt → HostSt) : (c.modHost h f).pinDue = c.pinDue := rfl
@[simp] theorem Chip.modHost_redirTask (c : Chip) (h : Nat) (f : HostSt → HostSt) : (c.modHost h f).redirTask = c.redirTask := rfl
@[simp] theorem Chip.modHost_pairs (c : Chip) (h : Nat) (f : HostSt → HostSt) : (c.modHost h f).pairs = c.pairs := rfl
@[simp] theorem Chip.modHost_queues (c : Chip) (h : Nat) (f : HostSt → HostSt) : (c.modHost h f).queues = c.queues := rfl
@[simp] theorem Chip.modHost_putWait (c : Chip) (h : Nat) (f : HostSt → HostSt) : (c.modHost h f).putWait = c.putWait := rfl
@[simp] theorem Chip.modHost_takeWait (c : Chip) (h : Nat) (f : HostSt → HostSt) : (c.modHost h f).takeWait = c.takeWait := rfl
@[simp] theorem Chip.modHost_taken (c : Chip) (h : Nat) (f : HostSt → HostSt) : (c.modHost h f).taken = c.taken := rfl
@[simp] theorem Chip.modHost_census (c : Chip) (h : Nat) (f : HostSt → HostSt) : (c.modHost h f).census = c.census := rfl
@[simp] theorem Chip.modHost_histStep (c : Chip) (h : Nat) (f : HostSt → HostSt) : (c.modHost h f).histStep = c.histStep := rfl
@[simp] theorem Chip.modHost_tick (c : Chip) (h : Nat) (f : HostSt → HostSt) : (c.modHost h f).tick = c.tick := rfl
@[simp] theorem Chip.modHost_step (c : Chip) (h : Nat) (f : HostSt → HostSt) : (c.modHost h f).step = c.step := rfl
@[simp] theorem Chip.modHost_move (c : Chip) (h : Nat) (f : HostSt → HostSt) : (c.modHost h f).move = c.move := rfl
@[simp] theorem Chip.modHost_toMove (c : Chip) (h : Nat) (f : HostSt → HostSt) : (c.modHost h f).toMove = c.toMove := rfl
@[simp] theorem Chip.modHost_recov (c : Chip) (h : Nat) (f : HostSt → HostSt) : (c.modHost h f).recov = c.recov := rfl
@[simp] theorem Chip.modHost_haltDue (c : Chip) (h : Nat) (f : HostSt → HostSt) : (c.modHost h f).haltDue = c.haltDue := rfl
@[simp] theorem Chip.modHost_assist (c : Chip) (h : Nat) (f : HostSt → HostSt) : (c.modHost h f).assist = c.assist := rfl
@[simp] theorem Chip.modHost_hostMem (c : Chip) (h : Nat) (f : HostSt → HostSt) : (c.modHost h f).hostMem = c.hostMem := rfl
@[simp] theorem Chip.modHost_contexts (c : Chip) (h : Nat) (f : HostSt → HostSt) : (c.modHost h f).contexts = c.contexts := rfl
@[simp] theorem Chip.modHost_busData (c : Chip) (h : Nat) (f : HostSt → HostSt) : (c.modHost h f).busData = c.busData := rfl
@[simp] theorem Chip.modHost_busBytes (c : Chip) (h : Nat) (f : HostSt → HostSt) : (c.modHost h f).busBytes = c.busBytes := rfl
@[simp] theorem Chip.modHost_lineOut (c : Chip) (h : Nat) (f : HostSt → HostSt) : (c.modHost h f).lineOut = c.lineOut := rfl
@[simp] theorem Chip.modHost_linePoison (c : Chip) (h : Nat) (f : HostSt → HostSt) : (c.modHost h f).linePoison = c.linePoison := rfl
@[simp] theorem Chip.modHost_boot (c : Chip) (h : Nat) (f : HostSt → HostSt) : (c.modHost h f).boot = c.boot := rfl
@[simp] theorem Chip.modHost_free (c : Chip) (h : Nat) (f : HostSt → HostSt) : (c.modHost h f).free = c.free := rfl
@[simp] theorem Chip.modHost_read_rd (c : Chip) (h : Nat) (f : HostSt → HostSt) (a' : Nat) : (c.modHost h f).rd a' = c.rd a' := rfl
@[simp] theorem Chip.modHost_read_fld (c : Chip) (h : Nat) (f : HostSt → HostSt) (a' h' l' : Nat) : (c.modHost h f).fld a' h' l' = c.fld a' h' l' := rfl
@[simp] theorem Chip.modHost_read_flag (c : Chip) (h : Nat) (f : HostSt → HostSt) (a' i' : Nat) : (c.modHost h f).flag a' i' = c.flag a' i' := rfl
@[simp] theorem Chip.modHost_read_gal (c : Chip) (h : Nat) (f : HostSt → HostSt) (n' g' : Nat) : (c.modHost h f).gal n' g' = c.gal n' g' := rfl
@[simp] theorem Chip.modHost_read_wing (c : Chip) (h : Nat) (f : HostSt → HostSt) (n' : Nat) : (c.modHost h f).wing n' = c.wing n' := rfl
@[simp] theorem Chip.modHost_read_die (c : Chip) (h : Nat) (f : HostSt → HostSt) (d' : Nat) : (c.modHost h f).die d' = c.die d' := rfl
@[simp] theorem Chip.modHost_read_task (c : Chip) (h : Nat) (f : HostSt → HostSt) (t' : Nat) : (c.modHost h f).task t' = c.task t' := rfl
@[simp] theorem Chip.modHost_read_pair (c : Chip) (h : Nat) (f : HostSt → HostSt) (n' i' : Nat) : (c.modHost h f).pair n' i' = c.pair n' i' := rfl
@[simp] theorem Chip.modHost_read_queue (c : Chip) (h : Nat) (f : HostSt → HostSt) (q' : Nat) : (c.modHost h f).queue q' = c.queue q' := rfl
@[simp] theorem Chip.modHost_read_cate (c : Chip) (h : Nat) (f : HostSt → HostSt) (i' : Nat) : (c.modHost h f).cate i' = c.cate i' := rfl
@[simp] theorem Chip.modHost_read_byte (c : Chip) (h : Nat) (f : HostSt → HostSt) (a' : Nat) : (c.modHost h f).byte a' = c.byte a' := rfl
@[simp] theorem Chip.modHost_read_isFull (c : Chip) (h : Nat) (f : HostSt → HostSt) (a' : Nat) : (c.modHost h f).isFull a' = c.isFull a' := rfl
@[simp] theorem Chip.modHost_read_parAt (c : Chip) (h : Nat) (f : HostSt → HostSt) (a' : Nat) : (c.modHost h f).parAt a' = c.parAt a' := rfl

/-! ### Chip.setPair writes `pairs` only -/

@[simp] theorem Chip.setPair_regs (c : Chip) (n i : Nat) (p : Pair) : (c.setPair n i p).regs = c.regs := rfl
@[simp] theorem Chip.setPair_mem (c : Chip) (n i : Nat) (p : Pair) : (c.setPair n i p).mem = c.mem := rfl
@[simp] theorem Chip.setPair_recErr (c : Chip) (n i : Nat) (p : Pair) : (c.setPair n i p).recErr = c.recErr := rfl
@[simp] theorem Chip.setPair_full (c : Chip) (n i : Nat) (p : Pair) : (c.setPair n i p).full = c.full := rfl
@[simp] theorem Chip.setPair_par (c : Chip) (n i : Nat) (p : Pair) : (c.setPair n i p).par = c.par := rfl
@[simp] theorem Chip.setPair_waits (c : Chip) (n i : Nat) (p : Pair) : (c.setPair n i p).waits = c.waits := rfl
@[simp] theorem Chip.setPair_resends (c : Chip) (n i : Nat) (p : Pair) : (c.setPair n i p).resends = c.resends := rfl
@[simp] theorem Chip.setPair_gals (c : Chip) (n i : Nat) (p : Pair) : (c.setPair n i p).gals = c.gals := rfl
@[simp] theorem Chip.setPair_wings (c : Chip) (n i : Nat) (p : Pair) : (c.setPair n i p).wings = c.wings := rfl
@[simp] theorem Chip.setPair_dies (c : Chip) (n i : Nat) (p : Pair) : (c.setPair n i p).dies = c.dies := rfl
@[simp] theorem Chip.setPair_tasks (c : Chip) (n i : Nat) (p : Pair) : (c.setPair n i p).tasks = c.tasks := rfl
@[simp] theorem Chip.setPair_cat (c : Chip) (n i : Nat) (p : Pair) : (c.setPair n i p).cat = c.cat := rfl
@[simp] theorem Chip.setPair_catLate (c : Chip) (n i : Nat) (p : Pair) : (c.setPair n i p).catLate = c.catLate := rfl
@[simp] theorem Chip.setPair_planLate (c : Chip) (n i : Nat) (p : Pair) : (c.setPair n i p).planLate = c.planLate := rfl
@[simp] theorem Chip.setPair_pinDue (c : Chip) (n i : Nat) (p : Pair) : (c.setPair n i p).pinDue = c.pinDue := rfl
@[simp] theorem Chip.setPair_redirTask (c : Chip) (n i : Nat) (p : Pair) : (c.setPair n i p).redirTask = c.redirTask := rfl
@[simp] theorem Chip.setPair_queues (c : Chip) (n i : Nat) (p : Pair) : (c.setPair n i p).queues = c.queues := rfl
@[simp] theorem Chip.setPair_putWait (c : Chip) (n i : Nat) (p : Pair) : (c.setPair n i p).putWait = c.putWait := rfl
@[simp] theorem Chip.setPair_takeWait (c : Chip) (n i : Nat) (p : Pair) : (c.setPair n i p).takeWait = c.takeWait := rfl
@[simp] theorem Chip.setPair_taken (c : Chip) (n i : Nat) (p : Pair) : (c.setPair n i p).taken = c.taken := rfl
@[simp] theorem Chip.setPair_census (c : Chip) (n i : Nat) (p : Pair) : (c.setPair n i p).census = c.census := rfl
@[simp] theorem Chip.setPair_histStep (c : Chip) (n i : Nat) (p : Pair) : (c.setPair n i p).histStep = c.histStep := rfl
@[simp] theorem Chip.setPair_tick (c : Chip) (n i : Nat) (p : Pair) : (c.setPair n i p).tick = c.tick := rfl
@[simp] theorem Chip.setPair_step (c : Chip) (n i : Nat) (p : Pair) : (c.setPair n i p).step = c.step := rfl
@[simp] theorem Chip.setPair_move (c : Chip) (n i : Nat) (p : Pair) : (c.setPair n i p).move = c.move := rfl
@[simp] theorem Chip.setPair_toMove (c : Chip) (n i : Nat) (p : Pair) : (c.setPair n i p).toMove = c.toMove := rfl
@[simp] theorem Chip.setPair_recov (c : Chip) (n i : Nat) (p : Pair) : (c.setPair n i p).recov = c.recov := rfl
@[simp] theorem Chip.setPair_haltDue (c : Chip) (n i : Nat) (p : Pair) : (c.setPair n i p).haltDue = c.haltDue := rfl
@[simp] theorem Chip.setPair_assist (c : Chip) (n i : Nat) (p : Pair) : (c.setPair n i p).assist = c.assist := rfl
@[simp] theorem Chip.setPair_hosts (c : Chip) (n i : Nat) (p : Pair) : (c.setPair n i p).hosts = c.hosts := rfl
@[simp] theorem Chip.setPair_hostMem (c : Chip) (n i : Nat) (p : Pair) : (c.setPair n i p).hostMem = c.hostMem := rfl
@[simp] theorem Chip.setPair_contexts (c : Chip) (n i : Nat) (p : Pair) : (c.setPair n i p).contexts = c.contexts := rfl
@[simp] theorem Chip.setPair_busData (c : Chip) (n i : Nat) (p : Pair) : (c.setPair n i p).busData = c.busData := rfl
@[simp] theorem Chip.setPair_busBytes (c : Chip) (n i : Nat) (p : Pair) : (c.setPair n i p).busBytes = c.busBytes := rfl
@[simp] theorem Chip.setPair_lineOut (c : Chip) (n i : Nat) (p : Pair) : (c.setPair n i p).lineOut = c.lineOut := rfl
@[simp] theorem Chip.setPair_linePoison (c : Chip) (n i : Nat) (p : Pair) : (c.setPair n i p).linePoison = c.linePoison := rfl
@[simp] theorem Chip.setPair_boot (c : Chip) (n i : Nat) (p : Pair) : (c.setPair n i p).boot = c.boot := rfl
@[simp] theorem Chip.setPair_free (c : Chip) (n i : Nat) (p : Pair) : (c.setPair n i p).free = c.free := rfl
@[simp] theorem Chip.setPair_read_rd (c : Chip) (n i : Nat) (p : Pair) (a' : Nat) : (c.setPair n i p).rd a' = c.rd a' := rfl
@[simp] theorem Chip.setPair_read_fld (c : Chip) (n i : Nat) (p : Pair) (a' h' l' : Nat) : (c.setPair n i p).fld a' h' l' = c.fld a' h' l' := rfl
@[simp] theorem Chip.setPair_read_flag (c : Chip) (n i : Nat) (p : Pair) (a' i' : Nat) : (c.setPair n i p).flag a' i' = c.flag a' i' := rfl
@[simp] theorem Chip.setPair_read_gal (c : Chip) (n i : Nat) (p : Pair) (n' g' : Nat) : (c.setPair n i p).gal n' g' = c.gal n' g' := rfl
@[simp] theorem Chip.setPair_read_wing (c : Chip) (n i : Nat) (p : Pair) (n' : Nat) : (c.setPair n i p).wing n' = c.wing n' := rfl
@[simp] theorem Chip.setPair_read_die (c : Chip) (n i : Nat) (p : Pair) (d' : Nat) : (c.setPair n i p).die d' = c.die d' := rfl
@[simp] theorem Chip.setPair_read_task (c : Chip) (n i : Nat) (p : Pair) (t' : Nat) : (c.setPair n i p).task t' = c.task t' := rfl
@[simp] theorem Chip.setPair_read_host (c : Chip) (n i : Nat) (p : Pair) (h' : Nat) : (c.setPair n i p).host h' = c.host h' := rfl
@[simp] theorem Chip.setPair_read_queue (c : Chip) (n i : Nat) (p : Pair) (q' : Nat) : (c.setPair n i p).queue q' = c.queue q' := rfl
@[simp] theorem Chip.setPair_read_cate (c : Chip) (n i : Nat) (p : Pair) (i' : Nat) : (c.setPair n i p).cate i' = c.cate i' := rfl
@[simp] theorem Chip.setPair_read_byte (c : Chip) (n i : Nat) (p : Pair) (a' : Nat) : (c.setPair n i p).byte a' = c.byte a' := rfl
@[simp] theorem Chip.setPair_read_isFull (c : Chip) (n i : Nat) (p : Pair) (a' : Nat) : (c.setPair n i p).isFull a' = c.isFull a' := rfl
@[simp] theorem Chip.setPair_read_parAt (c : Chip) (n i : Nat) (p : Pair) (a' : Nat) : (c.setPair n i p).parAt a' = c.parAt a' := rfl

/-! ### Chip.setQueue writes `queues` only -/

@[simp] theorem Chip.setQueue_regs (c : Chip) (q : Nat) (l : List Word) : (c.setQueue q l).regs = c.regs := rfl
@[simp] theorem Chip.setQueue_mem (c : Chip) (q : Nat) (l : List Word) : (c.setQueue q l).mem = c.mem := rfl
@[simp] theorem Chip.setQueue_recErr (c : Chip) (q : Nat) (l : List Word) : (c.setQueue q l).recErr = c.recErr := rfl
@[simp] theorem Chip.setQueue_full (c : Chip) (q : Nat) (l : List Word) : (c.setQueue q l).full = c.full := rfl
@[simp] theorem Chip.setQueue_par (c : Chip) (q : Nat) (l : List Word) : (c.setQueue q l).par = c.par := rfl
@[simp] theorem Chip.setQueue_waits (c : Chip) (q : Nat) (l : List Word) : (c.setQueue q l).waits = c.waits := rfl
@[simp] theorem Chip.setQueue_resends (c : Chip) (q : Nat) (l : List Word) : (c.setQueue q l).resends = c.resends := rfl
@[simp] theorem Chip.setQueue_gals (c : Chip) (q : Nat) (l : List Word) : (c.setQueue q l).gals = c.gals := rfl
@[simp] theorem Chip.setQueue_wings (c : Chip) (q : Nat) (l : List Word) : (c.setQueue q l).wings = c.wings := rfl
@[simp] theorem Chip.setQueue_dies (c : Chip) (q : Nat) (l : List Word) : (c.setQueue q l).dies = c.dies := rfl
@[simp] theorem Chip.setQueue_tasks (c : Chip) (q : Nat) (l : List Word) : (c.setQueue q l).tasks = c.tasks := rfl
@[simp] theorem Chip.setQueue_cat (c : Chip) (q : Nat) (l : List Word) : (c.setQueue q l).cat = c.cat := rfl
@[simp] theorem Chip.setQueue_catLate (c : Chip) (q : Nat) (l : List Word) : (c.setQueue q l).catLate = c.catLate := rfl
@[simp] theorem Chip.setQueue_planLate (c : Chip) (q : Nat) (l : List Word) : (c.setQueue q l).planLate = c.planLate := rfl
@[simp] theorem Chip.setQueue_pinDue (c : Chip) (q : Nat) (l : List Word) : (c.setQueue q l).pinDue = c.pinDue := rfl
@[simp] theorem Chip.setQueue_redirTask (c : Chip) (q : Nat) (l : List Word) : (c.setQueue q l).redirTask = c.redirTask := rfl
@[simp] theorem Chip.setQueue_pairs (c : Chip) (q : Nat) (l : List Word) : (c.setQueue q l).pairs = c.pairs := rfl
@[simp] theorem Chip.setQueue_putWait (c : Chip) (q : Nat) (l : List Word) : (c.setQueue q l).putWait = c.putWait := rfl
@[simp] theorem Chip.setQueue_takeWait (c : Chip) (q : Nat) (l : List Word) : (c.setQueue q l).takeWait = c.takeWait := rfl
@[simp] theorem Chip.setQueue_taken (c : Chip) (q : Nat) (l : List Word) : (c.setQueue q l).taken = c.taken := rfl
@[simp] theorem Chip.setQueue_census (c : Chip) (q : Nat) (l : List Word) : (c.setQueue q l).census = c.census := rfl
@[simp] theorem Chip.setQueue_histStep (c : Chip) (q : Nat) (l : List Word) : (c.setQueue q l).histStep = c.histStep := rfl
@[simp] theorem Chip.setQueue_tick (c : Chip) (q : Nat) (l : List Word) : (c.setQueue q l).tick = c.tick := rfl
@[simp] theorem Chip.setQueue_step (c : Chip) (q : Nat) (l : List Word) : (c.setQueue q l).step = c.step := rfl
@[simp] theorem Chip.setQueue_move (c : Chip) (q : Nat) (l : List Word) : (c.setQueue q l).move = c.move := rfl
@[simp] theorem Chip.setQueue_toMove (c : Chip) (q : Nat) (l : List Word) : (c.setQueue q l).toMove = c.toMove := rfl
@[simp] theorem Chip.setQueue_recov (c : Chip) (q : Nat) (l : List Word) : (c.setQueue q l).recov = c.recov := rfl
@[simp] theorem Chip.setQueue_haltDue (c : Chip) (q : Nat) (l : List Word) : (c.setQueue q l).haltDue = c.haltDue := rfl
@[simp] theorem Chip.setQueue_assist (c : Chip) (q : Nat) (l : List Word) : (c.setQueue q l).assist = c.assist := rfl
@[simp] theorem Chip.setQueue_hosts (c : Chip) (q : Nat) (l : List Word) : (c.setQueue q l).hosts = c.hosts := rfl
@[simp] theorem Chip.setQueue_hostMem (c : Chip) (q : Nat) (l : List Word) : (c.setQueue q l).hostMem = c.hostMem := rfl
@[simp] theorem Chip.setQueue_contexts (c : Chip) (q : Nat) (l : List Word) : (c.setQueue q l).contexts = c.contexts := rfl
@[simp] theorem Chip.setQueue_busData (c : Chip) (q : Nat) (l : List Word) : (c.setQueue q l).busData = c.busData := rfl
@[simp] theorem Chip.setQueue_busBytes (c : Chip) (q : Nat) (l : List Word) : (c.setQueue q l).busBytes = c.busBytes := rfl
@[simp] theorem Chip.setQueue_lineOut (c : Chip) (q : Nat) (l : List Word) : (c.setQueue q l).lineOut = c.lineOut := rfl
@[simp] theorem Chip.setQueue_linePoison (c : Chip) (q : Nat) (l : List Word) : (c.setQueue q l).linePoison = c.linePoison := rfl
@[simp] theorem Chip.setQueue_boot (c : Chip) (q : Nat) (l : List Word) : (c.setQueue q l).boot = c.boot := rfl
@[simp] theorem Chip.setQueue_free (c : Chip) (q : Nat) (l : List Word) : (c.setQueue q l).free = c.free := rfl
@[simp] theorem Chip.setQueue_read_rd (c : Chip) (q : Nat) (l : List Word) (a' : Nat) : (c.setQueue q l).rd a' = c.rd a' := rfl
@[simp] theorem Chip.setQueue_read_fld (c : Chip) (q : Nat) (l : List Word) (a' h' l' : Nat) : (c.setQueue q l).fld a' h' l' = c.fld a' h' l' := rfl
@[simp] theorem Chip.setQueue_read_flag (c : Chip) (q : Nat) (l : List Word) (a' i' : Nat) : (c.setQueue q l).flag a' i' = c.flag a' i' := rfl
@[simp] theorem Chip.setQueue_read_gal (c : Chip) (q : Nat) (l : List Word) (n' g' : Nat) : (c.setQueue q l).gal n' g' = c.gal n' g' := rfl
@[simp] theorem Chip.setQueue_read_wing (c : Chip) (q : Nat) (l : List Word) (n' : Nat) : (c.setQueue q l).wing n' = c.wing n' := rfl
@[simp] theorem Chip.setQueue_read_die (c : Chip) (q : Nat) (l : List Word) (d' : Nat) : (c.setQueue q l).die d' = c.die d' := rfl
@[simp] theorem Chip.setQueue_read_task (c : Chip) (q : Nat) (l : List Word) (t' : Nat) : (c.setQueue q l).task t' = c.task t' := rfl
@[simp] theorem Chip.setQueue_read_host (c : Chip) (q : Nat) (l : List Word) (h' : Nat) : (c.setQueue q l).host h' = c.host h' := rfl
@[simp] theorem Chip.setQueue_read_pair (c : Chip) (q : Nat) (l : List Word) (n' i' : Nat) : (c.setQueue q l).pair n' i' = c.pair n' i' := rfl
@[simp] theorem Chip.setQueue_read_cate (c : Chip) (q : Nat) (l : List Word) (i' : Nat) : (c.setQueue q l).cate i' = c.cate i' := rfl
@[simp] theorem Chip.setQueue_read_byte (c : Chip) (q : Nat) (l : List Word) (a' : Nat) : (c.setQueue q l).byte a' = c.byte a' := rfl
@[simp] theorem Chip.setQueue_read_isFull (c : Chip) (q : Nat) (l : List Word) (a' : Nat) : (c.setQueue q l).isFull a' = c.isFull a' := rfl
@[simp] theorem Chip.setQueue_read_parAt (c : Chip) (q : Nat) (l : List Word) (a' : Nat) : (c.setQueue q l).parAt a' = c.parAt a' := rfl

/-! ### Chip.setByte writes `mem` only -/

@[simp] theorem Chip.setByte_regs (c : Chip) (a : Nat) (b : Byte) : (c.setByte a b).regs = c.regs := rfl
@[simp] theorem Chip.setByte_recErr (c : Chip) (a : Nat) (b : Byte) : (c.setByte a b).recErr = c.recErr := rfl
@[simp] theorem Chip.setByte_full (c : Chip) (a : Nat) (b : Byte) : (c.setByte a b).full = c.full := rfl
@[simp] theorem Chip.setByte_par (c : Chip) (a : Nat) (b : Byte) : (c.setByte a b).par = c.par := rfl
@[simp] theorem Chip.setByte_waits (c : Chip) (a : Nat) (b : Byte) : (c.setByte a b).waits = c.waits := rfl
@[simp] theorem Chip.setByte_resends (c : Chip) (a : Nat) (b : Byte) : (c.setByte a b).resends = c.resends := rfl
@[simp] theorem Chip.setByte_gals (c : Chip) (a : Nat) (b : Byte) : (c.setByte a b).gals = c.gals := rfl
@[simp] theorem Chip.setByte_wings (c : Chip) (a : Nat) (b : Byte) : (c.setByte a b).wings = c.wings := rfl
@[simp] theorem Chip.setByte_dies (c : Chip) (a : Nat) (b : Byte) : (c.setByte a b).dies = c.dies := rfl
@[simp] theorem Chip.setByte_tasks (c : Chip) (a : Nat) (b : Byte) : (c.setByte a b).tasks = c.tasks := rfl
@[simp] theorem Chip.setByte_cat (c : Chip) (a : Nat) (b : Byte) : (c.setByte a b).cat = c.cat := rfl
@[simp] theorem Chip.setByte_catLate (c : Chip) (a : Nat) (b : Byte) : (c.setByte a b).catLate = c.catLate := rfl
@[simp] theorem Chip.setByte_planLate (c : Chip) (a : Nat) (b : Byte) : (c.setByte a b).planLate = c.planLate := rfl
@[simp] theorem Chip.setByte_pinDue (c : Chip) (a : Nat) (b : Byte) : (c.setByte a b).pinDue = c.pinDue := rfl
@[simp] theorem Chip.setByte_redirTask (c : Chip) (a : Nat) (b : Byte) : (c.setByte a b).redirTask = c.redirTask := rfl
@[simp] theorem Chip.setByte_pairs (c : Chip) (a : Nat) (b : Byte) : (c.setByte a b).pairs = c.pairs := rfl
@[simp] theorem Chip.setByte_queues (c : Chip) (a : Nat) (b : Byte) : (c.setByte a b).queues = c.queues := rfl
@[simp] theorem Chip.setByte_putWait (c : Chip) (a : Nat) (b : Byte) : (c.setByte a b).putWait = c.putWait := rfl
@[simp] theorem Chip.setByte_takeWait (c : Chip) (a : Nat) (b : Byte) : (c.setByte a b).takeWait = c.takeWait := rfl
@[simp] theorem Chip.setByte_taken (c : Chip) (a : Nat) (b : Byte) : (c.setByte a b).taken = c.taken := rfl
@[simp] theorem Chip.setByte_census (c : Chip) (a : Nat) (b : Byte) : (c.setByte a b).census = c.census := rfl
@[simp] theorem Chip.setByte_histStep (c : Chip) (a : Nat) (b : Byte) : (c.setByte a b).histStep = c.histStep := rfl
@[simp] theorem Chip.setByte_tick (c : Chip) (a : Nat) (b : Byte) : (c.setByte a b).tick = c.tick := rfl
@[simp] theorem Chip.setByte_step (c : Chip) (a : Nat) (b : Byte) : (c.setByte a b).step = c.step := rfl
@[simp] theorem Chip.setByte_move (c : Chip) (a : Nat) (b : Byte) : (c.setByte a b).move = c.move := rfl
@[simp] theorem Chip.setByte_toMove (c : Chip) (a : Nat) (b : Byte) : (c.setByte a b).toMove = c.toMove := rfl
@[simp] theorem Chip.setByte_recov (c : Chip) (a : Nat) (b : Byte) : (c.setByte a b).recov = c.recov := rfl
@[simp] theorem Chip.setByte_haltDue (c : Chip) (a : Nat) (b : Byte) : (c.setByte a b).haltDue = c.haltDue := rfl
@[simp] theorem Chip.setByte_assist (c : Chip) (a : Nat) (b : Byte) : (c.setByte a b).assist = c.assist := rfl
@[simp] theorem Chip.setByte_hosts (c : Chip) (a : Nat) (b : Byte) : (c.setByte a b).hosts = c.hosts := rfl
@[simp] theorem Chip.setByte_hostMem (c : Chip) (a : Nat) (b : Byte) : (c.setByte a b).hostMem = c.hostMem := rfl
@[simp] theorem Chip.setByte_contexts (c : Chip) (a : Nat) (b : Byte) : (c.setByte a b).contexts = c.contexts := rfl
@[simp] theorem Chip.setByte_busData (c : Chip) (a : Nat) (b : Byte) : (c.setByte a b).busData = c.busData := rfl
@[simp] theorem Chip.setByte_busBytes (c : Chip) (a : Nat) (b : Byte) : (c.setByte a b).busBytes = c.busBytes := rfl
@[simp] theorem Chip.setByte_lineOut (c : Chip) (a : Nat) (b : Byte) : (c.setByte a b).lineOut = c.lineOut := rfl
@[simp] theorem Chip.setByte_linePoison (c : Chip) (a : Nat) (b : Byte) : (c.setByte a b).linePoison = c.linePoison := rfl
@[simp] theorem Chip.setByte_boot (c : Chip) (a : Nat) (b : Byte) : (c.setByte a b).boot = c.boot := rfl
@[simp] theorem Chip.setByte_free (c : Chip) (a : Nat) (b : Byte) : (c.setByte a b).free = c.free := rfl
@[simp] theorem Chip.setByte_read_rd (c : Chip) (a : Nat) (b : Byte) (a' : Nat) : (c.setByte a b).rd a' = c.rd a' := rfl
@[simp] theorem Chip.setByte_read_fld (c : Chip) (a : Nat) (b : Byte) (a' h' l' : Nat) : (c.setByte a b).fld a' h' l' = c.fld a' h' l' := rfl
@[simp] theorem Chip.setByte_read_flag (c : Chip) (a : Nat) (b : Byte) (a' i' : Nat) : (c.setByte a b).flag a' i' = c.flag a' i' := rfl
@[simp] theorem Chip.setByte_read_gal (c : Chip) (a : Nat) (b : Byte) (n' g' : Nat) : (c.setByte a b).gal n' g' = c.gal n' g' := rfl
@[simp] theorem Chip.setByte_read_wing (c : Chip) (a : Nat) (b : Byte) (n' : Nat) : (c.setByte a b).wing n' = c.wing n' := rfl
@[simp] theorem Chip.setByte_read_die (c : Chip) (a : Nat) (b : Byte) (d' : Nat) : (c.setByte a b).die d' = c.die d' := rfl
@[simp] theorem Chip.setByte_read_task (c : Chip) (a : Nat) (b : Byte) (t' : Nat) : (c.setByte a b).task t' = c.task t' := rfl
@[simp] theorem Chip.setByte_read_host (c : Chip) (a : Nat) (b : Byte) (h' : Nat) : (c.setByte a b).host h' = c.host h' := rfl
@[simp] theorem Chip.setByte_read_pair (c : Chip) (a : Nat) (b : Byte) (n' i' : Nat) : (c.setByte a b).pair n' i' = c.pair n' i' := rfl
@[simp] theorem Chip.setByte_read_queue (c : Chip) (a : Nat) (b : Byte) (q' : Nat) : (c.setByte a b).queue q' = c.queue q' := rfl
@[simp] theorem Chip.setByte_read_cate (c : Chip) (a : Nat) (b : Byte) (i' : Nat) : (c.setByte a b).cate i' = c.cate i' := rfl
@[simp] theorem Chip.setByte_read_isFull (c : Chip) (a : Nat) (b : Byte) (a' : Nat) : (c.setByte a b).isFull a' = c.isFull a' := rfl
@[simp] theorem Chip.setByte_read_parAt (c : Chip) (a : Nat) (b : Byte) (a' : Nat) : (c.setByte a b).parAt a' = c.parAt a' := rfl

/-! ### Chip.setFull writes `full` only -/

@[simp] theorem Chip.setFull_regs (c : Chip) (a : Nat) (b : Bool) : (c.setFull a b).regs = c.regs := rfl
@[simp] theorem Chip.setFull_mem (c : Chip) (a : Nat) (b : Bool) : (c.setFull a b).mem = c.mem := rfl
@[simp] theorem Chip.setFull_recErr (c : Chip) (a : Nat) (b : Bool) : (c.setFull a b).recErr = c.recErr := rfl
@[simp] theorem Chip.setFull_par (c : Chip) (a : Nat) (b : Bool) : (c.setFull a b).par = c.par := rfl
@[simp] theorem Chip.setFull_waits (c : Chip) (a : Nat) (b : Bool) : (c.setFull a b).waits = c.waits := rfl
@[simp] theorem Chip.setFull_resends (c : Chip) (a : Nat) (b : Bool) : (c.setFull a b).resends = c.resends := rfl
@[simp] theorem Chip.setFull_gals (c : Chip) (a : Nat) (b : Bool) : (c.setFull a b).gals = c.gals := rfl
@[simp] theorem Chip.setFull_wings (c : Chip) (a : Nat) (b : Bool) : (c.setFull a b).wings = c.wings := rfl
@[simp] theorem Chip.setFull_dies (c : Chip) (a : Nat) (b : Bool) : (c.setFull a b).dies = c.dies := rfl
@[simp] theorem Chip.setFull_tasks (c : Chip) (a : Nat) (b : Bool) : (c.setFull a b).tasks = c.tasks := rfl
@[simp] theorem Chip.setFull_cat (c : Chip) (a : Nat) (b : Bool) : (c.setFull a b).cat = c.cat := rfl
@[simp] theorem Chip.setFull_catLate (c : Chip) (a : Nat) (b : Bool) : (c.setFull a b).catLate = c.catLate := rfl
@[simp] theorem Chip.setFull_planLate (c : Chip) (a : Nat) (b : Bool) : (c.setFull a b).planLate = c.planLate := rfl
@[simp] theorem Chip.setFull_pinDue (c : Chip) (a : Nat) (b : Bool) : (c.setFull a b).pinDue = c.pinDue := rfl
@[simp] theorem Chip.setFull_redirTask (c : Chip) (a : Nat) (b : Bool) : (c.setFull a b).redirTask = c.redirTask := rfl
@[simp] theorem Chip.setFull_pairs (c : Chip) (a : Nat) (b : Bool) : (c.setFull a b).pairs = c.pairs := rfl
@[simp] theorem Chip.setFull_queues (c : Chip) (a : Nat) (b : Bool) : (c.setFull a b).queues = c.queues := rfl
@[simp] theorem Chip.setFull_putWait (c : Chip) (a : Nat) (b : Bool) : (c.setFull a b).putWait = c.putWait := rfl
@[simp] theorem Chip.setFull_takeWait (c : Chip) (a : Nat) (b : Bool) : (c.setFull a b).takeWait = c.takeWait := rfl
@[simp] theorem Chip.setFull_taken (c : Chip) (a : Nat) (b : Bool) : (c.setFull a b).taken = c.taken := rfl
@[simp] theorem Chip.setFull_census (c : Chip) (a : Nat) (b : Bool) : (c.setFull a b).census = c.census := rfl
@[simp] theorem Chip.setFull_histStep (c : Chip) (a : Nat) (b : Bool) : (c.setFull a b).histStep = c.histStep := rfl
@[simp] theorem Chip.setFull_tick (c : Chip) (a : Nat) (b : Bool) : (c.setFull a b).tick = c.tick := rfl
@[simp] theorem Chip.setFull_step (c : Chip) (a : Nat) (b : Bool) : (c.setFull a b).step = c.step := rfl
@[simp] theorem Chip.setFull_move (c : Chip) (a : Nat) (b : Bool) : (c.setFull a b).move = c.move := rfl
@[simp] theorem Chip.setFull_toMove (c : Chip) (a : Nat) (b : Bool) : (c.setFull a b).toMove = c.toMove := rfl
@[simp] theorem Chip.setFull_recov (c : Chip) (a : Nat) (b : Bool) : (c.setFull a b).recov = c.recov := rfl
@[simp] theorem Chip.setFull_haltDue (c : Chip) (a : Nat) (b : Bool) : (c.setFull a b).haltDue = c.haltDue := rfl
@[simp] theorem Chip.setFull_assist (c : Chip) (a : Nat) (b : Bool) : (c.setFull a b).assist = c.assist := rfl
@[simp] theorem Chip.setFull_hosts (c : Chip) (a : Nat) (b : Bool) : (c.setFull a b).hosts = c.hosts := rfl
@[simp] theorem Chip.setFull_hostMem (c : Chip) (a : Nat) (b : Bool) : (c.setFull a b).hostMem = c.hostMem := rfl
@[simp] theorem Chip.setFull_contexts (c : Chip) (a : Nat) (b : Bool) : (c.setFull a b).contexts = c.contexts := rfl
@[simp] theorem Chip.setFull_busData (c : Chip) (a : Nat) (b : Bool) : (c.setFull a b).busData = c.busData := rfl
@[simp] theorem Chip.setFull_busBytes (c : Chip) (a : Nat) (b : Bool) : (c.setFull a b).busBytes = c.busBytes := rfl
@[simp] theorem Chip.setFull_lineOut (c : Chip) (a : Nat) (b : Bool) : (c.setFull a b).lineOut = c.lineOut := rfl
@[simp] theorem Chip.setFull_linePoison (c : Chip) (a : Nat) (b : Bool) : (c.setFull a b).linePoison = c.linePoison := rfl
@[simp] theorem Chip.setFull_boot (c : Chip) (a : Nat) (b : Bool) : (c.setFull a b).boot = c.boot := rfl
@[simp] theorem Chip.setFull_free (c : Chip) (a : Nat) (b : Bool) : (c.setFull a b).free = c.free := rfl
@[simp] theorem Chip.setFull_read_rd (c : Chip) (a : Nat) (b : Bool) (a' : Nat) : (c.setFull a b).rd a' = c.rd a' := rfl
@[simp] theorem Chip.setFull_read_fld (c : Chip) (a : Nat) (b : Bool) (a' h' l' : Nat) : (c.setFull a b).fld a' h' l' = c.fld a' h' l' := rfl
@[simp] theorem Chip.setFull_read_flag (c : Chip) (a : Nat) (b : Bool) (a' i' : Nat) : (c.setFull a b).flag a' i' = c.flag a' i' := rfl
@[simp] theorem Chip.setFull_read_gal (c : Chip) (a : Nat) (b : Bool) (n' g' : Nat) : (c.setFull a b).gal n' g' = c.gal n' g' := rfl
@[simp] theorem Chip.setFull_read_wing (c : Chip) (a : Nat) (b : Bool) (n' : Nat) : (c.setFull a b).wing n' = c.wing n' := rfl
@[simp] theorem Chip.setFull_read_die (c : Chip) (a : Nat) (b : Bool) (d' : Nat) : (c.setFull a b).die d' = c.die d' := rfl
@[simp] theorem Chip.setFull_read_task (c : Chip) (a : Nat) (b : Bool) (t' : Nat) : (c.setFull a b).task t' = c.task t' := rfl
@[simp] theorem Chip.setFull_read_host (c : Chip) (a : Nat) (b : Bool) (h' : Nat) : (c.setFull a b).host h' = c.host h' := rfl
@[simp] theorem Chip.setFull_read_pair (c : Chip) (a : Nat) (b : Bool) (n' i' : Nat) : (c.setFull a b).pair n' i' = c.pair n' i' := rfl
@[simp] theorem Chip.setFull_read_queue (c : Chip) (a : Nat) (b : Bool) (q' : Nat) : (c.setFull a b).queue q' = c.queue q' := rfl
@[simp] theorem Chip.setFull_read_cate (c : Chip) (a : Nat) (b : Bool) (i' : Nat) : (c.setFull a b).cate i' = c.cate i' := rfl
@[simp] theorem Chip.setFull_read_byte (c : Chip) (a : Nat) (b : Bool) (a' : Nat) : (c.setFull a b).byte a' = c.byte a' := rfl
@[simp] theorem Chip.setFull_read_parAt (c : Chip) (a : Nat) (b : Bool) (a' : Nat) : (c.setFull a b).parAt a' = c.parAt a' := rfl

/-! ### Chip.setPar writes `par` only -/

@[simp] theorem Chip.setPar_regs (c : Chip) (a v : Nat) : (c.setPar a v).regs = c.regs := rfl
@[simp] theorem Chip.setPar_mem (c : Chip) (a v : Nat) : (c.setPar a v).mem = c.mem := rfl
@[simp] theorem Chip.setPar_recErr (c : Chip) (a v : Nat) : (c.setPar a v).recErr = c.recErr := rfl
@[simp] theorem Chip.setPar_full (c : Chip) (a v : Nat) : (c.setPar a v).full = c.full := rfl
@[simp] theorem Chip.setPar_waits (c : Chip) (a v : Nat) : (c.setPar a v).waits = c.waits := rfl
@[simp] theorem Chip.setPar_resends (c : Chip) (a v : Nat) : (c.setPar a v).resends = c.resends := rfl
@[simp] theorem Chip.setPar_gals (c : Chip) (a v : Nat) : (c.setPar a v).gals = c.gals := rfl
@[simp] theorem Chip.setPar_wings (c : Chip) (a v : Nat) : (c.setPar a v).wings = c.wings := rfl
@[simp] theorem Chip.setPar_dies (c : Chip) (a v : Nat) : (c.setPar a v).dies = c.dies := rfl
@[simp] theorem Chip.setPar_tasks (c : Chip) (a v : Nat) : (c.setPar a v).tasks = c.tasks := rfl
@[simp] theorem Chip.setPar_cat (c : Chip) (a v : Nat) : (c.setPar a v).cat = c.cat := rfl
@[simp] theorem Chip.setPar_catLate (c : Chip) (a v : Nat) : (c.setPar a v).catLate = c.catLate := rfl
@[simp] theorem Chip.setPar_planLate (c : Chip) (a v : Nat) : (c.setPar a v).planLate = c.planLate := rfl
@[simp] theorem Chip.setPar_pinDue (c : Chip) (a v : Nat) : (c.setPar a v).pinDue = c.pinDue := rfl
@[simp] theorem Chip.setPar_redirTask (c : Chip) (a v : Nat) : (c.setPar a v).redirTask = c.redirTask := rfl
@[simp] theorem Chip.setPar_pairs (c : Chip) (a v : Nat) : (c.setPar a v).pairs = c.pairs := rfl
@[simp] theorem Chip.setPar_queues (c : Chip) (a v : Nat) : (c.setPar a v).queues = c.queues := rfl
@[simp] theorem Chip.setPar_putWait (c : Chip) (a v : Nat) : (c.setPar a v).putWait = c.putWait := rfl
@[simp] theorem Chip.setPar_takeWait (c : Chip) (a v : Nat) : (c.setPar a v).takeWait = c.takeWait := rfl
@[simp] theorem Chip.setPar_taken (c : Chip) (a v : Nat) : (c.setPar a v).taken = c.taken := rfl
@[simp] theorem Chip.setPar_census (c : Chip) (a v : Nat) : (c.setPar a v).census = c.census := rfl
@[simp] theorem Chip.setPar_histStep (c : Chip) (a v : Nat) : (c.setPar a v).histStep = c.histStep := rfl
@[simp] theorem Chip.setPar_tick (c : Chip) (a v : Nat) : (c.setPar a v).tick = c.tick := rfl
@[simp] theorem Chip.setPar_step (c : Chip) (a v : Nat) : (c.setPar a v).step = c.step := rfl
@[simp] theorem Chip.setPar_move (c : Chip) (a v : Nat) : (c.setPar a v).move = c.move := rfl
@[simp] theorem Chip.setPar_toMove (c : Chip) (a v : Nat) : (c.setPar a v).toMove = c.toMove := rfl
@[simp] theorem Chip.setPar_recov (c : Chip) (a v : Nat) : (c.setPar a v).recov = c.recov := rfl
@[simp] theorem Chip.setPar_haltDue (c : Chip) (a v : Nat) : (c.setPar a v).haltDue = c.haltDue := rfl
@[simp] theorem Chip.setPar_assist (c : Chip) (a v : Nat) : (c.setPar a v).assist = c.assist := rfl
@[simp] theorem Chip.setPar_hosts (c : Chip) (a v : Nat) : (c.setPar a v).hosts = c.hosts := rfl
@[simp] theorem Chip.setPar_hostMem (c : Chip) (a v : Nat) : (c.setPar a v).hostMem = c.hostMem := rfl
@[simp] theorem Chip.setPar_contexts (c : Chip) (a v : Nat) : (c.setPar a v).contexts = c.contexts := rfl
@[simp] theorem Chip.setPar_busData (c : Chip) (a v : Nat) : (c.setPar a v).busData = c.busData := rfl
@[simp] theorem Chip.setPar_busBytes (c : Chip) (a v : Nat) : (c.setPar a v).busBytes = c.busBytes := rfl
@[simp] theorem Chip.setPar_lineOut (c : Chip) (a v : Nat) : (c.setPar a v).lineOut = c.lineOut := rfl
@[simp] theorem Chip.setPar_linePoison (c : Chip) (a v : Nat) : (c.setPar a v).linePoison = c.linePoison := rfl
@[simp] theorem Chip.setPar_boot (c : Chip) (a v : Nat) : (c.setPar a v).boot = c.boot := rfl
@[simp] theorem Chip.setPar_free (c : Chip) (a v : Nat) : (c.setPar a v).free = c.free := rfl
@[simp] theorem Chip.setPar_read_rd (c : Chip) (a v : Nat) (a' : Nat) : (c.setPar a v).rd a' = c.rd a' := rfl
@[simp] theorem Chip.setPar_read_fld (c : Chip) (a v : Nat) (a' h' l' : Nat) : (c.setPar a v).fld a' h' l' = c.fld a' h' l' := rfl
@[simp] theorem Chip.setPar_read_flag (c : Chip) (a v : Nat) (a' i' : Nat) : (c.setPar a v).flag a' i' = c.flag a' i' := rfl
@[simp] theorem Chip.setPar_read_gal (c : Chip) (a v : Nat) (n' g' : Nat) : (c.setPar a v).gal n' g' = c.gal n' g' := rfl
@[simp] theorem Chip.setPar_read_wing (c : Chip) (a v : Nat) (n' : Nat) : (c.setPar a v).wing n' = c.wing n' := rfl
@[simp] theorem Chip.setPar_read_die (c : Chip) (a v : Nat) (d' : Nat) : (c.setPar a v).die d' = c.die d' := rfl
@[simp] theorem Chip.setPar_read_task (c : Chip) (a v : Nat) (t' : Nat) : (c.setPar a v).task t' = c.task t' := rfl
@[simp] theorem Chip.setPar_read_host (c : Chip) (a v : Nat) (h' : Nat) : (c.setPar a v).host h' = c.host h' := rfl
@[simp] theorem Chip.setPar_read_pair (c : Chip) (a v : Nat) (n' i' : Nat) : (c.setPar a v).pair n' i' = c.pair n' i' := rfl
@[simp] theorem Chip.setPar_read_queue (c : Chip) (a v : Nat) (q' : Nat) : (c.setPar a v).queue q' = c.queue q' := rfl
@[simp] theorem Chip.setPar_read_cate (c : Chip) (a v : Nat) (i' : Nat) : (c.setPar a v).cate i' = c.cate i' := rfl
@[simp] theorem Chip.setPar_read_byte (c : Chip) (a v : Nat) (a' : Nat) : (c.setPar a v).byte a' = c.byte a' := rfl
@[simp] theorem Chip.setPar_read_isFull (c : Chip) (a v : Nat) (a' : Nat) : (c.setPar a v).isFull a' = c.isFull a' := rfl

/-! ### What was written reads back -/

@[simp] theorem Chip.rd_wr_self (c : Chip) (a : Nat) (v : Word) : (c.wr a v).rd a = v := NMap.get_set_self _ _ _ _

theorem Chip.rd_wr_ne (c : Chip) {a b : Nat} (v : Word) (h : b ≠ a) : (c.wr a v).rd b = c.rd b := NMap.get_set_ne _ _ _ h

theorem Chip.rd_wr (c : Chip) (a b : Nat) (v : Word) : (c.wr a v).rd b = if b = a then v else c.rd b := NMap.get_set _ _ _ _ _

theorem Chip.fld_wr_ne (c : Chip) {a b : Nat} (v : Word) (h l : Nat) (ne : b ≠ a) : (c.wr a v).fld b h l = c.fld b h l := by
  simp [Chip.fld, Chip.rdN, Chip.rd_wr_ne c v ne]

theorem Chip.flag_wr_ne (c : Chip) {a b : Nat} (v : Word) (i : Nat) (ne : b ≠ a) : (c.wr a v).flag b i = c.flag b i := by
  simp [Chip.flag, Chip.rdN, Chip.rd_wr_ne c v ne]

theorem toNat_w64 {x : Nat} (h : x < 2 ^ 64) : (w64 x).toNat = x := by
  rw [w64, BitVec.toNat_ofNat, Nat.mod_eq_of_lt h]

/-- A register's bits after a field of it was set. -/
theorem Chip.rdN_setFld_self (c : Chip) (a hi lo x : Nat) (h : lo ≤ hi) (h64 : hi < 64) :
    (c.setFld a hi lo x).rdN a = setBits (c.rdN a) hi lo x := by
  simp only [Chip.setFld, Chip.rdN, Chip.rd_wr_self]
  exact toNat_w64 (setBits_lt h (c.rd a).isLt h64)

/-- A field that was set reads what was written, cut to its width. -/
theorem Chip.fld_setFld_self (c : Chip) (a hi lo x : Nat) (h : lo ≤ hi) (h64 : hi < 64) :
    (c.setFld a hi lo x).fld a hi lo = x % 2 ^ (hi - lo + 1) := by
  simp only [Chip.fld, Chip.rdN_setFld_self c a hi lo x h h64, bits_setBits_self _ _ _ _ h]

/-- Another field of the same register reads as before. -/
theorem Chip.fld_setFld_disjoint (c : Chip) (a hi lo x hi' lo' : Nat) (h : lo ≤ hi) (h64 : hi < 64) (h' : lo' ≤ hi')
    (d : hi' < lo ∨ hi < lo') : (c.setFld a hi lo x).fld a hi' lo' = c.fld a hi' lo' := by
  simp only [Chip.fld, Chip.rdN_setFld_self c a hi lo x h h64, bits_setBits_disjoint _ _ _ _ _ _ h h' d]

/-- A field of another register reads as before. -/
theorem Chip.fld_setFld_ne (c : Chip) {a b : Nat} (hi lo x hi' lo' : Nat) (ne : b ≠ a) :
    (c.setFld a hi lo x).fld b hi' lo' = c.fld b hi' lo' := Chip.fld_wr_ne c _ _ _ ne

theorem Chip.rd_setFld_ne (c : Chip) {a b : Nat} (hi lo x : Nat) (ne : b ≠ a) : (c.setFld a hi lo x).rd b = c.rd b :=
  Chip.rd_wr_ne c _ ne

/-- A bit of a register after a field of it was set. -/
theorem Chip.flag_setFld_self (c : Chip) (a hi lo x i : Nat) (h : lo ≤ hi) (h64 : hi < 64) :
    (c.setFld a hi lo x).flag a i = if lo ≤ i ∧ i ≤ hi then x.testBit (i - lo) else c.flag a i := by
  simp only [Chip.flag, bit, Chip.rdN_setFld_self c a hi lo x h h64, testBit_setBits _ _ _ _ _ h]

theorem Chip.flag_setFld_ne (c : Chip) {a b : Nat} (hi lo x i : Nat) (ne : b ≠ a) :
    (c.setFld a hi lo x).flag b i = c.flag b i := Chip.flag_wr_ne c _ _ ne

/-- A bit that was set or cleared reads so. -/
theorem Chip.flag_setFlag_self (c : Chip) (a i : Nat) (b : Bool) (h64 : i < 64) : (c.setFlag a i b).flag a i = b := by
  rw [Chip.setFlag, Chip.flag_setFld_self c a i i _ i le_rfl h64]
  cases b <;> simp [b2n]

/-- Another bit of the same register reads as before. -/
theorem Chip.flag_setFlag_other (c : Chip) (a i j : Nat) (b : Bool) (h64 : i < 64) (ne : j ≠ i) :
    (c.setFlag a i b).flag a j = c.flag a j := by
  rw [Chip.setFlag, Chip.flag_setFld_self c a i i _ j le_rfl h64, if_neg (by omega)]

theorem Chip.flag_setFlag_ne (c : Chip) {a b : Nat} (i j : Nat) (x : Bool) (ne : b ≠ a) :
    (c.setFlag a i x).flag b j = c.flag b j := Chip.flag_setFld_ne c _ _ _ _ ne

theorem Chip.rd_setFlag_ne (c : Chip) {a b : Nat} (i : Nat) (x : Bool) (ne : b ≠ a) : (c.setFlag a i x).rd b = c.rd b :=
  Chip.rd_wr_ne c _ ne

/-- A flag that hardware raises reads set, where its counter is another register. -/
theorem Chip.flag_raise_self (c : Chip) {a k : Nat} (i : Nat) (h64 : i < 64) (ne : a ≠ k) : (c.raise a i k).flag a i = true := by
  rw [Chip.raise, Chip.countBy, Chip.flag_setFld_ne _ _ _ _ _ ne, Chip.flag_setFlag_self _ _ _ _ h64]

theorem Chip.rd_raise_ne (c : Chip) {a k b : Nat} (i : Nat) (h1 : b ≠ a) (h2 : b ≠ k) : (c.raise a i k).rd b = c.rd b := by
  rw [Chip.raise, Chip.countBy, Chip.rd_setFld_ne _ _ _ _ h2, Chip.rd_setFlag_ne _ _ _ h1]

/-- The event counter beside a flag counts the set, wrapping at 2^48 (R11). -/
theorem Chip.count_raise (c : Chip) {a k : Nat} (i : Nat) (ne : k ≠ a) :
    (c.raise a i k).fld k 47 0 = (c.fld k 47 0 + 1) % 2 ^ 48 := by
  rw [Chip.raise, Chip.countBy, Chip.fld_setFld_self _ _ _ _ _ (by decide) (by decide)]
  simp only [Chip.setFlag, Chip.fld_setFld_ne _ _ _ _ _ _ ne]
  omega

theorem galKey_inj {n g n' g' : Nat} (h : g < 512) (h' : g' < 512) : galKey n g = galKey n' g' ↔ n = n' ∧ g = g' := by
  unfold galKey; omega

@[simp] theorem Chip.gal_setGal_self (c : Chip) (n g : Nat) (x : Gal) : (c.setGal n g x).gal n g = x := NMap.get_set_self _ _ _ _

theorem Chip.gal_setGal_ne (c : Chip) {n g n' g' : Nat} (x : Gal) (h : galKey n' g' ≠ galKey n g) :
    (c.setGal n g x).gal n' g' = c.gal n' g' := NMap.get_set_ne _ _ _ h

@[simp] theorem Chip.gal_modGal_self (c : Chip) (n g : Nat) (f : Gal → Gal) : (c.modGal n g f).gal n g = f (c.gal n g) :=
  NMap.get_set_self _ _ _ _

theorem Chip.gal_modGal_ne (c : Chip) {n g n' g' : Nat} (f : Gal → Gal) (h : galKey n' g' ≠ galKey n g) :
    (c.modGal n g f).gal n' g' = c.gal n' g' := NMap.get_set_ne _ _ _ h

@[simp] theorem Chip.wing_setWing_self (c : Chip) (n : Nat) (x : WingSt) : (c.setWing n x).wing n = x := NMap.get_set_self _ _ _ _

@[simp] theorem Chip.wing_modWing_self (c : Chip) (n : Nat) (f : WingSt → WingSt) : (c.modWing n f).wing n = f (c.wing n) :=
  NMap.get_set_self _ _ _ _

theorem Chip.wing_modWing_ne (c : Chip) {n m : Nat} (f : WingSt → WingSt) (h : m ≠ n) : (c.modWing n f).wing m = c.wing m :=
  NMap.get_set_ne _ _ _ h

@[simp] theorem Chip.die_modDie_self (c : Chip) (d : Nat) (f : Die → Die) : (c.modDie d f).die d = f (c.die d) :=
  NMap.get_set_self _ _ _ _

theorem Chip.die_modDie_ne (c : Chip) {d e : Nat} (f : Die → Die) (h : e ≠ d) : (c.modDie d f).die e = c.die e :=
  NMap.get_set_ne _ _ _ h

@[simp] theorem Chip.task_setTask_self (c : Chip) (t : Nat) (x : TaskSt) : (c.setTask t x).task t = x := NMap.get_set_self _ _ _ _

@[simp] theorem Chip.task_modTask_self (c : Chip) (t : Nat) (f : TaskSt → TaskSt) : (c.modTask t f).task t = f (c.task t) :=
  NMap.get_set_self _ _ _ _

theorem Chip.task_modTask_ne (c : Chip) {t u : Nat} (f : TaskSt → TaskSt) (h : u ≠ t) : (c.modTask t f).task u = c.task u :=
  NMap.get_set_ne _ _ _ h

@[simp] theorem Chip.host_modHost_self (c : Chip) (h : Nat) (f : HostSt → HostSt) : (c.modHost h f).host h = f (c.host h) :=
  NMap.get_set_self _ _ _ _

theorem Chip.host_modHost_ne (c : Chip) {h k : Nat} (f : HostSt → HostSt) (ne : k ≠ h) : (c.modHost h f).host k = c.host k :=
  NMap.get_set_ne _ _ _ ne

@[simp] theorem Chip.pair_setPair_self (c : Chip) (n i : Nat) (p : Pair) : (c.setPair n i p).pair n i = p := NMap.get_set_self _ _ _ _

@[simp] theorem Chip.queue_setQueue_self (c : Chip) (q : Nat) (l : List Word) : (c.setQueue q l).queue q = l := NMap.get_set_self _ _ _ _

theorem Chip.queue_setQueue_ne (c : Chip) {q r : Nat} (l : List Word) (h : r ≠ q) : (c.setQueue q l).queue r = c.queue r :=
  NMap.get_set_ne _ _ _ h

@[simp] theorem Chip.byte_setByte_self (c : Chip) (a : Nat) (b : Byte) : (c.setByte a b).byte a = b := NMap.get_set_self _ _ _ _

theorem Chip.byte_setByte_ne (c : Chip) {a a' : Nat} (b : Byte) (h : a' ≠ a) : (c.setByte a b).byte a' = c.byte a' :=
  NMap.get_set_ne _ _ _ h

theorem Chip.isFull_setFull (c : Chip) (a a' : Nat) (b : Bool) :
    (c.setFull a b).isFull a' = if a' / 8 = a / 8 then b else c.isFull a' := NMap.get_set _ _ _ _ _

theorem Chip.parAt_setPar (c : Chip) (a a' v : Nat) :
    (c.setPar a v).parAt a' = if a' / 4 = a / 4 then v else c.parAt a' := NMap.get_set _ _ _ _ _

/-! ### A command's effect on the whole block -/

@[simp] theorem onChip_eq (f : Chip → Chip) (s : State) : onChip f s = .next { s with chip := (f s.chip).msix } := rfl

@[simp] theorem onTs_eq (f : Turnstile → Turnstile) (s : State) : onTs f s = .next { s with ts := f s.ts } := rfl

end Sys2Proof.Machine
end

