-- ==== Sys2Proof/Laws/Block.lean ====
section
/-! SUPPORT. The MSI-X messages that follow every command (R402): they write only the ports' MSI-X state and arming registers, so
that every other reading of the state is the one that the command left. -/

namespace Sys2Proof.Machine

/-- What an armed vector that fires leaves unchanged: anything that clearing the arm bit and changing the port leave. -/
theorem Chip.msixVector_keeps {β : Type} (p : Chip → β) (h : Nat)
    (hp : ∀ (d : Chip) (v : Nat) (g : HostSt → HostSt), p ((d.setFlag (Reg.hostMsixArm h) v false).modHost h g) = p d)
    (c : Chip) (sum v : Nat) : p (c.msixVector sum h v) = p c := by
  unfold Chip.msixVector
  split
  · dsimp only
    split <;> exact hp _ _ _
  · rfl

theorem Chip.foldl_keeps {β γ : Type} (p : Chip → β) (f : Chip → γ → Chip) (l : List γ)
    (hf : ∀ c, ∀ x ∈ l, p (f c x) = p c) (c : Chip) : p (l.foldl f c) = p c := by
  induction l generalizing c with
  | nil => rfl
  | cons x t ih =>
    rw [List.foldl_cons, ih (fun c y hy => hf c y (List.mem_cons_of_mem _ hy)), hf _ _ List.mem_cons_self]

/-- What the messages after a command leave unchanged. -/
theorem Chip.msix_keeps {β : Type} (c : Chip) (p : Chip → β)
    (hp : ∀ (d : Chip) (h v : Nat) (g : HostSt → HostSt), h < 2 →
      p ((d.setFlag (Reg.hostMsixArm h) v false).modHost h g) = p d) :
    p c.msix = p c := by
  unfold Chip.msix
  split
  · rfl
  · refine Chip.foldl_keeps p _ _ (fun d h hm => ?_) c
    exact Chip.foldl_keeps p _ _
      (fun e v _ => Chip.msixVector_keeps p h (fun d v g => hp d h v g (List.mem_range.mp hm)) e _ v) d

@[simp] theorem Chip.msix_mem (c : Chip) : c.msix.mem = c.mem := c.msix_keeps (fun d => d.mem) (fun d h v s _ => by simp)
@[simp] theorem Chip.msix_recErr (c : Chip) : c.msix.recErr = c.recErr := c.msix_keeps (fun d => d.recErr) (fun d h v s _ => by simp)
@[simp] theorem Chip.msix_full (c : Chip) : c.msix.full = c.full := c.msix_keeps (fun d => d.full) (fun d h v s _ => by simp)
@[simp] theorem Chip.msix_par (c : Chip) : c.msix.par = c.par := c.msix_keeps (fun d => d.par) (fun d h v s _ => by simp)
@[simp] theorem Chip.msix_waits (c : Chip) : c.msix.waits = c.waits := c.msix_keeps (fun d => d.waits) (fun d h v s _ => by simp)
@[simp] theorem Chip.msix_resends (c : Chip) : c.msix.resends = c.resends := c.msix_keeps (fun d => d.resends) (fun d h v s _ => by simp)
@[simp] theorem Chip.msix_gals (c : Chip) : c.msix.gals = c.gals := c.msix_keeps (fun d => d.gals) (fun d h v s _ => by simp)
@[simp] theorem Chip.msix_wings (c : Chip) : c.msix.wings = c.wings := c.msix_keeps (fun d => d.wings) (fun d h v s _ => by simp)
@[simp] theorem Chip.msix_dies (c : Chip) : c.msix.dies = c.dies := c.msix_keeps (fun d => d.dies) (fun d h v s _ => by simp)
@[simp] theorem Chip.msix_tasks (c : Chip) : c.msix.tasks = c.tasks := c.msix_keeps (fun d => d.tasks) (fun d h v s _ => by simp)
@[simp] theorem Chip.msix_cat (c : Chip) : c.msix.cat = c.cat := c.msix_keeps (fun d => d.cat) (fun d h v s _ => by simp)
@[simp] theorem Chip.msix_catLate (c : Chip) : c.msix.catLate = c.catLate := c.msix_keeps (fun d => d.catLate) (fun d h v s _ => by simp)
@[simp] theorem Chip.msix_planLate (c : Chip) : c.msix.planLate = c.planLate := c.msix_keeps (fun d => d.planLate) (fun d h v s _ => by simp)
@[simp] theorem Chip.msix_pinDue (c : Chip) : c.msix.pinDue = c.pinDue := c.msix_keeps (fun d => d.pinDue) (fun d h v s _ => by simp)
@[simp] theorem Chip.msix_redirTask (c : Chip) : c.msix.redirTask = c.redirTask := c.msix_keeps (fun d => d.redirTask) (fun d h v s _ => by simp)
@[simp] theorem Chip.msix_pairs (c : Chip) : c.msix.pairs = c.pairs := c.msix_keeps (fun d => d.pairs) (fun d h v s _ => by simp)
@[simp] theorem Chip.msix_queues (c : Chip) : c.msix.queues = c.queues := c.msix_keeps (fun d => d.queues) (fun d h v s _ => by simp)
@[simp] theorem Chip.msix_putWait (c : Chip) : c.msix.putWait = c.putWait := c.msix_keeps (fun d => d.putWait) (fun d h v s _ => by simp)
@[simp] theorem Chip.msix_takeWait (c : Chip) : c.msix.takeWait = c.takeWait := c.msix_keeps (fun d => d.takeWait) (fun d h v s _ => by simp)
@[simp] theorem Chip.msix_taken (c : Chip) : c.msix.taken = c.taken := c.msix_keeps (fun d => d.taken) (fun d h v s _ => by simp)
@[simp] theorem Chip.msix_census (c : Chip) : c.msix.census = c.census := c.msix_keeps (fun d => d.census) (fun d h v s _ => by simp)
@[simp] theorem Chip.msix_histStep (c : Chip) : c.msix.histStep = c.histStep := c.msix_keeps (fun d => d.histStep) (fun d h v s _ => by simp)
@[simp] theorem Chip.msix_tick (c : Chip) : c.msix.tick = c.tick := c.msix_keeps (fun d => d.tick) (fun d h v s _ => by simp)
@[simp] theorem Chip.msix_step (c : Chip) : c.msix.step = c.step := c.msix_keeps (fun d => d.step) (fun d h v s _ => by simp)
@[simp] theorem Chip.msix_move (c : Chip) : c.msix.move = c.move := c.msix_keeps (fun d => d.move) (fun d h v s _ => by simp)
@[simp] theorem Chip.msix_toMove (c : Chip) : c.msix.toMove = c.toMove := c.msix_keeps (fun d => d.toMove) (fun d h v s _ => by simp)
@[simp] theorem Chip.msix_recov (c : Chip) : c.msix.recov = c.recov := c.msix_keeps (fun d => d.recov) (fun d h v s _ => by simp)
@[simp] theorem Chip.msix_haltDue (c : Chip) : c.msix.haltDue = c.haltDue := c.msix_keeps (fun d => d.haltDue) (fun d h v s _ => by simp)
@[simp] theorem Chip.msix_assist (c : Chip) : c.msix.assist = c.assist := c.msix_keeps (fun d => d.assist) (fun d h v s _ => by simp)
@[simp] theorem Chip.msix_hostMem (c : Chip) : c.msix.hostMem = c.hostMem := c.msix_keeps (fun d => d.hostMem) (fun d h v s _ => by simp)
@[simp] theorem Chip.msix_contexts (c : Chip) : c.msix.contexts = c.contexts := c.msix_keeps (fun d => d.contexts) (fun d h v s _ => by simp)
@[simp] theorem Chip.msix_busData (c : Chip) : c.msix.busData = c.busData := c.msix_keeps (fun d => d.busData) (fun d h v s _ => by simp)
@[simp] theorem Chip.msix_busBytes (c : Chip) : c.msix.busBytes = c.busBytes := c.msix_keeps (fun d => d.busBytes) (fun d h v s _ => by simp)
@[simp] theorem Chip.msix_lineOut (c : Chip) : c.msix.lineOut = c.lineOut := c.msix_keeps (fun d => d.lineOut) (fun d h v s _ => by simp)
@[simp] theorem Chip.msix_linePoison (c : Chip) : c.msix.linePoison = c.linePoison := c.msix_keeps (fun d => d.linePoison) (fun d h v s _ => by simp)
@[simp] theorem Chip.msix_boot (c : Chip) : c.msix.boot = c.boot := c.msix_keeps (fun d => d.boot) (fun d h v s _ => by simp)
@[simp] theorem Chip.msix_free (c : Chip) : c.msix.free = c.free := c.msix_keeps (fun d => d.free) (fun d h v s _ => by simp)
@[simp] theorem Chip.msix_read_gal (c : Chip) (n g : Nat) : c.msix.gal n g = c.gal n g := c.msix_keeps (fun d => d.gal n g) (fun d h v s _ => by simp)
@[simp] theorem Chip.msix_read_wing (c : Chip) (n : Nat) : c.msix.wing n = c.wing n := c.msix_keeps (fun d => d.wing n) (fun d h v s _ => by simp)
@[simp] theorem Chip.msix_read_die (c : Chip) (k : Nat) : c.msix.die k = c.die k := c.msix_keeps (fun d => d.die k) (fun d h v s _ => by simp)
@[simp] theorem Chip.msix_read_task (c : Chip) (t : Nat) : c.msix.task t = c.task t := c.msix_keeps (fun d => d.task t) (fun d h v s _ => by simp)
@[simp] theorem Chip.msix_read_pair (c : Chip) (n i : Nat) : c.msix.pair n i = c.pair n i := c.msix_keeps (fun d => d.pair n i) (fun d h v s _ => by simp)
@[simp] theorem Chip.msix_read_queue (c : Chip) (q : Nat) : c.msix.queue q = c.queue q := c.msix_keeps (fun d => d.queue q) (fun d h v s _ => by simp)
@[simp] theorem Chip.msix_read_cate (c : Chip) (i : Nat) : c.msix.cate i = c.cate i := c.msix_keeps (fun d => d.cate i) (fun d h v s _ => by simp)
@[simp] theorem Chip.msix_read_byte (c : Chip) (a : Nat) : c.msix.byte a = c.byte a := c.msix_keeps (fun d => d.byte a) (fun d h v s _ => by simp)
@[simp] theorem Chip.msix_read_isFull (c : Chip) (a : Nat) : c.msix.isFull a = c.isFull a := c.msix_keeps (fun d => d.isFull a) (fun d h v s _ => by simp)
@[simp] theorem Chip.msix_read_parAt (c : Chip) (a : Nat) : c.msix.parAt a = c.parAt a := c.msix_keeps (fun d => d.parAt a) (fun d h v s _ => by simp)

/-- Every register but the two arming registers reads as the command left it. -/
theorem Chip.msix_rd (c : Chip) (a : Nat) (h0 : a ≠ Reg.hostMsixArm 0) (h1 : a ≠ Reg.hostMsixArm 1) : c.msix.rd a = c.rd a :=
  c.msix_keeps (fun d => d.rd a) (fun d h v s hh => by
    have : a ≠ Reg.hostMsixArm h := by
      rcases h with _ | _ | h
      · exact h0
      · exact h1
      · omega
    simp [Chip.rd_setFlag_ne _ _ _ this])

theorem Chip.msix_fld (c : Chip) (a hi lo : Nat) (h0 : a ≠ Reg.hostMsixArm 0) (h1 : a ≠ Reg.hostMsixArm 1) : c.msix.fld a hi lo = c.fld a hi lo := by
  simp only [Chip.fld, Chip.rdN, c.msix_rd a h0 h1]

theorem Chip.msix_flag (c : Chip) (a i : Nat) (h0 : a ≠ Reg.hostMsixArm 0) (h1 : a ≠ Reg.hostMsixArm 1) : c.msix.flag a i = c.flag a i := by
  simp only [Chip.flag, Chip.rdN, c.msix_rd a h0 h1]

end Sys2Proof.Machine
end

