-- ==== Sys2Proof/Laws/Memory.lean ====
section
/-! SUPPORT. Memory: what a run of bytes that was stored reads as, that every other address keeps its byte, and that every
operation on memory keeps the canonical form. -/

namespace Sys2Proof.Machine

/-- The reset memory lists nothing, which is canonical. -/
theorem reset_mem_wf : Memory.wf State.reset.chip.mem := rfl

theorem Chip.setByte_wf {c : Chip} (a : Nat) (b : Byte) (h : Memory.wf c.mem) : Memory.wf (c.setByte a b).mem := NMap.set_wf _ _ h

theorem Chip.setBytes_wf {c : Chip} (a : Nat) (bs : List Byte) (h : Memory.wf c.mem) : Memory.wf (c.setBytes a bs).mem := by
  induction bs generalizing a c with
  | nil => exact h
  | cons b bs ih => exact ih (a + 1) (Chip.setByte_wf a b h)

/-- Stored bytes change memory alone. -/
theorem Chip.setBytes_keeps {β : Type} (p : Chip → β) (hp : ∀ (d : Chip) (a : Nat) (b : Byte), p (d.setByte a b) = p d) (c : Chip) (a : Nat)
    (bs : List Byte) : p (c.setBytes a bs) = p c := by
  induction bs generalizing a c with
  | nil => rfl
  | cons b bs ih => rw [Chip.setBytes, ih, hp]

/-- An address outside the stored bytes keeps its byte. -/
theorem Chip.byte_setBytes_out (c : Chip) (a : Nat) (bs : List Byte) (x : Nat) (h : x < a ∨ a + bs.length ≤ x) :
    (c.setBytes a bs).byte x = c.byte x := by
  induction bs generalizing a c with
  | nil => rfl
  | cons b bs ih =>
    simp only [List.length_cons] at h
    rw [Chip.setBytes, ih (c.setByte a b) (a + 1) (by omega), Chip.byte_setByte_ne _ _ (by omega)]

/-- An address inside the stored bytes reads the byte stored there. -/
theorem Chip.byte_setBytes_in (c : Chip) (a : Nat) (bs : List Byte) (k : Nat) (h : k < bs.length) :
    (c.setBytes a bs).byte (a + k) = nth 0 bs k := by
  induction bs generalizing a c k with
  | nil => simp at h
  | cons b bs ih =>
    rw [Chip.setBytes]
    cases k with
    | zero => rw [Chip.byte_setBytes_out _ _ _ _ (by omega)]; simp [nth]
    | succ k =>
      have := ih (c.setByte a b) (a + 1) k (by simpa using h)
      rw [show a + (k + 1) = a + 1 + k by omega, this, nth]

/-- Bytes read back from where they were stored. -/
theorem Chip.bytes_setBytes (c : Chip) (a : Nat) (bs : List Byte) : (c.setBytes a bs).bytes a bs.length = bs := by
  have aux : ∀ (l : List Byte) (d : Chip) (x : Nat), (∀ k, k < l.length → d.byte (x + k) = nth 0 l k) → d.bytes x l.length = l := by
    intro l
    induction l with
    | nil => intro d x _; rfl
    | cons b bs ih =>
      intro d x h
      simp only [List.length_cons, Chip.bytes]
      have h0 := h 0 (by simp)
      simp only [Nat.add_zero, nth] at h0
      rw [h0, ih d (x + 1) (fun k hk => by
        have := h (k + 1) (by simpa using hk)
        rw [show x + 1 + k = x + (k + 1) by omega, this, nth])]
  exact aux bs _ a (fun k hk => Chip.byte_setBytes_in c a bs k hk)

/-- Bytes read apart from where bytes were stored. -/
theorem Chip.bytes_setBytes_out (c : Chip) (a : Nat) (bs : List Byte) (x n : Nat) (h : x + n ≤ a ∨ a + bs.length ≤ x) :
    (c.setBytes a bs).bytes x n = c.bytes x n := by
  induction n generalizing x with
  | zero => rfl
  | succ n ih => rw [Chip.bytes, Chip.bytes, ih (x + 1) (by omega), Chip.byte_setBytes_out _ _ _ _ (by omega)]

theorem Chip.writeRecord_wf {c : Chip} (n l : Nat) (data : List Byte) (h : Memory.wf c.mem) : Memory.wf (c.writeRecord n l data).mem :=
  Chip.setBytes_wf _ _ h

theorem Chip.setPars_mem (c : Chip) (a : Nat) (vs : List Nat) : (c.setPars a vs).mem = c.mem := by
  induction vs generalizing a c with
  | nil => rfl
  | cons v vs ih => rw [Chip.setPars, ih, Chip.setPar_mem]

theorem Chip.setWord_wf {c : Chip} (a : Nat) (v : Word) (h : Memory.wf c.mem) : Memory.wf (c.setWord a v).mem := by
  rw [Chip.setWord, Chip.setPars_mem]; exact Chip.setBytes_wf _ _ h

theorem NMap.mem_wfFrom {α : Type} [DecidableEq α] {d : Nat → α} {b : Nat} {m : NMap α} (h : NMap.wfFrom d b m = true) {p : Nat × α}
    (hp : p ∈ m) : b ≤ p.1 ∧ p.2 ≠ d p.1 := by
  induction m generalizing b with
  | nil => simp at hp
  | cons q t ih =>
    obtain ⟨k, v⟩ := q
    simp only [NMap.wfFrom, Bool.and_eq_true, decide_eq_true_eq] at h
    rcases List.mem_cons.mp hp with rfl | hp
    · exact h.1
    · have := ih h.2 hp
      exact ⟨by omega, this.2⟩

/-- A copied block keeps the canonical form, where an unlisted key reads the same everywhere. -/
theorem copyRange_wf {α : Type} [DecidableEq α] {z : α} {m : NMap α} (a b n : Nat) (h : NMap.wf (fun _ => z) m = true) :
    NMap.wf (fun _ => z) (copyRange m a b n) = true := by
  unfold copyRange
  have aux : ∀ (l : List (Nat × α)) (acc : NMap α), (∀ p ∈ l, p.2 ≠ z) → NMap.wf (fun _ => z) acc = true →
      NMap.wf (fun _ => z) (l.foldl (fun acc p => NMap.put acc (b + (p.1 - a)) p.2) acc) = true := by
    intro l
    induction l with
    | nil => intro acc _ h; exact h
    | cons p t ih =>
      intro acc hl hacc
      exact ih _ (fun q hq => hl q (List.mem_cons_of_mem _ hq))
        (NMap.put_wfFrom hacc (Nat.zero_le _) (hl p List.mem_cons_self))
  refine aux _ _ (fun p hp => ?_) (NMap.filter_wf _ h)
  exact (NMap.mem_wfFrom h (List.mem_of_mem_filter hp)).2

/-- Clearing an annex slice keeps the canonical form (R299). -/
theorem annexClearDone_wf {c : Chip} (n : Nat) (h : Memory.wf c.mem) : Memory.wf (annexClearDone n c).mem := by
  unfold annexClearDone
  split
  · exact NMap.filter_wf _ h
  · exact h

/-- A hard reset keeps the canonical form (log 39). -/
theorem Chip.hardReset_wf {c : Chip} (p : BootPhase) (h : Memory.wf c.mem) : Memory.wf (c.hardReset p).mem := NMap.filter_wf _ h

end Sys2Proof.Machine
end

