-- ==== Sys2Proof/Laws/Frame.lean ====
section
/-! SUPPORT. Frames: how the frame of a command is built from the frames of the updates it makes, one rule for each named update, and
what a frame of the part gives for the whole block. -/

namespace Sys2Proof.Machine

theorem Chip.Frame.refl (x : Touch) (c : Chip) : Chip.Frame x c c := by
  constructor
  case parts => intro p _; cases p <;> rfl
  all_goals intros; rfl

theorem Part.same_trans {c d e : Chip} {p : Part} (h : p.same c d) (h' : p.same d e) : p.same c e := by
  cases p <;> exact Eq.trans h' h

theorem Chip.Frame.trans {x : Touch} {c d e : Chip} (h : Chip.Frame x c d) (h' : Chip.Frame x d e) : Chip.Frame x c e where
  regs a i n := (h'.regs a i n).trans (h.regs a i n)
  mem a n := (h'.mem a n).trans (h.mem a n)
  full a n := (h'.full a n).trans (h.full a n)
  par a n := (h'.par a n).trans (h.par a n)
  gals a n := (h'.gals a n).trans (h.gals a n)
  wings a n := (h'.wings a n).trans (h.wings a n)
  dies a n := (h'.dies a n).trans (h.dies a n)
  tasks a n := (h'.tasks a n).trans (h.tasks a n)
  cat a n := (h'.cat a n).trans (h.cat a n)
  pairs a n := (h'.pairs a n).trans (h.pairs a n)
  queues a n := (h'.queues a n).trans (h.queues a n)
  census a n := (h'.census a n).trans (h.census a n)
  hosts a n := (h'.hosts a n).trans (h.hosts a n)
  parts p n := Part.same_trans (h.parts p n) (h'.parts p n)

/-- A frame with a longer list of what may be touched. -/
theorem Chip.Frame.weaken {x y : Touch} {c d : Chip} (h : Chip.Frame x c d) (w : Touch.le x y) : Chip.Frame y c d where
  regs a i n := h.regs a i fun m => n (w.regs a i m)
  mem a n := h.mem a fun m => n (w.mem a m)
  full a n := h.full a fun m => n (w.full a m)
  par a n := h.par a fun m => n (w.par a m)
  gals a n := h.gals a fun m => n (w.gals a m)
  wings a n := h.wings a fun m => n (w.wings a m)
  dies a n := h.dies a fun m => n (w.dies a m)
  tasks a n := h.tasks a fun m => n (w.tasks a m)
  cat a n := h.cat a fun m => n (w.cat a m)
  pairs a n := h.pairs a fun m => n (w.pairs a m)
  queues a n := h.queues a fun m => n (w.queues a m)
  census a n := h.census a fun m => n (w.census a m)
  hosts a n := h.hosts a fun m => n (w.hosts a m)
  parts p n := h.parts p fun m => n (w.parts p m)

theorem Touch.le_refl (x : Touch) : Touch.le x x := by constructor <;> (intros; assumption)

theorem Touch.le_trans {x y z : Touch} (a : Touch.le x y) (b : Touch.le y z) : Touch.le x z :=
  ⟨fun k i h => b.regs k i (a.regs k i h), fun k h => b.mem k (a.mem k h), fun k h => b.full k (a.full k h),
   fun k h => b.par k (a.par k h), fun k h => b.gals k (a.gals k h), fun k h => b.wings k (a.wings k h),
   fun k h => b.dies k (a.dies k h), fun k h => b.tasks k (a.tasks k h), fun k h => b.cat k (a.cat k h),
   fun k h => b.pairs k (a.pairs k h), fun k h => b.queues k (a.queues k h), fun k h => b.census k (a.census k h),
   fun k h => b.hosts k (a.hosts k h), fun k h => b.parts k (a.parts k h)⟩

theorem Touch.le_left (x y : Touch) : Touch.le x (x.or y) := by
  constructor
  case parts => intro k h; exact List.mem_append_left _ h
  all_goals intros; exact Or.inl ‹_›

theorem Touch.le_right (x y : Touch) : Touch.le y (x.or y) := by
  constructor
  case parts => intro k h; exact List.mem_append_right _ h
  all_goals intros; exact Or.inr ‹_›

theorem Touch.or_le {x y z : Touch} (a : Touch.le x z) (b : Touch.le y z) : Touch.le (x.or y) z :=
  ⟨fun k i h => h.elim (a.regs k i) (b.regs k i), fun k h => h.elim (a.mem k) (b.mem k), fun k h => h.elim (a.full k) (b.full k),
   fun k h => h.elim (a.par k) (b.par k), fun k h => h.elim (a.gals k) (b.gals k), fun k h => h.elim (a.wings k) (b.wings k),
   fun k h => h.elim (a.dies k) (b.dies k), fun k h => h.elim (a.tasks k) (b.tasks k), fun k h => h.elim (a.cat k) (b.cat k),
   fun k h => h.elim (a.pairs k) (b.pairs k), fun k h => h.elim (a.queues k) (b.queues k),
   fun k h => h.elim (a.census k) (b.census k), fun k h => h.elim (a.hosts k) (b.hosts k),
   fun k h => (List.mem_append.mp h).elim (a.parts k) (b.parts k)⟩

theorem Chip.Frame.left {x : Touch} (y : Touch) {c d : Chip} (h : Chip.Frame x c d) : Chip.Frame (x.or y) c d :=
  h.weaken (Touch.le_left x y)

/-- A further operation, framed by what it alone may touch. -/
theorem Chip.Frame.after {x y : Touch} {c d e : Chip} (h : Chip.Frame x c d) (h' : Chip.Frame y d e) (w : Touch.le y x) :
    Chip.Frame x c e := h.trans (h'.weaken w)

/-- One update framed after what came before it. -/
theorem Chip.Frame.ite {x : Touch} {c d e : Chip} {p : Prop} [Decidable p] (h : p → Chip.Frame x c d) (h' : ¬ p → Chip.Frame x c e) :
    Chip.Frame x c (if p then d else e) := by
  split
  · exact h ‹_›
  · exact h' ‹_›

theorem Chip.Frame.foldl {x : Touch} {c : Chip} {γ : Type} (f : Chip → γ → Chip) (l : List γ) {d : Chip}
    (hf : ∀ e, ∀ y ∈ l, Chip.Frame x c e → Chip.Frame x c (f e y)) (h : Chip.Frame x c d) : Chip.Frame x c (l.foldl f d) := by
  induction l generalizing d with
  | nil => exact h
  | cons y t ih => exact ih (fun e z hz => hf e z (List.mem_cons_of_mem _ hz)) (hf d y List.mem_cons_self h)

variable {x : Touch} {c d : Chip}

/-- A register written: every bit of it may change. -/
theorem Chip.Frame.wr (h : Chip.Frame x c d) (a : Nat) (v : Word) (ok : ∀ i, x.regs a i) : Chip.Frame x c (d.wr a v) where
  regs := fun b i nn => by
    have : b ≠ a := fun e => nn (e ▸ ok i)
    rw [Chip.rd_wr_ne _ _ this]; exact h.regs b i nn
  mem k n := h.mem k n
  full k n := h.full k n
  par k n := h.par k n
  gals k n := h.gals k n
  wings k n := h.wings k n
  dies k n := h.dies k n
  tasks k n := h.tasks k n
  cat k n := h.cat k n
  pairs k n := h.pairs k n
  queues k n := h.queues k n
  census k n := h.census k n
  hosts k n := h.hosts k n
  parts p n := by cases p <;> exact h.parts _ n

/-- A field set: only its bits may change. -/
theorem Chip.Frame.setFld (h : Chip.Frame x c d) (a hi lo v : Nat) (le : lo ≤ hi) (ok : ∀ i, lo ≤ i → i ≤ hi → x.regs a i) :
    Chip.Frame x c (d.setFld a hi lo v) where
  regs := fun b i nn => by
    rw [← h.regs b i nn]
    by_cases e : b = a
    · subst e
      have : ¬ (lo ≤ i ∧ i ≤ hi) := fun m => nn (ok i m.1 m.2)
      simp only [Chip.setFld, Chip.rd_wr_self, w64, BitVec.getLsbD_ofNat, testBit_setBits _ _ _ _ _ le, if_neg this, Chip.rdN]
      by_cases hi' : i < 64
      · simp [hi', BitVec.getLsbD]
      · simp [hi', BitVec.getLsbD_of_ge _ _ (Nat.not_lt.mp hi')]
    · rw [Chip.rd_setFld_ne _ _ _ _ e]
  mem k n := h.mem k n
  full k n := h.full k n
  par k n := h.par k n
  gals k n := h.gals k n
  wings k n := h.wings k n
  dies k n := h.dies k n
  tasks k n := h.tasks k n
  cat k n := h.cat k n
  pairs k n := h.pairs k n
  queues k n := h.queues k n
  census k n := h.census k n
  hosts k n := h.hosts k n
  parts p n := by cases p <;> exact h.parts _ n

theorem Chip.Frame.setFlag (h : Chip.Frame x c d) (a i : Nat) (b : Bool) (ok : x.regs a i) : Chip.Frame x c (d.setFlag a i b) :=
  h.setFld a i i _ (Nat.le_refl _) fun j h1 h2 => by rw [Nat.le_antisymm h2 h1]; exact ok

theorem Chip.Frame.countBy (h : Chip.Frame x c d) (a k : Nat) (ok : ∀ i, i ≤ 47 → x.regs a i) : Chip.Frame x c (d.countBy a k) :=
  h.setFld a 47 0 _ (by decide) fun i _ h2 => ok i h2

theorem Chip.Frame.raise (h : Chip.Frame x c d) (a i k : Nat) (ok : x.regs a i) (ok' : ∀ i, i ≤ 47 → x.regs k i) :
    Chip.Frame x c (d.raise a i k) := (h.setFlag a i true ok).countBy k 1 ok'

theorem Chip.Frame.satBy (h : Chip.Frame x c d) (a hi lo k : Nat) (le : lo ≤ hi) (ok : ∀ i, lo ≤ i → i ≤ hi → x.regs a i) :
    Chip.Frame x c (d.satBy a hi lo k) := h.setFld a hi lo _ le ok

theorem Chip.Frame.setByte (h : Chip.Frame x c d) (a : Nat) (b : Byte) (ok : x.mem a) : Chip.Frame x c (d.setByte a b) where
  regs a i n := h.regs a i n
  mem := fun j nn => by
    have : j ≠ a := fun e => nn (by rw [e]; exact ok)
    rw [← h.mem j nn]; exact NMap.get_set_ne _ _ _ this
  full k n := h.full k n
  par k n := h.par k n
  gals k n := h.gals k n
  wings k n := h.wings k n
  dies k n := h.dies k n
  tasks k n := h.tasks k n
  cat k n := h.cat k n
  pairs k n := h.pairs k n
  queues k n := h.queues k n
  census k n := h.census k n
  hosts k n := h.hosts k n
  parts p n := by cases p <;> exact h.parts _ n

theorem Chip.Frame.setFull (h : Chip.Frame x c d) (a : Nat) (b : Bool) (ok : x.full (a / 8)) : Chip.Frame x c (d.setFull a b) where
  regs a i n := h.regs a i n
  mem k n := h.mem k n
  full := fun j nn => by
    have : j ≠ a / 8 := fun e => nn (by rw [e]; exact ok)
    rw [← h.full j nn]; exact NMap.get_set_ne _ _ _ this
  par k n := h.par k n
  gals k n := h.gals k n
  wings k n := h.wings k n
  dies k n := h.dies k n
  tasks k n := h.tasks k n
  cat k n := h.cat k n
  pairs k n := h.pairs k n
  queues k n := h.queues k n
  census k n := h.census k n
  hosts k n := h.hosts k n
  parts p n := by cases p <;> exact h.parts _ n

theorem Chip.Frame.setPar (h : Chip.Frame x c d) (a v : Nat) (ok : x.par (a / 4)) : Chip.Frame x c (d.setPar a v) where
  regs a i n := h.regs a i n
  mem k n := h.mem k n
  full k n := h.full k n
  par := fun j nn => by
    have : j ≠ a / 4 := fun e => nn (by rw [e]; exact ok)
    rw [← h.par j nn]; exact NMap.get_set_ne _ _ _ this
  gals k n := h.gals k n
  wings k n := h.wings k n
  dies k n := h.dies k n
  tasks k n := h.tasks k n
  cat k n := h.cat k n
  pairs k n := h.pairs k n
  queues k n := h.queues k n
  census k n := h.census k n
  hosts k n := h.hosts k n
  parts p n := by cases p <;> exact h.parts _ n

theorem Chip.Frame.setGal (h : Chip.Frame x c d) (n g : Nat) (y : Gal) (ok : x.gals (galKey n g)) : Chip.Frame x c (d.setGal n g y) where
  regs a i n := h.regs a i n
  mem k n := h.mem k n
  full k n := h.full k n
  par k n := h.par k n
  gals := fun j nn => by
    have : j ≠ galKey n g := fun e => nn (by rw [e]; exact ok)
    rw [← h.gals j nn]; exact NMap.get_set_ne _ _ _ this
  wings k n := h.wings k n
  dies k n := h.dies k n
  tasks k n := h.tasks k n
  cat k n := h.cat k n
  pairs k n := h.pairs k n
  queues k n := h.queues k n
  census k n := h.census k n
  hosts k n := h.hosts k n
  parts p n := by cases p <;> exact h.parts _ n

theorem Chip.Frame.setWing (h : Chip.Frame x c d) (n : Nat) (y : WingSt) (ok : x.wings n) : Chip.Frame x c (d.setWing n y) where
  regs a i n := h.regs a i n
  mem k n := h.mem k n
  full k n := h.full k n
  par k n := h.par k n
  gals k n := h.gals k n
  wings := fun j nn => by
    have : j ≠ n := fun e => nn (by rw [e]; exact ok)
    rw [← h.wings j nn]; exact NMap.get_set_ne _ _ _ this
  dies k n := h.dies k n
  tasks k n := h.tasks k n
  cat k n := h.cat k n
  pairs k n := h.pairs k n
  queues k n := h.queues k n
  census k n := h.census k n
  hosts k n := h.hosts k n
  parts p n := by cases p <;> exact h.parts _ n

theorem Chip.Frame.modDie (h : Chip.Frame x c d) (n : Nat) (f : Die → Die) (ok : x.dies n) : Chip.Frame x c (d.modDie n f) where
  regs a i n := h.regs a i n
  mem k n := h.mem k n
  full k n := h.full k n
  par k n := h.par k n
  gals k n := h.gals k n
  wings k n := h.wings k n
  dies := fun j nn => by
    have : j ≠ n := fun e => nn (by rw [e]; exact ok)
    rw [← h.dies j nn]; exact NMap.get_set_ne _ _ _ this
  tasks k n := h.tasks k n
  cat k n := h.cat k n
  pairs k n := h.pairs k n
  queues k n := h.queues k n
  census k n := h.census k n
  hosts k n := h.hosts k n
  parts p n := by cases p <;> exact h.parts _ n

theorem Chip.Frame.setTask (h : Chip.Frame x c d) (t : Nat) (y : TaskSt) (ok : x.tasks t) : Chip.Frame x c (d.setTask t y) where
  regs a i n := h.regs a i n
  mem k n := h.mem k n
  full k n := h.full k n
  par k n := h.par k n
  gals k n := h.gals k n
  wings k n := h.wings k n
  dies k n := h.dies k n
  tasks := fun j nn => by
    have : j ≠ t := fun e => nn (by rw [e]; exact ok)
    rw [← h.tasks j nn]; exact NMap.get_set_ne _ _ _ this
  cat k n := h.cat k n
  pairs k n := h.pairs k n
  queues k n := h.queues k n
  census k n := h.census k n
  hosts k n := h.hosts k n
  parts p n := by cases p <;> exact h.parts _ n

theorem Chip.Frame.rawCat (h : Chip.Frame x c d) (t : Nat) (y : CatEntry) (ok : x.cat t) : Chip.Frame x c (d.rawCat t y) where
  regs a i n := h.regs a i n
  mem k n := h.mem k n
  full k n := h.full k n
  par k n := h.par k n
  gals k n := h.gals k n
  wings k n := h.wings k n
  dies k n := h.dies k n
  tasks k n := h.tasks k n
  cat := fun j nn => by
    have : j ≠ t := fun e => nn (by rw [e]; exact ok)
    rw [← h.cat j nn]; exact NMap.get_set_ne _ _ _ this
  pairs k n := h.pairs k n
  queues k n := h.queues k n
  census k n := h.census k n
  hosts k n := h.hosts k n
  parts p n := by cases p <;> exact h.parts _ n

theorem Chip.Frame.setPair (h : Chip.Frame x c d) (n i : Nat) (y : Pair) (ok : x.pairs (n * 4096 + i)) : Chip.Frame x c (d.setPair n i y) where
  regs a i n := h.regs a i n
  mem k n := h.mem k n
  full k n := h.full k n
  par k n := h.par k n
  gals k n := h.gals k n
  wings k n := h.wings k n
  dies k n := h.dies k n
  tasks k n := h.tasks k n
  cat k n := h.cat k n
  pairs := fun j nn => by
    have : j ≠ n * 4096 + i := fun e => nn (by rw [e]; exact ok)
    rw [← h.pairs j nn]; exact NMap.get_set_ne _ _ _ this
  queues k n := h.queues k n
  census k n := h.census k n
  hosts k n := h.hosts k n
  parts p n := by cases p <;> exact h.parts _ n

theorem Chip.Frame.setQueue (h : Chip.Frame x c d) (q : Nat) (l : List Word) (ok : x.queues q) : Chip.Frame x c (d.setQueue q l) where
  regs a i n := h.regs a i n
  mem k n := h.mem k n
  full k n := h.full k n
  par k n := h.par k n
  gals k n := h.gals k n
  wings k n := h.wings k n
  dies k n := h.dies k n
  tasks k n := h.tasks k n
  cat k n := h.cat k n
  pairs k n := h.pairs k n
  queues := fun j nn => by
    have : j ≠ q := fun e => nn (by rw [e]; exact ok)
    rw [← h.queues j nn]; exact NMap.get_set_ne _ _ _ this
  census k n := h.census k n
  hosts k n := h.hosts k n
  parts p n := by cases p <;> exact h.parts _ n

theorem Chip.Frame.setCounts (h : Chip.Frame x c d) (t k : Nat) (v : TCount) (ok : x.census (countKey t k)) :
    Chip.Frame x c (d.setCounts t k v) where
  regs a i n := h.regs a i n
  mem k n := h.mem k n
  full k n := h.full k n
  par k n := h.par k n
  gals k n := h.gals k n
  wings k n := h.wings k n
  dies k n := h.dies k n
  tasks k n := h.tasks k n
  cat k n := h.cat k n
  pairs k n := h.pairs k n
  queues k n := h.queues k n
  census := fun j nn => by
    have : j ≠ countKey t k := fun e => nn (by rw [e]; exact ok)
    rw [← h.census j nn]; exact NMap.get_set_ne _ _ _ this
  hosts k n := h.hosts k n
  parts p n := by cases p <;> exact h.parts _ n

theorem Chip.Frame.modHost (h : Chip.Frame x c d) (k : Nat) (f : HostSt → HostSt) (ok : x.hosts k) : Chip.Frame x c (d.modHost k f) where
  regs a i n := h.regs a i n
  mem k n := h.mem k n
  full k n := h.full k n
  par k n := h.par k n
  gals k n := h.gals k n
  wings k n := h.wings k n
  dies k n := h.dies k n
  tasks k n := h.tasks k n
  cat k n := h.cat k n
  pairs k n := h.pairs k n
  queues k n := h.queues k n
  census k n := h.census k n
  hosts := fun j nn => by
    have : j ≠ k := fun e => nn (by rw [e]; exact ok)
    rw [← h.hosts j nn, Chip.host_modHost_ne _ _ this]
  parts p n := by cases p <;> exact h.parts _ n

/-- A message sent or made pending on a port is no change of the port that a frame sees. -/
theorem Chip.Frame.modHost_bare (h : Chip.Frame x c d) (k : Nat) (f : HostSt → HostSt) (hf : ∀ s, (f s).bare = s.bare) :
    Chip.Frame x c (d.modHost k f) where
  regs a i n := h.regs a i n
  mem k n := h.mem k n
  full k n := h.full k n
  par k n := h.par k n
  gals k n := h.gals k n
  wings k n := h.wings k n
  dies k n := h.dies k n
  tasks k n := h.tasks k n
  cat k n := h.cat k n
  pairs k n := h.pairs k n
  queues k n := h.queues k n
  census k n := h.census k n
  hosts := fun j nn => by
    rw [← h.hosts j nn]
    by_cases e : j = k
    · subst e; rw [Chip.host_modHost_self, hf]
    · rw [Chip.host_modHost_ne _ _ e]
  parts p n := by cases p <;> exact h.parts _ n

theorem Chip.Frame.modGal (h : Chip.Frame x c d) (n g : Nat) (f : Gal → Gal) (ok : x.gals (galKey n g)) :
    Chip.Frame x c (d.modGal n g f) := h.setGal n g _ ok

theorem Chip.Frame.modThread (h : Chip.Frame x c d) (n g th : Nat) (f : ThreadSt → ThreadSt) (ok : x.gals (galKey n g)) :
    Chip.Frame x c (d.modThread n g th f) := h.setGal n g _ ok

theorem Chip.Frame.modWing (h : Chip.Frame x c d) (n : Nat) (f : WingSt → WingSt) (ok : x.wings n) :
    Chip.Frame x c (d.modWing n f) := h.setWing n _ ok

theorem Chip.Frame.modArr (h : Chip.Frame x c d) (n a : Nat) (f : Arr → Arr) (ok : x.wings n) :
    Chip.Frame x c (d.modArr n a f) := h.setWing n _ ok

theorem Chip.Frame.modPort (h : Chip.Frame x c d) (n a : Nat) (f : PortSt → PortSt) (ok : x.wings n) :
    Chip.Frame x c (d.modPort n a f) := h.setWing n _ ok

theorem Chip.Frame.modTask (h : Chip.Frame x c d) (t : Nat) (f : TaskSt → TaskSt) (ok : x.tasks t) :
    Chip.Frame x c (d.modTask t f) := h.setTask t _ ok

theorem Chip.Frame.setBytes (h : Chip.Frame x c d) (a : Nat) (bs : List Byte) (ok : ∀ k, a ≤ k → k < a + bs.length → x.mem k) :
    Chip.Frame x c (d.setBytes a bs) := by
  induction bs generalizing a d with
  | nil => exact h
  | cons b t ih =>
    simp only [List.length_cons] at ok
    exact ih (h.setByte a b (ok a (Nat.le_refl _) (by omega))) (a + 1) fun k h1 h2 => ok k (by omega) (by omega)

theorem Chip.Frame.setPars (h : Chip.Frame x c d) (a : Nat) (vs : List Nat) (ok : ∀ k, k < vs.length → x.par (a / 4 + k)) :
    Chip.Frame x c (d.setPars a vs) := by
  induction vs generalizing a d with
  | nil => exact h
  | cons v t ih =>
    refine ih (h.setPar a v (by simpa using ok 0 (by simp))) (a + 4) fun k hk => ?_
    have := ok (k + 1) (by simpa using hk)
    have e : (a + 4) / 4 + k = a / 4 + (k + 1) := by omega
    rw [e]; exact this

theorem Chip.Frame.draw (h : Chip.Frame x c d) (ok : .free ∈ x.parts) : Chip.Frame x c d.draw where
  regs a i n := h.regs a i n
  mem k n := h.mem k n
  full k n := h.full k n
  par k n := h.par k n
  gals k n := h.gals k n
  wings k n := h.wings k n
  dies k n := h.dies k n
  tasks k n := h.tasks k n
  cat k n := h.cat k n
  pairs k n := h.pairs k n
  queues k n := h.queues k n
  census k n := h.census k n
  hosts k n := h.hosts k n
  parts := fun p n => by
    cases p <;> first | exact h.parts _ n | exact absurd ok n

theorem Chip.Frame.with_recErr (h : Chip.Frame x c d) (v : NMap (BitVec 16)) (ok : .recErr ∈ x.parts) : Chip.Frame x c { d with recErr := v } where
  regs a i n := h.regs a i n
  mem k n := h.mem k n
  full k n := h.full k n
  par k n := h.par k n
  gals k n := h.gals k n
  wings k n := h.wings k n
  dies k n := h.dies k n
  tasks k n := h.tasks k n
  cat k n := h.cat k n
  pairs k n := h.pairs k n
  queues k n := h.queues k n
  census k n := h.census k n
  hosts k n := h.hosts k n
  parts := fun p n => by
    cases p <;> first | exact h.parts _ n | exact absurd ok n

theorem Chip.Frame.with_waits (h : Chip.Frame x c d) (v : List Wait) (ok : .waits ∈ x.parts) : Chip.Frame x c { d with waits := v } where
  regs a i n := h.regs a i n
  mem k n := h.mem k n
  full k n := h.full k n
  par k n := h.par k n
  gals k n := h.gals k n
  wings k n := h.wings k n
  dies k n := h.dies k n
  tasks k n := h.tasks k n
  cat k n := h.cat k n
  pairs k n := h.pairs k n
  queues k n := h.queues k n
  census k n := h.census k n
  hosts k n := h.hosts k n
  parts := fun p n => by
    cases p <;> first | exact h.parts _ n | exact absurd ok n

theorem Chip.Frame.with_resends (h : Chip.Frame x c d) (v : List Wait) (ok : .resends ∈ x.parts) : Chip.Frame x c { d with resends := v } where
  regs a i n := h.regs a i n
  mem k n := h.mem k n
  full k n := h.full k n
  par k n := h.par k n
  gals k n := h.gals k n
  wings k n := h.wings k n
  dies k n := h.dies k n
  tasks k n := h.tasks k n
  cat k n := h.cat k n
  pairs k n := h.pairs k n
  queues k n := h.queues k n
  census k n := h.census k n
  hosts k n := h.hosts k n
  parts := fun p n => by
    cases p <;> first | exact h.parts _ n | exact absurd ok n

theorem Chip.Frame.with_catLate (h : Chip.Frame x c d) (v : List (Nat × CatEntry)) (ok : .catLate ∈ x.parts) : Chip.Frame x c { d with catLate := v } where
  regs a i n := h.regs a i n
  mem k n := h.mem k n
  full k n := h.full k n
  par k n := h.par k n
  gals k n := h.gals k n
  wings k n := h.wings k n
  dies k n := h.dies k n
  tasks k n := h.tasks k n
  cat k n := h.cat k n
  pairs k n := h.pairs k n
  queues k n := h.queues k n
  census k n := h.census k n
  hosts k n := h.hosts k n
  parts := fun p n => by
    cases p <;> first | exact h.parts _ n | exact absurd ok n

theorem Chip.Frame.with_planLate (h : Chip.Frame x c d) (v : List Nat) (ok : .planLate ∈ x.parts) : Chip.Frame x c { d with planLate := v } where
  regs a i n := h.regs a i n
  mem k n := h.mem k n
  full k n := h.full k n
  par k n := h.par k n
  gals k n := h.gals k n
  wings k n := h.wings k n
  dies k n := h.dies k n
  tasks k n := h.tasks k n
  cat k n := h.cat k n
  pairs k n := h.pairs k n
  queues k n := h.queues k n
  census k n := h.census k n
  hosts k n := h.hosts k n
  parts := fun p n => by
    cases p <;> first | exact h.parts _ n | exact absurd ok n

theorem Chip.Frame.with_pinDue (h : Chip.Frame x c d) (v : List (Nat × Bool)) (ok : .pinDue ∈ x.parts) : Chip.Frame x c { d with pinDue := v } where
  regs a i n := h.regs a i n
  mem k n := h.mem k n
  full k n := h.full k n
  par k n := h.par k n
  gals k n := h.gals k n
  wings k n := h.wings k n
  dies k n := h.dies k n
  tasks k n := h.tasks k n
  cat k n := h.cat k n
  pairs k n := h.pairs k n
  queues k n := h.queues k n
  census k n := h.census k n
  hosts k n := h.hosts k n
  parts := fun p n => by
    cases p <;> first | exact h.parts _ n | exact absurd ok n

theorem Chip.Frame.with_redirTask (h : Chip.Frame x c d) (v : NMap Nat) (ok : .redirTask ∈ x.parts) : Chip.Frame x c { d with redirTask := v } where
  regs a i n := h.regs a i n
  mem k n := h.mem k n
  full k n := h.full k n
  par k n := h.par k n
  gals k n := h.gals k n
  wings k n := h.wings k n
  dies k n := h.dies k n
  tasks k n := h.tasks k n
  cat k n := h.cat k n
  pairs k n := h.pairs k n
  queues k n := h.queues k n
  census k n := h.census k n
  hosts k n := h.hosts k n
  parts := fun p n => by
    cases p <;> first | exact h.parts _ n | exact absurd ok n

theorem Chip.Frame.with_putWait (h : Chip.Frame x c d) (v : List (Nat × Word)) (ok : .putWait ∈ x.parts) : Chip.Frame x c { d with putWait := v } where
  regs a i n := h.regs a i n
  mem k n := h.mem k n
  full k n := h.full k n
  par k n := h.par k n
  gals k n := h.gals k n
  wings k n := h.wings k n
  dies k n := h.dies k n
  tasks k n := h.tasks k n
  cat k n := h.cat k n
  pairs k n := h.pairs k n
  queues k n := h.queues k n
  census k n := h.census k n
  hosts k n := h.hosts k n
  parts := fun p n => by
    cases p <;> first | exact h.parts _ n | exact absurd ok n

theorem Chip.Frame.with_takeWait (h : Chip.Frame x c d) (v : List Nat) (ok : .takeWait ∈ x.parts) : Chip.Frame x c { d with takeWait := v } where
  regs a i n := h.regs a i n
  mem k n := h.mem k n
  full k n := h.full k n
  par k n := h.par k n
  gals k n := h.gals k n
  wings k n := h.wings k n
  dies k n := h.dies k n
  tasks k n := h.tasks k n
  cat k n := h.cat k n
  pairs k n := h.pairs k n
  queues k n := h.queues k n
  census k n := h.census k n
  hosts k n := h.hosts k n
  parts := fun p n => by
    cases p <;> first | exact h.parts _ n | exact absurd ok n

theorem Chip.Frame.with_taken (h : Chip.Frame x c d) (v : Word) (ok : .taken ∈ x.parts) : Chip.Frame x c { d with taken := v } where
  regs a i n := h.regs a i n
  mem k n := h.mem k n
  full k n := h.full k n
  par k n := h.par k n
  gals k n := h.gals k n
  wings k n := h.wings k n
  dies k n := h.dies k n
  tasks k n := h.tasks k n
  cat k n := h.cat k n
  pairs k n := h.pairs k n
  queues k n := h.queues k n
  census k n := h.census k n
  hosts k n := h.hosts k n
  parts := fun p n => by
    cases p <;> first | exact h.parts _ n | exact absurd ok n

theorem Chip.Frame.with_histStep (h : Chip.Frame x c d) (v : NMap (List Nat)) (ok : .histStep ∈ x.parts) : Chip.Frame x c { d with histStep := v } where
  regs a i n := h.regs a i n
  mem k n := h.mem k n
  full k n := h.full k n
  par k n := h.par k n
  gals k n := h.gals k n
  wings k n := h.wings k n
  dies k n := h.dies k n
  tasks k n := h.tasks k n
  cat k n := h.cat k n
  pairs k n := h.pairs k n
  queues k n := h.queues k n
  census k n := h.census k n
  hosts k n := h.hosts k n
  parts := fun p n => by
    cases p <;> first | exact h.parts _ n | exact absurd ok n

theorem Chip.Frame.with_tick (h : Chip.Frame x c d) (v : TickSt) (ok : .tick ∈ x.parts) : Chip.Frame x c { d with tick := v } where
  regs a i n := h.regs a i n
  mem k n := h.mem k n
  full k n := h.full k n
  par k n := h.par k n
  gals k n := h.gals k n
  wings k n := h.wings k n
  dies k n := h.dies k n
  tasks k n := h.tasks k n
  cat k n := h.cat k n
  pairs k n := h.pairs k n
  queues k n := h.queues k n
  census k n := h.census k n
  hosts k n := h.hosts k n
  parts := fun p n => by
    cases p <;> first | exact h.parts _ n | exact absurd ok n

theorem Chip.Frame.with_step (h : Chip.Frame x c d) (v : StepSt) (ok : .step ∈ x.parts) : Chip.Frame x c { d with step := v } where
  regs a i n := h.regs a i n
  mem k n := h.mem k n
  full k n := h.full k n
  par k n := h.par k n
  gals k n := h.gals k n
  wings k n := h.wings k n
  dies k n := h.dies k n
  tasks k n := h.tasks k n
  cat k n := h.cat k n
  pairs k n := h.pairs k n
  queues k n := h.queues k n
  census k n := h.census k n
  hosts k n := h.hosts k n
  parts := fun p n => by
    cases p <;> first | exact h.parts _ n | exact absurd ok n

theorem Chip.Frame.with_move (h : Chip.Frame x c d) (v : Option Move) (ok : .move ∈ x.parts) : Chip.Frame x c { d with move := v } where
  regs a i n := h.regs a i n
  mem k n := h.mem k n
  full k n := h.full k n
  par k n := h.par k n
  gals k n := h.gals k n
  wings k n := h.wings k n
  dies k n := h.dies k n
  tasks k n := h.tasks k n
  cat k n := h.cat k n
  pairs k n := h.pairs k n
  queues k n := h.queues k n
  census k n := h.census k n
  hosts k n := h.hosts k n
  parts := fun p n => by
    cases p <;> first | exact h.parts _ n | exact absurd ok n

theorem Chip.Frame.with_toMove (h : Chip.Frame x c d) (v : List Move) (ok : .toMove ∈ x.parts) : Chip.Frame x c { d with toMove := v } where
  regs a i n := h.regs a i n
  mem k n := h.mem k n
  full k n := h.full k n
  par k n := h.par k n
  gals k n := h.gals k n
  wings k n := h.wings k n
  dies k n := h.dies k n
  tasks k n := h.tasks k n
  cat k n := h.cat k n
  pairs k n := h.pairs k n
  queues k n := h.queues k n
  census k n := h.census k n
  hosts k n := h.hosts k n
  parts := fun p n => by
    cases p <;> first | exact h.parts _ n | exact absurd ok n

theorem Chip.Frame.with_recov (h : Chip.Frame x c d) (v : Option Recovery) (ok : .recov ∈ x.parts) : Chip.Frame x c { d with recov := v } where
  regs a i n := h.regs a i n
  mem k n := h.mem k n
  full k n := h.full k n
  par k n := h.par k n
  gals k n := h.gals k n
  wings k n := h.wings k n
  dies k n := h.dies k n
  tasks k n := h.tasks k n
  cat k n := h.cat k n
  pairs k n := h.pairs k n
  queues k n := h.queues k n
  census k n := h.census k n
  hosts k n := h.hosts k n
  parts := fun p n => by
    cases p <;> first | exact h.parts _ n | exact absurd ok n

theorem Chip.Frame.with_haltDue (h : Chip.Frame x c d) (v : Bool) (ok : .haltDue ∈ x.parts) : Chip.Frame x c { d with haltDue := v } where
  regs a i n := h.regs a i n
  mem k n := h.mem k n
  full k n := h.full k n
  par k n := h.par k n
  gals k n := h.gals k n
  wings k n := h.wings k n
  dies k n := h.dies k n
  tasks k n := h.tasks k n
  cat k n := h.cat k n
  pairs k n := h.pairs k n
  queues k n := h.queues k n
  census k n := h.census k n
  hosts k n := h.hosts k n
  parts := fun p n => by
    cases p <;> first | exact h.parts _ n | exact absurd ok n

theorem Chip.Frame.with_assist (h : Chip.Frame x c d) (v : Option Assist) (ok : .assist ∈ x.parts) : Chip.Frame x c { d with assist := v } where
  regs a i n := h.regs a i n
  mem k n := h.mem k n
  full k n := h.full k n
  par k n := h.par k n
  gals k n := h.gals k n
  wings k n := h.wings k n
  dies k n := h.dies k n
  tasks k n := h.tasks k n
  cat k n := h.cat k n
  pairs k n := h.pairs k n
  queues k n := h.queues k n
  census k n := h.census k n
  hosts k n := h.hosts k n
  parts := fun p n => by
    cases p <;> first | exact h.parts _ n | exact absurd ok n

theorem Chip.Frame.with_hostMem (h : Chip.Frame x c d) (v : NMap Byte) (ok : .hostMem ∈ x.parts) : Chip.Frame x c { d with hostMem := v } where
  regs a i n := h.regs a i n
  mem k n := h.mem k n
  full k n := h.full k n
  par k n := h.par k n
  gals k n := h.gals k n
  wings k n := h.wings k n
  dies k n := h.dies k n
  tasks k n := h.tasks k n
  cat k n := h.cat k n
  pairs k n := h.pairs k n
  queues k n := h.queues k n
  census k n := h.census k n
  hosts k n := h.hosts k n
  parts := fun p n => by
    cases p <;> first | exact h.parts _ n | exact absurd ok n

theorem Chip.Frame.with_contexts (h : Chip.Frame x c d) (v : NMap Context) (ok : .contexts ∈ x.parts) : Chip.Frame x c { d with contexts := v } where
  regs a i n := h.regs a i n
  mem k n := h.mem k n
  full k n := h.full k n
  par k n := h.par k n
  gals k n := h.gals k n
  wings k n := h.wings k n
  dies k n := h.dies k n
  tasks k n := h.tasks k n
  cat k n := h.cat k n
  pairs k n := h.pairs k n
  queues k n := h.queues k n
  census k n := h.census k n
  hosts k n := h.hosts k n
  parts := fun p n => by
    cases p <;> first | exact h.parts _ n | exact absurd ok n

theorem Chip.Frame.with_busData (h : Chip.Frame x c d) (v : Word) (ok : .busData ∈ x.parts) : Chip.Frame x c { d with busData := v } where
  regs a i n := h.regs a i n
  mem k n := h.mem k n
  full k n := h.full k n
  par k n := h.par k n
  gals k n := h.gals k n
  wings k n := h.wings k n
  dies k n := h.dies k n
  tasks k n := h.tasks k n
  cat k n := h.cat k n
  pairs k n := h.pairs k n
  queues k n := h.queues k n
  census k n := h.census k n
  hosts k n := h.hosts k n
  parts := fun p n => by
    cases p <;> first | exact h.parts _ n | exact absurd ok n

theorem Chip.Frame.with_busBytes (h : Chip.Frame x c d) (v : List Byte) (ok : .busBytes ∈ x.parts) : Chip.Frame x c { d with busBytes := v } where
  regs a i n := h.regs a i n
  mem k n := h.mem k n
  full k n := h.full k n
  par k n := h.par k n
  gals k n := h.gals k n
  wings k n := h.wings k n
  dies k n := h.dies k n
  tasks k n := h.tasks k n
  cat k n := h.cat k n
  pairs k n := h.pairs k n
  queues k n := h.queues k n
  census k n := h.census k n
  hosts k n := h.hosts k n
  parts := fun p n => by
    cases p <;> first | exact h.parts _ n | exact absurd ok n

theorem Chip.Frame.with_lineOut (h : Chip.Frame x c d) (v : List Byte) (ok : .lineOut ∈ x.parts) : Chip.Frame x c { d with lineOut := v } where
  regs a i n := h.regs a i n
  mem k n := h.mem k n
  full k n := h.full k n
  par k n := h.par k n
  gals k n := h.gals k n
  wings k n := h.wings k n
  dies k n := h.dies k n
  tasks k n := h.tasks k n
  cat k n := h.cat k n
  pairs k n := h.pairs k n
  queues k n := h.queues k n
  census k n := h.census k n
  hosts k n := h.hosts k n
  parts := fun p n => by
    cases p <;> first | exact h.parts _ n | exact absurd ok n

theorem Chip.Frame.with_linePoison (h : Chip.Frame x c d) (v : Bool) (ok : .linePoison ∈ x.parts) : Chip.Frame x c { d with linePoison := v } where
  regs a i n := h.regs a i n
  mem k n := h.mem k n
  full k n := h.full k n
  par k n := h.par k n
  gals k n := h.gals k n
  wings k n := h.wings k n
  dies k n := h.dies k n
  tasks k n := h.tasks k n
  cat k n := h.cat k n
  pairs k n := h.pairs k n
  queues k n := h.queues k n
  census k n := h.census k n
  hosts k n := h.hosts k n
  parts := fun p n => by
    cases p <;> first | exact h.parts _ n | exact absurd ok n

theorem Chip.Frame.with_boot (h : Chip.Frame x c d) (v : Boot) (ok : .boot ∈ x.parts) : Chip.Frame x c { d with boot := v } where
  regs a i n := h.regs a i n
  mem k n := h.mem k n
  full k n := h.full k n
  par k n := h.par k n
  gals k n := h.gals k n
  wings k n := h.wings k n
  dies k n := h.dies k n
  tasks k n := h.tasks k n
  cat k n := h.cat k n
  pairs k n := h.pairs k n
  queues k n := h.queues k n
  census k n := h.census k n
  hosts k n := h.hosts k n
  parts := fun p n => by
    cases p <;> first | exact h.parts _ n | exact absurd ok n

theorem Chip.Frame.with_free (h : Chip.Frame x c d) (v : Nat) (ok : .free ∈ x.parts) : Chip.Frame x c { d with free := v } where
  regs a i n := h.regs a i n
  mem k n := h.mem k n
  full k n := h.full k n
  par k n := h.par k n
  gals k n := h.gals k n
  wings k n := h.wings k n
  dies k n := h.dies k n
  tasks k n := h.tasks k n
  cat k n := h.cat k n
  pairs k n := h.pairs k n
  queues k n := h.queues k n
  census k n := h.census k n
  hosts k n := h.hosts k n
  parts := fun p n => by
    cases p <;> first | exact h.parts _ n | exact absurd ok n


/-! ### A table replaced whole -/

theorem Chip.Frame.with_regs (h : Chip.Frame x c d) (v : Regs) (ok : ∀ a i, x.regs a i) : Chip.Frame x c { d with regs := v } where
  regs a i n := absurd (ok a i) n
  mem k n := h.mem k n
  full k n := h.full k n
  par k n := h.par k n
  gals k n := h.gals k n
  wings k n := h.wings k n
  dies k n := h.dies k n
  tasks k n := h.tasks k n
  cat k n := h.cat k n
  pairs k n := h.pairs k n
  queues k n := h.queues k n
  census k n := h.census k n
  hosts k n := h.hosts k n
  parts p n := by cases p <;> exact h.parts _ n

theorem Chip.Frame.with_mem (h : Chip.Frame x c d) (v : Mem) (ok : ∀ k, x.mem k) : Chip.Frame x c { d with mem := v } where
  regs a i n := h.regs a i n
  mem k n := absurd (ok k) n
  full k n := h.full k n
  par k n := h.par k n
  gals k n := h.gals k n
  wings k n := h.wings k n
  dies k n := h.dies k n
  tasks k n := h.tasks k n
  cat k n := h.cat k n
  pairs k n := h.pairs k n
  queues k n := h.queues k n
  census k n := h.census k n
  hosts k n := h.hosts k n
  parts p n := by cases p <;> exact h.parts _ n

theorem Chip.Frame.with_full (h : Chip.Frame x c d) (v : NMap Bool) (ok : ∀ k, x.full k) : Chip.Frame x c { d with full := v } where
  regs a i n := h.regs a i n
  mem k n := h.mem k n
  full k n := absurd (ok k) n
  par k n := h.par k n
  gals k n := h.gals k n
  wings k n := h.wings k n
  dies k n := h.dies k n
  tasks k n := h.tasks k n
  cat k n := h.cat k n
  pairs k n := h.pairs k n
  queues k n := h.queues k n
  census k n := h.census k n
  hosts k n := h.hosts k n
  parts p n := by cases p <;> exact h.parts _ n

theorem Chip.Frame.with_par (h : Chip.Frame x c d) (v : NMap Nat) (ok : ∀ k, x.par k) : Chip.Frame x c { d with par := v } where
  regs a i n := h.regs a i n
  mem k n := h.mem k n
  full k n := h.full k n
  par k n := absurd (ok k) n
  gals k n := h.gals k n
  wings k n := h.wings k n
  dies k n := h.dies k n
  tasks k n := h.tasks k n
  cat k n := h.cat k n
  pairs k n := h.pairs k n
  queues k n := h.queues k n
  census k n := h.census k n
  hosts k n := h.hosts k n
  parts p n := by cases p <;> exact h.parts _ n

theorem Chip.Frame.with_gals (h : Chip.Frame x c d) (v : NMap Gal) (ok : ∀ k, x.gals k) : Chip.Frame x c { d with gals := v } where
  regs a i n := h.regs a i n
  mem k n := h.mem k n
  full k n := h.full k n
  par k n := h.par k n
  gals k n := absurd (ok k) n
  wings k n := h.wings k n
  dies k n := h.dies k n
  tasks k n := h.tasks k n
  cat k n := h.cat k n
  pairs k n := h.pairs k n
  queues k n := h.queues k n
  census k n := h.census k n
  hosts k n := h.hosts k n
  parts p n := by cases p <;> exact h.parts _ n

theorem Chip.Frame.with_wings (h : Chip.Frame x c d) (v : NMap WingSt) (ok : ∀ k, x.wings k) : Chip.Frame x c { d with wings := v } where
  regs a i n := h.regs a i n
  mem k n := h.mem k n
  full k n := h.full k n
  par k n := h.par k n
  gals k n := h.gals k n
  wings k n := absurd (ok k) n
  dies k n := h.dies k n
  tasks k n := h.tasks k n
  cat k n := h.cat k n
  pairs k n := h.pairs k n
  queues k n := h.queues k n
  census k n := h.census k n
  hosts k n := h.hosts k n
  parts p n := by cases p <;> exact h.parts _ n

theorem Chip.Frame.with_dies (h : Chip.Frame x c d) (v : NMap Die) (ok : ∀ k, x.dies k) : Chip.Frame x c { d with dies := v } where
  regs a i n := h.regs a i n
  mem k n := h.mem k n
  full k n := h.full k n
  par k n := h.par k n
  gals k n := h.gals k n
  wings k n := h.wings k n
  dies k n := absurd (ok k) n
  tasks k n := h.tasks k n
  cat k n := h.cat k n
  pairs k n := h.pairs k n
  queues k n := h.queues k n
  census k n := h.census k n
  hosts k n := h.hosts k n
  parts p n := by cases p <;> exact h.parts _ n

theorem Chip.Frame.with_tasks (h : Chip.Frame x c d) (v : NMap TaskSt) (ok : ∀ k, x.tasks k) : Chip.Frame x c { d with tasks := v } where
  regs a i n := h.regs a i n
  mem k n := h.mem k n
  full k n := h.full k n
  par k n := h.par k n
  gals k n := h.gals k n
  wings k n := h.wings k n
  dies k n := h.dies k n
  tasks k n := absurd (ok k) n
  cat k n := h.cat k n
  pairs k n := h.pairs k n
  queues k n := h.queues k n
  census k n := h.census k n
  hosts k n := h.hosts k n
  parts p n := by cases p <;> exact h.parts _ n

theorem Chip.Frame.with_cat (h : Chip.Frame x c d) (v : NMap CatEntry) (ok : ∀ k, x.cat k) : Chip.Frame x c { d with cat := v } where
  regs a i n := h.regs a i n
  mem k n := h.mem k n
  full k n := h.full k n
  par k n := h.par k n
  gals k n := h.gals k n
  wings k n := h.wings k n
  dies k n := h.dies k n
  tasks k n := h.tasks k n
  cat k n := absurd (ok k) n
  pairs k n := h.pairs k n
  queues k n := h.queues k n
  census k n := h.census k n
  hosts k n := h.hosts k n
  parts p n := by cases p <;> exact h.parts _ n

theorem Chip.Frame.with_pairs (h : Chip.Frame x c d) (v : NMap Pair) (ok : ∀ k, x.pairs k) : Chip.Frame x c { d with pairs := v } where
  regs a i n := h.regs a i n
  mem k n := h.mem k n
  full k n := h.full k n
  par k n := h.par k n
  gals k n := h.gals k n
  wings k n := h.wings k n
  dies k n := h.dies k n
  tasks k n := h.tasks k n
  cat k n := h.cat k n
  pairs k n := absurd (ok k) n
  queues k n := h.queues k n
  census k n := h.census k n
  hosts k n := h.hosts k n
  parts p n := by cases p <;> exact h.parts _ n

theorem Chip.Frame.with_queues (h : Chip.Frame x c d) (v : NMap (List Word)) (ok : ∀ k, x.queues k) : Chip.Frame x c { d with queues := v } where
  regs a i n := h.regs a i n
  mem k n := h.mem k n
  full k n := h.full k n
  par k n := h.par k n
  gals k n := h.gals k n
  wings k n := h.wings k n
  dies k n := h.dies k n
  tasks k n := h.tasks k n
  cat k n := h.cat k n
  pairs k n := h.pairs k n
  queues k n := absurd (ok k) n
  census k n := h.census k n
  hosts k n := h.hosts k n
  parts p n := by cases p <;> exact h.parts _ n

theorem Chip.Frame.with_census (h : Chip.Frame x c d) (v : NMap TCount) (ok : ∀ k, x.census k) : Chip.Frame x c { d with census := v } where
  regs a i n := h.regs a i n
  mem k n := h.mem k n
  full k n := h.full k n
  par k n := h.par k n
  gals k n := h.gals k n
  wings k n := h.wings k n
  dies k n := h.dies k n
  tasks k n := h.tasks k n
  cat k n := h.cat k n
  pairs k n := h.pairs k n
  queues k n := h.queues k n
  census k n := absurd (ok k) n
  hosts k n := h.hosts k n
  parts p n := by cases p <;> exact h.parts _ n

theorem Chip.Frame.with_hosts (h : Chip.Frame x c d) (v : NMap HostSt) (ok : ∀ k, x.hosts k) : Chip.Frame x c { d with hosts := v } where
  regs a i n := h.regs a i n
  mem k n := h.mem k n
  full k n := h.full k n
  par k n := h.par k n
  gals k n := h.gals k n
  wings k n := h.wings k n
  dies k n := h.dies k n
  tasks k n := h.tasks k n
  cat k n := h.cat k n
  pairs k n := h.pairs k n
  queues k n := h.queues k n
  census k n := h.census k n
  hosts k n := absurd (ok k) n
  parts p n := by cases p <;> exact h.parts _ n

/-- The messages that follow a command (R402). -/
theorem Chip.Frame.msix (h : Chip.Frame x c d) : Chip.Frame (x.or Touch.msix) c d.msix := by
  unfold Chip.msix
  split
  · exact h.left _
  · refine Chip.Frame.foldl _ _ (fun e k hk he => Chip.Frame.foldl _ _ (fun e v _ he => ?_) he) (h.left _)
    unfold Chip.msixVector
    have hk' : k = 0 ∨ k = 1 := by have := List.mem_range.mp hk; omega
    split
    · dsimp only
      have hs : Chip.Frame (x.or Touch.msix) c (e.setFlag (Reg.hostMsixArm k) v false) := by
        refine he.setFlag _ _ _ (Or.inr ?_)
        rcases hk' with rfl | rfl
        · exact Or.inl rfl
        · exact Or.inr rfl
      split
      · exact hs.modHost_bare _ _ fun _ => rfl
      · exact hs.modHost_bare _ _ fun _ => rfl
    · exact he

/-- A command of the part: what its effect leaves of the part, the whole block keeps, but for the MSI-X messages. -/
theorem State.Frame.onChip {s : State} {f : Chip → Chip} (h : Chip.Frame x s.chip (f s.chip)) :
    State.Frame x s { s with chip := (f s.chip).msix } := ⟨rfl, rfl, h.msix⟩

end Sys2Proof.Machine
end

