-- ==== Sys2Proof/Laws/Regs.lean ====
section
/-! SUPPORT. Registers bit by bit: what a field or flag reads after a field was set, and what a write by access code does. -/

namespace Sys2Proof.Machine

/-- A flag is its bit of the register. -/
theorem Chip.flag_eq (c : Chip) (a i : Nat) : c.flag a i = (c.rd a).getLsbD i := rfl

/-- A flag after a field of its register was set. -/
theorem Chip.flag_setFld (c : Chip) (a hi lo x i : Nat) (h : lo ≤ hi) (h64 : hi < 64) :
    (c.setFld a hi lo x).flag a i = if lo ≤ i ∧ i ≤ hi then x.testBit (i - lo) else c.flag a i := by
  simp only [Chip.flag, bit, Chip.rdN_setFld_self _ _ _ _ _ h h64, testBit_setBits _ _ _ _ _ h]

/-- Two registers whose bits of a field agree have the same field. -/
theorem bits_congr {u v hi lo : Nat} (h : ∀ i, lo ≤ i → i ≤ hi → u.testBit i = v.testBit i) (le : lo ≤ hi) : bits u hi lo = bits v hi lo := by
  apply Nat.eq_of_testBit_eq
  intro i
  rw [testBit_bits, testBit_bits]
  by_cases hi' : i < hi - lo + 1
  · simp [hi', h (lo + i) (by omega) (by omega)]
  · simp [hi']

/-- A field of a register that takes the bits of a word. -/
theorem Chip.fld_of_bits {c : Chip} {a hi lo : Nat} {v : Word} (le : lo ≤ hi)
    (h : ∀ i, lo ≤ i → i ≤ hi → (c.rd a).getLsbD i = v.getLsbD i) : c.fld a hi lo = wbits v hi lo :=
  bits_congr h le

/-- A field that a frame keeps. -/
theorem Chip.Frame.fld {x : Touch} {c d : Chip} (h : Chip.Frame x c d) (a hi lo : Nat) (le : lo ≤ hi)
    (ok : ∀ i, lo ≤ i → i ≤ hi → ¬ x.regs a i) : d.fld a hi lo = c.fld a hi lo :=
  bits_congr (fun i h1 h2 => h.regs a i (ok i h1 h2)) le

/-- A flag that a frame keeps. -/
theorem Chip.Frame.flag {x : Touch} {c d : Chip} (h : Chip.Frame x c d) (a i : Nat) (ok : ¬ x.regs a i) : d.flag a i = c.flag a i :=
  h.regs a i ok

/-- A register that a frame keeps. -/
theorem Chip.Frame.rd {x : Touch} {c d : Chip} (h : Chip.Frame x c d) (a : Nat) (ok : ∀ i, ¬ x.regs a i) : d.rd a = c.rd a :=
  BitVec.eq_of_getLsbD_eq fun i _ => h.regs a i (ok i)

/-- A register after a write by its access codes (R10), bit by bit. -/
theorem Chip.plainWrite_bit (c : Chip) (a : Nat) (v : Word) {d : RegDef} (h : regDefAt a = some d) (i : Nat) :
    ((c.plainWrite a v).rd a).getLsbD i =
      ((if (w64 d.rw ||| w64 d.wo).getLsbD i then v.getLsbD i else (c.rd a).getLsbD i) &&
        !(v.getLsbD i && (w64 d.w1c).getLsbD i) || (v.getLsbD i && (w64 d.w1s).getLsbD i)) := by
  unfold Chip.plainWrite
  rw [h]
  simp only [Chip.rd_wr_self, BitVec.getLsbD_or, BitVec.getLsbD_and, BitVec.getLsbD_not]
  by_cases hi : i < 64
  · cases (w64 d.rw).getLsbD i <;> cases (w64 d.wo).getLsbD i <;> simp [hi]
  · simp [BitVec.getLsbD_of_ge _ _ (Nat.not_lt.mp hi)]

/-- A write by access code writes only the bits that its register gives a code. -/
theorem Chip.Frame.plainWrite {x : Touch} {c d : Chip} (h : Chip.Frame x c d) (a : Nat) (v : Word) {r : RegDef} (hr : regDefAt a = some r)
    (ok : ∀ i, (w64 r.rw ||| w64 r.wo ||| w64 r.w1c ||| w64 r.w1s).getLsbD i = true → x.regs a i) :
    Chip.Frame x c (d.plainWrite a v) where
  regs b i n := by
    rw [← h.regs b i n]
    by_cases e : b = a
    · subst e
      have hn : ¬ (w64 r.rw ||| w64 r.wo ||| w64 r.w1c ||| w64 r.w1s).getLsbD i = true := fun m => n (ok i m)
      simp only [BitVec.getLsbD_or, Bool.or_eq_true, not_or, Bool.not_eq_true] at hn
      rw [Chip.plainWrite_bit _ _ _ hr]
      simp [BitVec.getLsbD_or, hn.1.1.1, hn.1.1.2, hn.1.2, hn.2]
    · unfold Chip.plainWrite
      rw [hr]
      exact congrArg (fun w : Word => w.getLsbD i) (Chip.rd_wr_ne _ _ e)
  mem k n := by unfold Chip.plainWrite; split <;> exact h.mem k n
  full k n := by unfold Chip.plainWrite; split <;> exact h.full k n
  par k n := by unfold Chip.plainWrite; split <;> exact h.par k n
  gals k n := by unfold Chip.plainWrite; split <;> exact h.gals k n
  wings k n := by unfold Chip.plainWrite; split <;> exact h.wings k n
  dies k n := by unfold Chip.plainWrite; split <;> exact h.dies k n
  tasks k n := by unfold Chip.plainWrite; split <;> exact h.tasks k n
  cat k n := by unfold Chip.plainWrite; split <;> exact h.cat k n
  pairs k n := by unfold Chip.plainWrite; split <;> exact h.pairs k n
  queues k n := by unfold Chip.plainWrite; split <;> exact h.queues k n
  census k n := by unfold Chip.plainWrite; split <;> exact h.census k n
  hosts k n := by unfold Chip.plainWrite; split <;> exact h.hosts k n
  parts p n := by unfold Chip.plainWrite; split <;> (cases p <;> exact h.parts _ n)

/-- Every register of the map lies in one of its lists: the row at an offset of a wing's block. -/
theorem regAddr_wing {n o : Nat} (hn : n < 16) (ho : o < 0x100000) : regAddr (wingReg n o) = some ⟨.wing, n, 0, o⟩ := by
  have h1 : ¬ 0x1000000 + n * 0x100000 + o < 0x1000000 := by omega
  have h2 : 0x1000000 + n * 0x100000 + o < 0x2000000 := by omega
  have h3 : (0x1000000 + n * 0x100000 + o - 0x1000000) / 0x100000 = n := by omega
  have h4 : (0x1000000 + n * 0x100000 + o) % 0x100000 = o := by omega
  unfold regAddr wingReg
  rw [if_neg h1, if_pos h2, h3, h4]

/-- The row at an offset of a gallery's block. -/
theorem regAddr_gal {n g o : Nat} (hn : n < 16) (hg : g < 300) (ho : o < 0x1000) : regAddr (galReg n g o) = some ⟨.gal, n, g, o⟩ := by
  have h1 : ¬ 0x2000000 + n * 0x200000 + g * 0x1000 + o < 0x1000000 := by omega
  have h2 : ¬ 0x2000000 + n * 0x200000 + g * 0x1000 + o < 0x2000000 := by omega
  have h3 : 0x2000000 + n * 0x200000 + g * 0x1000 + o < 0x4000000 := by omega
  have h4 : (0x2000000 + n * 0x200000 + g * 0x1000 + o) % 0x200000 / 0x1000 = g := by omega
  have h5 : (0x2000000 + n * 0x200000 + g * 0x1000 + o - 0x2000000) / 0x200000 = n := by omega
  have h6 : (0x2000000 + n * 0x200000 + g * 0x1000 + o) % 0x1000 = o := by omega
  unfold regAddr galReg
  rw [if_neg h1, if_neg h2, if_pos h3, h4, if_pos hg, h5, h6]

theorem regDefAt_of_wing {a : Nat} {ra : RegAddr} {d : RegDef} (ha : regAddr a = some ra) (h : findDef wingRegDefs ra.off = some d)
    (hr : ra.scope = .wing) (hs : d.scope = .wing) : regDefAt a = some d := by
  unfold regDefAt
  rw [ha]
  simp only [hr, h, hs]
  rfl

theorem regDefAt_of_gal {a : Nat} {ra : RegAddr} {d : RegDef} (ha : regAddr a = some ra) (h : findDef galRegDefs ra.off = some d)
    (hr : ra.scope = .gal) : regDefAt a = some d := by
  unfold regDefAt
  rw [ha]
  simp only [hr, h]

theorem regDefAt_wing {n o : Nat} (hn : n < 16) (ho : o < 0x100000) {d : RegDef} (h : findDef wingRegDefs o = some d) (hs : d.scope = .wing) :
    regDefAt (wingReg n o) = some d := regDefAt_of_wing (regAddr_wing hn ho) h rfl hs

theorem regDefAt_gal {n g o : Nat} (hn : n < 16) (hg : g < 300) (ho : o < 0x1000) {d : RegDef} (h : findDef galRegDefs o = some d) :
    regDefAt (galReg n g o) = some d := regDefAt_of_gal (regAddr_gal hn hg ho) h rfl

end Sys2Proof.Machine
end

