-- ==== Sys2Proof/WellFormed.lean ====
section
/-! DEFINITION. Which commands are well formed: operands in the ranges that the spec gives the thing they name. exec is total and
takes every command; a command that is not well formed names nothing that the hardware can do. -/

namespace Sys2Proof

/-- A line number of a 64 GiB stack (R285). -/
def lineNo (l : Nat) : Bool := decide (l < 2 ^ 30)

/-- A tile index: 26 bits, as chip.reg.op holds it (R277). -/
def tileOk (i : Nat) : Bool := decide (i < 2 ^ 26)

/-- Upsets of the 34 symbols of a record (R287). -/
def upsetsOk (us : List Upset) : Bool := us.all fun u => decide (u.symbol < 34)

/-- Combine entries name tensors by 24-bit index (R77, R356). -/
def amaxOk (es : List AmaxEntry) : Bool := es.all fun e => decide (e.tensor < 2 ^ 24)

/-- A packet: a header unit of eight words and at most 16 data units of 64 bytes (R343). -/
def packetOk (p : Packet) : Bool := decide (p.header.length = 8 ∧ p.data.length % 64 = 0 ∧ p.data.length ≤ 1024)

/-- A command is well formed. -/
def Instr.wf : Instr → Bool
  | .tickEdge _ _ => true
  | .wakeComplete _ => true
  | .slipStop _ => true
  | .periodWrite _ _ => true
  | .taskStartWrite _ _ _ => true
  | .taskStart _ => true
  | .pauseWrite _ _ => true
  | .cascadePause _ => true
  | .masterListenEnd => true
  | .syncPulse _ => true
  | .tickLoss => true
  | .periodPropagate _ => true
  | .commandIssue _ _ => true
  | .amaxCombine step es => decide (step < 2 ^ 48) && amaxOk es
  | .censusRecordWrite step x => decide (step < 2 ^ 48 ∧ x < 2 ^ 24)
  | .mvm _ _ _ _ _ _ => true
  | .mvmStart _ _ _ => true
  | .mvmComplete _ _ _ => true
  | .write _ _ => true
  | .writeActivate _ _ => true
  | .stagedCodesArrive _ _ => true
  | .cellVerify _ _ _ _ _ => true
  | .planeWriteComplete _ _ => true
  | .swap _ _ => true
  | .swapRequestWrite _ _ _ _ => true
  | .swapTakeEffect _ _ => true
  | .spareRotationPoint _ => true
  | .vitrineRotate _ _ _ => true
  | .spareSelWrite _ _ _ => true
  | .calibrationComplete _ _ _ _ => true
  | .columnMeasureDone _ _ _ _ _ z r => decide (z.length = 4 ∧ r.length = 4)
  | .coefAged _ _ _ _ => true
  | .corrDataWrite _ _ _ _ _ => true
  | .corrDataRead _ _ _ => true
  | .watchConversion _ _ => true
  | .urgentRequest _ _ _ => true
  | .cmdW1Write _ _ _ _ _ => true
  | .registerPathIdle _ => true
  | .tempStale _ => true
  | .groupDue _ _ _ _ => true
  | .groupLate _ _ _ _ => true
  | .groupExpired _ _ _ _ => true
  | .liveRehangStart _ _ => true
  | .idleRehangStart _ _ => true
  | .refreshSlotStart _ _ _ => true
  | .refreshSlotEnd _ _ => true
  | .rehangComplete _ _ => true
  | .movedResponse _ _ => true
  | .pass _ _ us => us.all fun u => decide (u.row < 256)
  | .load _ _ => true
  | .loadComplete _ _ => true
  | .flush _ _ => true
  | .flushBegin _ _ => true
  | .arrayFenceWrite _ _ _ _ => true
  | .vectorCommand _ => true
  | .vVend _ => true
  | .vMov _ => true
  | .vBcast _ => true
  | .vAdd _ => true
  | .vSub _ => true
  | .vMul _ => true
  | .vMin _ => true
  | .vMax _ => true
  | .vAbs _ => true
  | .vNeg _ => true
  | .vDiv _ => true
  | .vSqrt _ => true
  | .vExp2 _ => true
  | .vLog2 _ => true
  | .vCmpeq _ => true
  | .vCmplt _ => true
  | .vCmple _ => true
  | .vSel _ => true
  | .vAnd _ => true
  | .vOr _ => true
  | .vXor _ => true
  | .vShl _ => true
  | .vShr _ => true
  | .vCvt _ => true
  | .vRsum _ => true
  | .vVld _ => true
  | .vVst _ => true
  | .vFlag _ => true
  | .vSop _ => true
  | .vSloop _ => true
  | .vSbr _ => true
  | .ld _ _ _ _ _ size _ => decide (1 ≤ size ∧ size ≤ 8)
  | .st _ _ _ _ _ size _ => decide (1 ≤ size ∧ size ≤ 8)
  | .ldf _ _ _ _ _ _ => true
  | .ldc _ _ _ _ _ _ => true
  | .stf _ _ _ _ _ _ => true
  | .fence _ _ _ _ => true
  | .dinv _ _ _ _ _ _ => true
  | .pref _ _ _ _ _ => true
  | .cmd _ _ _ _ _ _ _ => true
  | .tick _ _ _ _ _ => true
  | .spawn _ _ _ _ _ _ => true
  | .exit _ _ _ _ => true
  | .copy _ _ => true
  | .transferSignal _ _ => true
  | .tagWaitResend => true
  | .fillOverrun word => decide (word < 2 ^ 44 ∧ word % 8 = 0)
  | .signal _ _ _ => true
  | .consume _ _ _ => true
  | .queuePut _ _ => true
  | .queueTake _ => true
  | .allocation r => decide (r.qclass < 8 ∧ 1 ≤ r.blocks)
  | .pendingAdmit => true
  | .setFrozen _ i => tileOk i
  | .clearFrozen _ i => tileOk i
  | .setPinned _ i => tileOk i
  | .clearPinned _ i => tileOk i
  | .bump _ i => tileOk i
  | .catalogueRead _ i => tileOk i
  | .conflictNotice _ _ => true
  | .galleryRedirect _ _ => true
  | .blockRedirect i => tileOk i
  | .moveAbandon => true
  | .lend _ k => decide (k < 65536)
  | .lendCopyDone _ k => decide (k < 65536)
  | .returnTile _ k => decide (k < 65536)
  | .returnCopyDone _ k => decide (k < 65536)
  | .prefetch _ k => decide (k < 65536)
  | .prefetchCheck _ k => decide (k < 65536)
  | .prefetchCopyDone _ k => decide (k < 65536)
  | .memSlotGrant _ rs => rs.all fun r => decide (r.cls < 4) && lineNo r.line
  | .memRead _ l l2 us => lineNo l && lineNo l2 && upsetsOk us
  | .memWrite _ l off data => lineNo l && decide (1 ≤ data.length ∧ off + data.length ≤ 64)
  | .accumulateStore _ l adds x => lineNo l && decide (adds.length = 16 ∧ x < 2 ^ 24)
  | .drainingRead _ l => lineNo l
  | .scrubRead _ l us => lineNo l && upsetsOk us
  | .annexClearWrite _ _ _ => true
  | .annexConfigWrite _ _ _ _ => true
  | .annexClearDone _ => true
  | .contributionHeader addr hdr => decide (addr < 2 ^ 44 ∧ hdr.length = 8)
  | .voteSubmit => true
  | .outcomeDecide => true
  | .skipLimit => true
  | .frameSend _ _ => true
  | .frameReceive _ _ _ => true
  | .replayTimeout _ _ => true
  | .lockLoss _ _ => true
  | .portRetrainDone _ _ _ => true
  | .portBringup _ _ _ => true
  | .capabilityExchange _ _ _ _ _ => true
  | .portWake _ _ => true
  | .portWakeDone _ _ => true
  | .portIdleLp _ _ => true
  | .idle _ _ => true
  | .writePacket _ _ p => packetOk p
  | .readPacket _ _ p => packetOk p
  | .rdata _ _ p => packetOk p
  | .consumePacket _ _ p => packetOk p
  | .mgmt _ _ p => packetOk p
  | .packetForward _ _ p => packetOk p
  | .timestampExchange _ _ _ _ _ _ _ => true
  | .tickCountAdopt count => decide (count < 2 ^ 48)
  | .cascadeAssemble x => decide (x.version < 256)
  | .combineRecord src r => (match src with | .child p => decide (p < 32) | .parent => true) && (match r with | .amax step es => decide (step < 2 ^ 48) && amaxOk es | .vote _ => true)
  | .guardRun _ _ rs => decide (rs.length = 264)
  | .arrayGuardWindow _ _ _ => true
  | .vectorGuard _ _ => true
  | .release _ _ => true
  | .assistWaitExpiry => true
  | .assistStart _ _ => true
  | .assistDone => true
  | .logAckWrite _ _ => true
  | .hostLoad _ _ => true
  | .taskLoadComplete _ => true
  | .hostUnload _ => true
  | .hostStop _ => true
  | .hostSave _ => true
  | .hostRestore _ => true
  | .hostNop _ => true
  | .completionWrite _ => true
  | .cqHeadWrite _ _ => true
  | .msixArmWrite _ _ _ => true
  | .h2pGoWrite _ _ => true
  | .p2hFullClear _ _ => true
  | .primaryWrite _ _ => true
  | .failover => true
  | .portReset _ _ => true
  | .linkLoss _ => true
  | .apertureAccess _ off len d => decide (off < 2 ^ 36 ∧ 1 ≤ len) && (match d with | some bs => decide (bs.length = len) | none => true)
  | .pcieCompletionError _ _ dst len => decide (dst % 4 = 0 ∧ len % 4 = 0 ∧ dst + len ≤ 2 ^ 44 ∧ len ≤ 4096)
  | .registerWrite _ _ size _ => decide (size = 1 ∨ size = 2 ∨ size = 4 ∨ size = 8)
  | .stageOpen _ => true
  | .stageEraseDone => true
  | .stageData _ _ data => decide (data.length ≤ 1976)
  | .stageCommit _ => true
  | .stageAbort _ => true
  | .stageStatus _ => true
  | .profileWrite _ _ _ _ _ => true
  | .attest _ nonce => decide (nonce.length = 32)
  | .getCert _ => true
  | .uartFrame _ => true
  | .accession samples puf hang _ => decide (samples.length = 16) && (match puf with | some p => decide (p.length = 32) | none => true) && (match hang with | some k => decide (5 ≤ k ∧ k ≤ 10) | none => true)
  | .accWdogExpiry => true
  | .rsaveTimer => true
  | .saveNowWrite _ _ => true
  | .retainedSaveDone => true
  | .downNotice _ _ => true
  | .turnstileSample vs vv _ => decide (vs.length = 4 ∧ vv.length = 4)
  | .turnstileReading => true
  | .smbusPointerWrite _ => true
  | .smbusRead len _ => decide (1 ≤ len)
  | .smbusReadTimeout => true
  | .turnstilePowerUp => true
  | .crystalFail => true
  | .crystalRecover => true
  | .resetAssert => true
  | .powerLoss _ => true
  | .turnstilePowerLoss _ => true
  | .pcieLinkUp _ speed width _ => decide (1 ≤ speed.val ∧ (width = 1 ∨ width = 2 ∨ width = 4 ∨ width = 8))

end Sys2Proof
end

