-- ==== Sys2Proof/Tests/Slice0.lean ====
section
/-! SUPPORT. Tests of the model: an ill-formed command for each check of WellFormed, small steps with results read off the spec, and for
every claim with hypotheses a concrete state and operands that meet them all. -/

namespace Sys2Proof.Machine.Tests

set_option linter.unusedVariables false
set_option maxRecDepth 20000
set_option Elab.async false

/-! ### Small states -/

/-- The part after accession with nothing loaded, every wing in run. -/
def up : Chip :=
  { Chip.reset with boot := { Boot.reset with phase := .up }, regs := NMap.set regReset [] (Reg.pwrState 3) 0 }

/-- A state with the part c. -/
def st (c : Chip) : State := { State.reset with chip := c }

/-- A command's tag of no task. -/
def tag : CmdTag := { task := none, due := 0, budget := 1 }

/-- A task image of one part with nothing in it. -/
def img : Image :=
  { period := 0, parts := 0, arrays := 1, cycle := 16, refFwd := false, training := false, tables := [], tiles := [], roles := [],
    arenas := [], relocs := [], planBase := 0, plan := [], xlate := [], gtabBase := 0, gtabLen := 0, recvExp := 0, sendExp := 0,
    stepOut := [], alistBase := 0, alist := [], updTicks := 0 }

/-- A task of port A that holds gallery 7 of wing 3 and indices 100 to 107. -/
def job (p : TaskPhase) : TaskSt :=
  { TaskSt.reset with phase := p, owner := some .A, img := some img, gals := [(3, 7)], base := 100, count := 8 }

/-- Slot 2 holds that task, running. -/
def run : Chip := up.setTask 2 (job .running)

/-- Gallery 7 of wing 3 changed. -/
def gal (f : Gal → Gal) : State := st (up.modGal 3 7 f)

/-- Wing 3 changed. -/
def wing (f : WingSt → WingSt) : State := st (up.modWing 3 f)

/-- A gallery command by the register path. -/
def gcmd (w0 w1 : Word) : GCmd := { tag := tag, w0 := w0, w1 := w1, clk := 0, needSwaps := 0 }

/-- A unit's command of no task. -/
def ucmd (ws : List Word) : UCmd := { tag := tag, words := ws }

/-- An MVM of no slot. -/
def mvm0 : Mvm :=
  { tag := tag, plane := .A, bands := 0, runs := [], inputs := [], out := 16, gain := 0, step := 0, tensor := noTensor, noSlot := true,
    ended := false, held := [], coef := [], chk := 0, drive := [] }

/-- A plane write or rehang. -/
def wjob (f : WriteForm) (order : List Nat) : WriteJob :=
  { form := f, plane := .B, tag := tag, src := 0, order := order, staged := 0, buf := [], vits := [], raised := false, failed := [],
    devs := [], starved := false, aborted := false }

/-- A port that is up and locked. -/
def port (x : PortSt) : State := st ((up.modPort 3 1 fun _ => x).setPortState 3 1 2)

/-- A port with lock. -/
def lock : PortSt := { PortSt.reset with locked := true }

/-- Thread 4 of gallery 7 of wing 3 is live. -/
def thr (c : Chip) : Chip := c.modThread 3 7 4 fun t => { t with live := true }

/-- A vector program of one instruction in wing store 3. -/
def vec (w : Word) : State :=
  st ((up.modWing 3 fun x => { x with vec := { x.vec with run := some { cmd := ucmd [1, 0x40006000000, 0x40006001000, 0x1000000000000], pc := 0, wait := none } } }).setWord
    0x40006000000 w)

/-- The run of that program. -/
def vrun : VecRun := { cmd := ucmd [1, 0x40006000000, 0x40006001000, 0x1000000000000], pc := 0, wait := none }

/-- A tile of zeros. -/
def tile0 : Tile := { fmt := 3, rows := List.replicate 256 (0, List.replicate 256 0), sum := List.replicate 256 0, sumExp := 0, mix := false }

/-- A bank entry of zeros. -/
def bank0 : BankEntry := { chunk := 0, mix := false, accs := List.replicate 257 Acc.zero }

/-- A vector program whose scalar s0 is an address. -/
def vecAt (w a : Word) : State := st ((vec w).chip.modWing 3 fun x => { x with vec := x.vec.setScal 0 a })

/-- Slot 2's task runs with a plan of one entry, of action act on tile 100 to block 0x40006000000 at tick 0. -/
def planned (act : Nat) (e : CatEntry) : Chip :=
  ((({ run with cat := [(100, e)] }.setFld (Reg.regTaskPlan 2) 43 4 0x100000000).setFld (Reg.regTaskPlanLen 2) 15 0 1).setWord 0x1000000000
    (w64 (act * 2 ^ 32 + 100 * 2 ^ 36))).setWord 0x1000000008 0x40006000000

/-- A packet of one header unit. -/
def idleUnitPkt : Packet := { header := [0, 0, 0, 0, 0, 0, 0, 0], data := [] }

/-- A submission token of slot 2. -/
def tokw (op : Nat) : Word := w64 (op + 2 * 2 ^ 4 + 9 * 2 ^ 8 + 1 * 2 ^ 24)

/-- That token waits at port A. -/
def tok (op : Nat) (c : Chip) : State := st (c.setQueue 48 [tokw op])

/-- No array is enabled. -/
def noArray (c : Chip) : Chip := (List.range 32).foldl (fun d k => d.setFlag (Reg.mxIdent (k / 2) (k % 2)) 8 false) c

/-- An image of one role in wing 3. -/
def img1 : Image :=
  { img with xlate := [(0, 0)], roles := [{ wing := 3, resident := false, budgetA := 0, budgetB := 0, gain := 0, readout := 0, entry := 0x1000 }] }

/-- Port A has a request in its mailbox. -/
def mail : Chip := up.setFlag (Reg.hostMbox 0) 0 true

/-- The Turnstile with power. -/
def meter : Turnstile := { Turnstile.reset with powered := true }

/-- Accession meets no trouble. -/
def noTrouble : BringUp := { badAon := [], badPage0 := [], badPage1 := [], retrain := [], slices := [] }

/-- A copy of nothing. -/
def keptNone : Retained := st up |>.chip.retained

/-- Erased flash holds no boot record. -/
theorem no_record : (st mail).chip.boot.record = none := by decide +kernel

/-- The Turnstile's invariant at reset. -/
theorem reset_inv : State.reset.ts.Inv where
  sealed := by decide +kernel
  apart := fun _ _ h => nomatch h
  slots := fun _ _ h => nomatch h
  ptr := by decide +kernel
  four := by decide +kernel

/-- Every word of a state with no parity state listed is good. -/
theorem good_of (c : Chip) (hp : c.par = []) (hr : c.recErr = []) : c.good := by
  refine ⟨fun a => ?_, hr⟩
  simp [Chip.parAt, hp, NMap.get, NMap.find]

/-- The registers of an engine that nothing has written have 1,024 lanes. -/
theorem reg_len (x : VecSt) (k : Nat) (h : x.v = []) : (x.reg k).length = 1024 := by
  simp [VecSt.reg, h, NMap.get, NMap.find, zeroLanes]

/-- A block of a wing store that nothing serves elsewhere. -/
theorem store_plain (c : Chip) (n a len : Nat) (hn : n < 16) (ha : wingStoreBase n ≤ a ∧ a + len ≤ wingStoreBase n + 0x2000000 ∧ a % 0x10000 + len ≤ 0x10000)
    (hb : c.servedBlock n (a / 0x10000) = a / 0x10000) : ∀ k < len, c.region (a + k) = .wingStore n ∧ c.home (a + k) = a + k := by
  intro k hk
  unfold wingStoreBase at ha
  have hr : c.region (a + k) = .wingStore n := by
    unfold Chip.region
    rw [if_neg (by omega), if_pos (by omega)]
    congr 1
    omega
  refine ⟨hr, ?_⟩
  unfold Chip.home
  rw [hr]
  have : (a + k) / 0x10000 = a / 0x10000 := by omega
  simp only [this, hb]
  omega

/-- A gallery store that no redirect serves elsewhere. -/
theorem gal_plain (c : Chip) (n g a len : Nat) (hn : n < 16 ∧ g < 300) (ha : a = galStoreBase n g ∧ len ≤ 0x10000)
    (hb : c.served n g = g) : ∀ k < len, c.region (a + k) = .galStore n g ∧ c.home (a + k) = a + k := by
  intro k hk
  unfold galStoreBase at ha
  have hr : c.region (a + k) = .galStore n g := by
    unfold Chip.region
    rw [if_neg (by omega), if_neg (by omega), if_pos (by omega)]
    have h1 : (a + k - 0x41000000000) % 0x2000000 / 0x10000 = g := by omega
    have h2 : (a + k - 0x41000000000) / 0x2000000 = n := by omega
    simp only [h1, h2, if_pos hn.2]
  refine ⟨hr, ?_⟩
  unfold Chip.home
  rw [hr]
  simp only [hb, galStoreBase]
  omega

/-- Two ranges of wing stores that nothing serves elsewhere. -/
theorem pair_plain (c : Chip) (n m a b len : Nat) (hn : n < 16) (hm : m < 16)
    (ha : wingStoreBase n ≤ a ∧ a + len ≤ wingStoreBase n + 0x2000000 ∧ a % 0x10000 + len ≤ 0x10000)
    (hb : wingStoreBase m ≤ b ∧ b + len ≤ wingStoreBase m + 0x2000000 ∧ b % 0x10000 + len ≤ 0x10000)
    (ha' : c.servedBlock n (a / 0x10000) = a / 0x10000) (hb' : c.servedBlock m (b / 0x10000) = b / 0x10000) :
    ∀ k < len, c.home (a + k) = a + k ∧ c.home (b + k) = b + k ∧ (c.region (a + k)).isStore = true ∧ (c.region (b + k)).isStore = true := by
  intro k hk
  obtain ⟨h1, h2⟩ := store_plain c n a len hn ha ha' k hk
  obtain ⟨h3, h4⟩ := store_plain c m b len hm hb hb' k hk
  exact ⟨h2, h4, by rw [h1]; rfl, by rw [h3]; rfl⟩

/-- Where no word's tag is set, none is full. -/
theorem none_full {c : Chip} (h : c.full = []) (a : Nat) : c.isFull a = false := by
  unfold Chip.isFull
  rw [h]
  rfl

/-- A program stands at an instruction, on an engine whose registers nothing has written. -/
theorem vec_at {c : Chip} {n op : Nat} {r : VecRun} {w : Word} (h : (c.wing n).vec.run = some r ∧ c.inRun n = true ∧ c.halted = false)
    (hw : c.vecWaits n = false ∧ c.inOwnStore n (vProg r.cmd.words + 8 * r.pc) 8 = true ∧ c.word (c.home (vProg r.cmd.words + 8 * r.pc)) = w)
    (ho : (vOk w = true ∧ vOp w = op) ∧ (c.wing n).vec.v = []) : c.VecAt n op r w :=
  { run := h.1, inRun := h.2.1, halt := h.2.2, waits := hw.1, own := hw.2.1, word := hw.2.2, ok := ho.1.1, op_ := ho.1.2,
    lanes := fun k => reg_len _ k ho.2 }

/-- The primary's port, whose GO is set, is served. -/
theorem serves_primary {c : Chip} {h : HostPort} {ch rec : Bool} (hu : c.up = true) (hp : h = c.primary)
    (hg : c.flag (Reg.hostMbox (portIx h)) 0 = true) : c.Serves (.host h) ch rec :=
  { phase := .inl hu, upOk := fun _ _ => by rw [hp], recOk := fun hr => by simp [Chip.up, hr] at hu, go := fun k hk => by cases hk; exact hg }

/-! ### Every claim's hypotheses can be met -/

theorem meets_tickEdge : ∃ (s : State) (sync : BitVec 8), s.chip.up = true ∧ s.chip.halted = false ∧ s.chip.haltDue = false :=
  ⟨st up, 0, by decide +kernel⟩

theorem meets_tickEdgeHalted : ∃ (s : State) (sync : BitVec 8), s.chip.up = true ∧ s.chip.halted = true ∧ s.chip.haltDue = false :=
  ⟨st (up.setFlag Reg.fltState 1 true), 0, by decide +kernel⟩

theorem meets_tickEdgeHalts : ∃ (s : State) (sync : BitVec 8), s.chip.up = true ∧ s.chip.haltDue = true :=
  ⟨st { up with haltDue := true }, 0, by decide +kernel⟩

theorem meets_wakeComplete : ∃ (s : State) (n : Wing), (s.chip.wing n).waking ≠ none :=
  ⟨wing fun x => { x with waking := some 5 }, 3, by decide +kernel⟩

theorem meets_slipStop : ∃ (s : State) (k : Slot) (n : Wing) (g : CmdTag), s.chip.running k = true ∧ g ∈ s.chip.wingTags n ∧ g.task = some k.val ∧ g.due + g.budget + s.chip.fld Reg.tickSlip 15 0 < s.chip.elapsed k :=
  ⟨st ((run.setFld (Reg.taskPerf 2) 47 0 66).modGal 3 7 fun x => { x with cmdQ := [{ gcmd 1 0 with tag := { task := some 2, due := 0, budget := 1 } }] }), 2, 3, { task := some 2, due := 0, budget := 1 }, by decide +kernel⟩

theorem meets_periodWrite : ∃ (s : State) (w : Writer) (v : Word), s.chip.up = true ∧ s.chip.mayWrite w Reg.tickPeriod = true :=
  ⟨st up, .host .A, 128, by decide +kernel⟩

theorem meets_taskStartWrite : ∃ (s : State) (h : HostPort) (k : Slot) (v : Word), s.chip.up = true ∧ s.chip.mayWrite (.host h) (Reg.taskStart k) = true ∧ (s.chip.task k).phase = .ready ∧ (s.chip.task k).owner = some h ∧ s.chip.tick.dupRefuse = false ∧ 50 + portIx h ∉ s.chip.takeWait ∧ (s.chip.queue (50 + portIx h)).length < 256 :=
  ⟨st (up.setTask 2 (job .ready)), .A, 2, 16, by decide +kernel⟩

theorem meets_taskStart : ∃ (s : State) (k : Slot), s.chip.up = true ∧ s.chip.halted = false ∧ s.chip.tick.hasCount = true ∧ (s.chip.task k).phase = .ready ∧ (s.chip.task k).startSet = true ∧ (s.chip.task k).stopReq = none ∧ s.chip.fld (Reg.taskStart k) 47 0 = s.chip.tickCount :=
  ⟨st ({ up with tick := { up.tick with hasCount := true } }.setTask 2 { job .ready with startSet := true }), 2, by decide +kernel⟩

theorem meets_pauseWrite : ∃ (s : State) (w : Writer) (v : Word), s.chip.up = true ∧ s.chip.mayWrite w Reg.tickCtrl = true :=
  ⟨st up, .host .A, 2, by decide +kernel⟩

theorem meets_cascadePause : ∃ (s : State) (b : Bool), s.chip.up = true :=
  ⟨st up, true, by decide +kernel⟩

theorem meets_masterListenEnd : ∃ (s : State), s.chip.up = true ∧ s.chip.tick.listening = true :=
  ⟨st { up with tick := { up.tick with listening := true } }, by decide +kernel⟩

theorem meets_tickLoss : ∃ (s : State), s.chip.up = true ∧ s.chip.flag Reg.tickCtrl 0 = false ∧ s.chip.halted = false ∧ s.chip.haltDue = false ∧ 16 ≤ s.chip.tick.missed :=
  ⟨st { up with tick := { up.tick with missed := 16 } }, by decide +kernel⟩

theorem meets_periodPropagate : ∃ (s : State) (p : BitVec 8), s.chip.up = true :=
  ⟨st up, 5, by decide +kernel⟩

theorem meets_commandIssue : ∃ (s : State) (n : Wing) (u : ArbUnit) (h : HeldCmd), u ≠ .dma ∧ s.chip.inRun n = true ∧ s.chip.paused = false ∧ s.chip.halted = false ∧ s.chip.unitRoom n u = true ∧ (s.chip.wing n).held = [h] ∧ h.unit = u ∧ s.chip.dueBegun h.tag = true ∧ s.chip.parkedFor n u = none :=
  ⟨wing fun x => { x with held := [{ unit := .vec, tag := tag, wing := 3, gal := 7, seq := 0, late := false, words := [] }] }, 3, .vec, { unit := .vec, tag := tag, wing := 3, gal := 7, seq := 0, late := false, words := [] }, by decide +kernel⟩

theorem meets_stagedCodesArrive : ∃ (s : State) (n : Wing) (g : GalIx) (j : WriteJob), (s.chip.gal n g).wjob = some j ∧ j.staged < 512 :=
  ⟨gal fun x => { x with wjob := some (wjob .stream []) }, 3, 7, wjob .stream [], by decide +kernel⟩

theorem meets_spareRotationPoint : ∃ (s : State) (n : Wing), s.chip.fld (Reg.spareSel n) 1 0 = 3 ∧ (s.chip.wing n).rotSlot + max (s.chip.fld (Reg.convRot n) 15 0) 64 < s.chip.tick.slotCount + s.chip.slots :=
  ⟨st ({ up with tick := { up.tick with slotCount := 0x10000, curPeriod := 1 } }.setFld (Reg.spareSel 3) 1 0 3), 3, by decide +kernel⟩

theorem meets_spareSelWrite : ∃ (s : State) (w : Writer) (n : Wing) (v : Word), s.chip.up = true ∧ s.chip.mayWrite w (Reg.spareSel n) = true :=
  ⟨st up, .host .A, 3, 1, by decide +kernel⟩

theorem meets_corrDataRead : ∃ (s : State) (w : Writer) (n : Wing) (g : GalIx), s.chip.up = true :=
  ⟨st up, .host .A, 3, 7, by decide +kernel⟩

theorem meets_tempStale : ∃ (s : State) (n : Wing), (s.chip.wing n).stale = false ∧ s.chip.wingState n ≠ 3 ∧ s.chip.sensorOld n (4 * s.chip.fld (Reg.consTemp n) 31 16) = true :=
  ⟨st up, 3, by decide +kernel⟩

theorem meets_groupExpired : ∃ (s : State) (n : Wing) (g : GalIx) (p : Plane) (m : Fin 8), s.chip.groupReaches n g p m 4 1 = true ∧ hasMark ((s.chip.gal n g).plane p).expired m = false ∧ ((s.chip.gal n g).plane p).holds = none :=
  ⟨st ({ (up.setFld (Reg.consInterval 3) 15 0 2000) with tick := { up.tick with curPeriod := 16 } }.modGal 3 7 fun x => { x with planeA := { x.planeA with written := true, age := [(2, 1000)] } }), 3, 7, .A, 2, by decide +kernel⟩

theorem meets_load : ∃ (s : State) (n : Wing) (a : Fin 2) (q : UCmd) (rest : List UCmd), ((s.chip.wing n).arr a).queue = q :: rest ∧ mOp q.words = 2 ∧ s.chip.arrayOn n a = true ∧ ((s.chip.wing n).arr a).load = none :=
  ⟨st ((up.setFlag (Reg.mxIdent 3 1) 8 true).modArr 3 1 fun x => { x with queue := [ucmd [0x32, 0, 0, 0x1000000000000]] }), 3, 1, ucmd [0x32, 0, 0, 0x1000000000000], [], by decide +kernel⟩

theorem meets_flush : ∃ (s : State) (n : Wing) (a : Fin 2) (q : UCmd) (rest : List UCmd), ((s.chip.wing n).arr a).queue = q :: rest ∧ mOp q.words = 3 ∧ s.chip.arrayOn n a = true ∧ ((s.chip.wing n).arr a).flush = none :=
  ⟨st ((up.setFlag (Reg.mxIdent 3 1) 8 true).modArr 3 1 fun x => { x with queue := [ucmd [3, 0x40006000000, 0xFFFFFF, 0x1000000000000]] }), 3, 1, ucmd [3, 0x40006000000, 0xFFFFFF, 0x1000000000000], [], by decide +kernel⟩

theorem meets_flushBegin : ∃ (s : State) (n : Wing) (a : Fin 2) (q : UCmd), ((s.chip.wing n).arr a).flush = some q ∧ s.chip.arrayOn n a = true ∧ (mOutfmt q.words = 3 ∨ mOutfmt q.words = 4 ∨ mOutfmt q.words = 9 → s.chip.histReady s.chip.censusStep = true) :=
  ⟨st ((up.setFlag (Reg.mxIdent 3 1) 8 true).modArr 3 1 fun x => { x with flush := some (ucmd [3, 0x40006000000, 0xFFFFFF, 0x1000000000000]) }), 3, 1, ucmd [3, 0x40006000000, 0xFFFFFF, 0x1000000000000], by decide +kernel⟩

theorem meets_vBcast : ∃ (s : State) (n : Wing) (r : VecRun) (w : Word), s.chip.VecAt n 0x02 r w :=
  ⟨vec 0x202, 3, vrun, 0x202, vec_at (by decide +kernel) (by decide +kernel) (by decide +kernel)⟩

theorem meets_vRsum : ∃ (s : State) (n : Wing) (r : VecRun) (w : Word), s.chip.VecAt n 0x2C r w :=
  ⟨vec 0x22C, 3, vrun, 0x22C, vec_at (by decide +kernel) (by decide +kernel) (by decide +kernel)⟩

theorem meets_vAccessFault : ∃ (s : State) (n : Wing) (r : VecRun) (w : Word) (st : Bool), (s.chip.VecAt n (if st then 0x31 else 0x30) r w) ∧ s.chip.vTarget (s.chip.wing n).vec w = none :=
  ⟨vecAt 0x30 0x4000600, 3, vrun, 0x30, false, vec_at (by decide +kernel) (by decide +kernel) (by decide +kernel), by decide +kernel⟩

theorem meets_vAccessFault_store : ∃ (s : State) (n : Wing) (r : VecRun) (w : Word) (st : Bool), (s.chip.VecAt n (if st then 0x31 else 0x30) r w) ∧ s.chip.vTarget (s.chip.wing n).vec w = none :=
  ⟨vecAt 0x31 0x4000600, 3, vrun, 0x31, true, vec_at (by decide +kernel) (by decide +kernel) (by decide +kernel), by decide +kernel⟩

theorem meets_vVend : ∃ (s : State) (n : Wing) (r : VecRun) (w : Word), s.chip.VecAt n 0x00 r w :=
  ⟨vec 0, 3, vrun, 0, vec_at (by decide +kernel) (by decide +kernel) (by decide +kernel)⟩

theorem meets_vFlag : ∃ (s : State) (n : Wing) (r : VecRun) (w : Word), s.chip.VecAt n 0x38 r w ∧ (s.chip.wing n).vec.m.length = 8 ∧ (s.chip.wing n).vec.flags.length = 5 :=
  ⟨vec 0x38, 3, vrun, 0x38, vec_at (by decide +kernel) (by decide +kernel) (by decide +kernel), by decide +kernel⟩

theorem meets_vSop : ∃ (s : State) (n : Wing) (r : VecRun) (w : Word), s.chip.VecAt n 0x3C r w :=
  ⟨vec 0x3C, 3, vrun, 0x3C, vec_at (by decide +kernel) (by decide +kernel) (by decide +kernel)⟩

theorem meets_signal : ∃ (s : State) (w : Writer) (n : Wing) (v : Word) (i : Nat), s.chip.up = true ∧ s.chip.mayWrite w (Reg.ledgerOp n) = true ∧ s.chip.selPair n = i ∧ i ≠ 4095 ∧ wbits v 15 0 ≠ 0 ∧ s.chip.PairAt n i :=
  ⟨st ((run.setFld (Reg.ledgerIndex 3) 11 0 9).setPair 3 9 { Pair.reset with en := true, task := some 2, buf := 4, p := 3, c := 1, word := 0x4100607000 }), .host .A, 3, 5, 9, by decide +kernel, by decide +kernel, (by decide +kernel), by decide +kernel, by decide +kernel, by constructor <;> decide +kernel⟩

theorem meets_stray : ∃ (s : State) (w : Writer) (n : Wing) (v : Word) (consume : Bool), s.chip.up = true ∧ s.chip.mayWrite w (Reg.ledgerOp n) = true ∧ s.chip.selPair n ≠ 4095 ∧ wbits v 15 0 ≠ 0 ∧ s.chip.pairLive n (s.chip.selPair n) = false :=
  ⟨st run, .host .A, 3, 5, true, by decide +kernel⟩

theorem meets_queuePut : ∃ (s : State) (q : Fin 64) (tok : Word), s.chip.up = true :=
  ⟨st up, 16, 1, by decide +kernel⟩

theorem meets_frozen : ∃ (s : State) (w : Writer) (i : Nat) (b : Bool), s.chip.up = true ∧ s.chip.mayWrite w Reg.regOp = true ∧ validIx i = true ∧ s.chip.opEntry i = true :=
  ⟨st { run with cat := [(100, { CatEntry.vacant with state := 1 })] }, .host .A, 100, true, by decide +kernel⟩

theorem meets_opDiscarded : ∃ (s : State) (w : Writer) (i : Nat), s.chip.up = true ∧ s.chip.mayWrite w Reg.regOp = true ∧ validIx i = true ∧ s.chip.opEntry i = false :=
  ⟨st run, .host .A, 100, by decide +kernel⟩

theorem meets_catalogueRead : ∃ (s : State) (w : Writer) (i : Nat), s.chip.up = true ∧ s.chip.mayWrite w Reg.regOp = true ∧ i < 0x1000000 :=
  ⟨st up, .host .A, 0xFFFFFF, by decide +kernel⟩

theorem meets_moveAbandon : ∃ (s : State) (m : Move) (p : Nat), s.chip.move = some m ∧ m.pausedAt = some p ∧ p + 2000 ≤ s.chip.tick.halfUs + s.chip.period ∧ m.conflict = true :=
  ⟨st { up with move := some { wing := 3, gal := 7, tile := none, blk := 0, pausedAt := some 0, conflict := true }, tick := { up.tick with halfUs := 2000 } }, { wing := 3, gal := 7, tile := none, blk := 0, pausedAt := some 0, conflict := true }, 0, by decide +kernel⟩

theorem meets_moveAbandonFault : ∃ (s : State) (m : Move) (p : Nat), s.chip.move = some m ∧ m.pausedAt = some p ∧ p + 2000 ≤ s.chip.tick.halfUs + s.chip.period ∧ m.conflict = false :=
  ⟨st { up with move := some { wing := 3, gal := 7, tile := none, blk := 0, pausedAt := some 0, conflict := false }, tick := { up.tick with halfUs := 2000 } }, { wing := 3, gal := 7, tile := none, blk := 0, pausedAt := some 0, conflict := false }, 0, by decide +kernel⟩

theorem meets_lendCopyDone : ∃ (s : State) (k : Slot) (i : Nat) (e : PlanEntry) (r : PlanRun), s.chip.planEntry k i = some e ∧ NMap.find (s.chip.task k).plans i = some r ∧ r.act = 1 ∧ r.complete = false ∧ s.chip.planMoved r = false :=
  ⟨st ((planned 1 ({ CatEntry.vacant with state := 1, lkind := 3, owner := 3, loc := 0x40006010000 })).modTask 2 fun x => { x with plans := [(0, { act := 1, tile := 100, gen := 0, retried := false, complete := false, watched := false, late := false })] }), 2, 0, { tick := 0, act := 1, tile := 100, addr := 0x40006000000, lead := 0 }, { act := 1, tile := 100, gen := 0, retried := false, complete := false, watched := false, late := false }, by decide +kernel⟩

theorem meets_prefetchStale : ∃ (s : State) (k : Slot) (i : Nat) (e : PlanEntry) (r : PlanRun), s.chip.planEntry k i = some e ∧ NMap.find (s.chip.task k).plans i = some r ∧ r.act = 3 ∧ r.late = false ∧ s.chip.elapsed k % s.chip.cycle k = e.tick ∧ s.chip.planMoved r = true :=
  ⟨st ((planned 3 ({ CatEntry.vacant with state := 1, lkind := 3, owner := 3, loc := 0x40006010000 })).modTask 2 fun x => { x with plans := [(0, { act := 3, tile := 100, gen := 1, retried := false, complete := false, watched := false, late := false })] }), 2, 0, { tick := 0, act := 3, tile := 100, addr := 0x40006000000, lead := 0 }, { act := 3, tile := 100, gen := 1, retried := false, complete := false, watched := false, late := false }, by decide +kernel⟩

theorem meets_annexConfigWrite : ∃ (s : State) (w : Writer) (n : Wing) (size : Bool) (v : Word), s.chip.up = true ∧ (s.chip.mayWrite w (if size then Reg.memAnnexSize n else Reg.memAnnex n) = true) :=
  ⟨st up, .host .A, 3, true, 0x40000, by decide +kernel⟩

theorem meets_annexClearDone : ∃ (s : State) (n : Wing), s.chip.flag (Reg.memAnnexCtrl n) 1 = true :=
  ⟨st (((up.setFld (Reg.memAnnex 3) 43 16 0x300000).setFld (Reg.memAnnexSize 3) 18 0 1).setFlag (Reg.memAnnexCtrl 3) 1 true), 3, by decide +kernel⟩

theorem meets_contributionRefused : ∃ (s : State) (a m : Nat) (hdr : List Word), s.chip.up = true ∧ s.chip.region a = .wingStore m ∧ a % 64 = 0 ∧ s.chip.home a = a ∧ s.chip.pairs = [] ∧ hdr.length = 8 ∧ wbits (nth 0 hdr 0) 55 48 = 1 ∧ wbits (nth 0 hdr 0) 47 0 ≠ s.chip.stepCount ∧ (nth 0 hdr 0).getLsbD 56 = false :=
  ⟨st up, 0x40006000000, 3, [0x1000000000001, 0, 0, 0, 0, 0, 0, 0], by decide +kernel⟩

theorem meets_skipLimit : ∃ (s : State) (k : Nat), s.chip.trainTask = some k ∧ max (s.chip.fld Reg.stepCtrl 7 0) 1 ≤ s.chip.fld Reg.stepVote 15 8 ∧ (s.chip.task k).stopReq = none ∧ s.chip.stoppable k = true :=
  ⟨st (({ (up.setTask 2 { job .running with img := some { img with training := true, parts := 1 } }) with step := { up.step with censusTask := some 2 } } : Chip).setFld Reg.stepVote 15 8 16), 2, by decide +kernel⟩

theorem meets_frameSend : ∃ (s : State) (n : Wing) (a : Fin 2) (x : PortSt), (s.chip.wing n).port a = x ∧ s.chip.portState n a = 2 ∧ x.locked = true ∧ x.farLp = false ∧ x.resend = [] ∧ x.replay.length < 256 :=
  ⟨port lock, 3, 1, lock, by decide +kernel⟩

theorem meets_frameResend : ∃ (s : State) (n : Wing) (a : Fin 2) (x : PortSt) (q : Nat) (rest : List Nat) (f : HeldFrame), (s.chip.wing n).port a = x ∧ s.chip.portState n a = 2 ∧ x.locked = true ∧ x.farLp = false ∧ x.resend = q :: rest ∧ f ∈ x.replay ∧ f.seq = q ∧ (∀ h ∈ x.replay, h.seq = q → h = f) ∧ f.resends < 8 :=
  ⟨port { lock with resend := [7], replay := [{ seq := 7, units := [], credit := [], resends := 7 }] }, 3, 1, { lock with resend := [7], replay := [{ seq := 7, units := [], credit := [], resends := 7 }] }, 7, [], { seq := 7, units := [], credit := [], resends := 7 }, by decide +kernel⟩

theorem meets_frameIntact : ∃ (units hdr : List Byte), units.length = 1024 ∧ hdr.length = 12 ∧ (buildFrame units hdr).length = 1088 ∧ (∀ k < 8, rsDecode (codeword (buildFrame units hdr) k) = some (codeword (buildFrame units hdr) k, 0)) ∧ interleave ((List.range 8).map fun k => (codeword (buildFrame units hdr) k).take 130) 1040 = units ++ hdr ++ leBytes 4 (crc32c (hdr ++ units)) ∧ ofLeBytes (leBytes 4 (crc32c (hdr ++ units))) = crc32c (hdr ++ units) :=
  ⟨List.replicate 1024 0, List.replicate 12 0, by decide +kernel⟩

theorem meets_replayTimeout : ∃ (s : State) (n : Wing) (a : Fin 2) (x : PortSt), (s.chip.wing n).port a = x ∧ s.chip.portState n a = 2 ∧ x.replay ≠ [] ∧ (∀ h ∈ x.replay, h.resends < 8) :=
  ⟨port { lock with replay := [{ seq := 7, units := [], credit := [], resends := 7 }] }, 3, 1, { lock with replay := [{ seq := 7, units := [], credit := [], resends := 7 }] }, by decide +kernel⟩

theorem meets_lockLoss : ∃ (s : State) (n : Wing) (a : Fin 2) (x : PortSt), (s.chip.wing n).port a = x ∧ 8 ≤ x.badRun ∧ x.locked = true :=
  ⟨port { lock with badRun := 8 }, 3, 1, { lock with badRun := 8 }, by decide +kernel⟩

theorem meets_capabilityExchange : ∃ (s : State) (n : Wing) (a : Fin 2) (id : BitVec 12) (port : Fin 32) (vset : BitVec 8) (x : PortSt), (s.chip.wing n).port a = x ∧ s.chip.portState n a = 1 ∧ x.retrain = 0 :=
  ⟨st (((port lock).chip).setPortState 3 1 1), 3, 1, 9, 31, 1, lock, by decide +kernel⟩

theorem meets_portIdleLp : ∃ (s : State) (n : Wing) (a : Fin 2) (x : PortSt), (s.chip.wing n).port a = x ∧ s.chip.anyLoaded = false ∧ s.chip.portState n a = 2 ∧ x.txq = [] ∧ x.stream = [] ∧ x.rxPkts = [] ∧ x.resend = [] :=
  ⟨port lock, 3, 1, lock, by decide +kernel⟩

theorem meets_idle : ∃ (s : State) (n : Wing) (a : Fin 2) (x : PortSt), (s.chip.wing n).port a = x ∧ s.chip.portState n a = 2 ∧ x.pick = none ∧ x.stream = [] :=
  ⟨port lock, 3, 1, lock, by decide +kernel⟩

theorem meets_tickCountAdopt : ∃ (s : State) (k : Nat), s.chip.up = true ∧ s.chip.tick.hasCount = false ∧ s.chip.flag Reg.tickCtrl 0 = false ∧ k < 2 ^ 48 :=
  ⟨st up, 5, by decide +kernel⟩

theorem meets_cascadeAssemble : ∃ (s : State) (x : CascadeCensus), s.chip.up = true ∧ x.version < 256 :=
  ⟨st up, { duplicate := false, rooted := true, version := 255 }, by decide +kernel⟩

theorem meets_release : ∃ (s : State) (w : Writer) (v : Word), s.chip.up = true ∧ s.chip.mayWrite w Reg.fltCtrl = true :=
  ⟨st up, .host .A, 1, by decide +kernel⟩

theorem meets_assistWaitExpiry : ∃ (s : State), s.chip.assist = none :=
  ⟨st up, by decide +kernel⟩

theorem meets_assistStart : ∃ (s : State) (w : Writer) (v : Word), s.chip.up = true ∧ s.chip.mayWrite w Reg.fltAssist = true ∧ v.getLsbD 63 = true ∧ s.chip.heldTasks ≠ [] ∧ s.chip.assist = none ∧ s.chip.halted = false ∧ s.chip.assistDst (wbits v 55 6 * 64) = true :=
  ⟨st (((up.setTask 2 { job .stopped with held := true }).setFlag (Reg.linkXlate 1) 16 true).setFld (Reg.linkXlate 1) 11 0 9), .host .A, 0x8000100000000000, by decide +kernel⟩

theorem meets_assistDone : ∃ (s : State) (x : Assist), s.chip.assist = some x ∧ s.chip.halted = false :=
  ⟨st { up with assist := some { dst := 0x100000000000, upd := false, sent := 64 } }, { dst := 0x100000000000, upd := false, sent := 64 }, by decide +kernel⟩

theorem meets_logAckWrite : ∃ (s : State) (w : Writer) (v : Word), s.chip.up = true ∧ s.chip.mayWrite w Reg.fltLogPos = true :=
  ⟨st up, .host .A, 0, by decide +kernel⟩

theorem meets_hostRestoreStops : ∃ (s : State) (h : HostPort) (w : Word), s.chip.TokenAt h w 5 ∧ (s.chip.task (tokSlot w)).owner = none ∧ NMap.find s.chip.contexts (s.chip.blockKey h w) = none :=
  ⟨tok 5 (up), .A, tokw 5, by constructor <;> decide +kernel, by decide +kernel⟩

theorem meets_cqHeadWrite : ∃ (s : State) (h : HostPort) (v : Word), s.chip.up = true :=
  ⟨st up, .A, 3, by decide +kernel⟩

theorem meets_msixArmWrite : ∃ (s : State) (w : Writer) (h : HostPort) (v : Word), s.chip.up = true ∧ s.chip.mayWrite w (Reg.hostMsixArm (portIx h)) = true :=
  ⟨st up, .host .A, .B, 1, by decide +kernel⟩

theorem meets_primaryWrite : ∃ (s : State) (w : Writer) (v : Word), s.chip.up = true ∧ s.chip.mayWrite w Reg.hostCfg = true :=
  ⟨st up, .host .A, 1, by decide +kernel⟩

theorem meets_failover : ∃ (s : State), s.chip.up = true ∧ s.chip.fld Reg.hostCfg 31 16 ≠ 0 ∧ (s.chip.host (portIx s.chip.primary)).link = false :=
  ⟨st (up.setFld Reg.hostCfg 31 16 1), by decide +kernel⟩

theorem meets_rsaveTimer : ∃ (s : State), s.chip.up = true :=
  ⟨st up, by decide +kernel⟩

theorem meets_saveNowWrite : ∃ (s : State) (w : Writer) (v : Word), s.chip.up = true ∧ s.chip.mayWrite w Reg.bootRet = true :=
  ⟨st up, .pendun, 0x10000, by decide +kernel⟩

theorem meets_stageStatus : ∃ (s : State) (src : MboxSrc) (p n : Nat), s.chip.Serves src false true ∧ (match s.chip.boot.record with | some r => p = b2n r.2.pending ∧ n = r.2.tries | none => p = 0 ∧ n = 0) :=
  ⟨st mail, (.host .A), 0, 0, serves_primary (by decide +kernel) (by decide +kernel) (by decide +kernel), by rw [no_record]; exact ⟨rfl, rfl⟩⟩

theorem meets_attest : ∃ (s : State) (src : MboxSrc) (nonce : List Byte), s.chip.Serves src false false :=
  ⟨st mail, (.host .A), List.replicate 32 7, serves_primary (by decide +kernel) (by decide +kernel) (by decide +kernel)⟩

theorem meets_getCert : ∃ (s : State) (src : MboxSrc), s.chip.Serves src false true :=
  ⟨st mail, (.host .A), serves_primary (by decide +kernel) (by decide +kernel) (by decide +kernel)⟩

theorem meets_turnstileSample : ∃ (s : State) (vs vv : List Int) (opens : BitVec 4), s.ts.powered = true :=
  ⟨{ State.reset with ts := meter }, [], [], 0, by decide +kernel⟩

theorem meets_queueKept : ∃ (c : Instr) (s t : State), exec c s = .next t :=
  ⟨.crystalFail, st up, { st up with ts := { (st up).ts with crystal := false } }, rfl⟩

theorem meets_isolation : ∃ (c : Instr) (s t : State), exec c s = .next t :=
  ⟨.crystalFail, st up, { st up with ts := { (st up).ts with crystal := false } }, rfl⟩

theorem meets_isolated : ∃ (c : Instr) (s t u : State), exec c s = .next t ∧ Instr.ofTurnstile c = true ∧ s.ts = u.ts :=
  ⟨.crystalFail, st up, { st up with ts := { (st up).ts with crystal := false } }, State.reset, rfl, rfl, rfl⟩

theorem meets_isolated_part : ∃ (c : Instr) (s t u : State), exec c s = .next t ∧ Instr.ofTurnstile c = false ∧ s.chip = u.chip :=
  ⟨.cascadePause true, State.reset, { State.reset with pending := [] }, { State.reset with ts := meter }, rfl, rfl, rfl⟩

theorem meets_registersClosed : ∃ (s : State) (w : Writer) (a : Nat) (v : Word), (s.chip.boot.phase = .inReset ∨ s.chip.boot.phase = .starting) ∧ a < 0x10000000 ∧ (¬ (0x7000 ≤ a ∧ a < 0x7100)) :=
  ⟨State.reset, .pendun, 0, 0, .inl rfl, by decide +kernel⟩

theorem meets_canonKept : ∃ (s t : State), s.chip.Canon ∧ step s = .next t :=
  ⟨State.reset, State.reset, ⟨by decide +kernel, by decide +kernel, by decide +kernel⟩, rfl⟩

theorem meets_queuesKept : ∃ (s t : State), (∀ q, (s.chip.queue q).length ≤ 256) ∧ step s = .next t :=
  ⟨State.reset, State.reset, fun q => Nat.zero_le _, rfl⟩

theorem meets_turnstileKept : ∃ (s t : State), s.ts.Inv ∧ step s = .next t :=
  ⟨State.reset, State.reset, reset_inv, rfl⟩

theorem meets_seqRises : ∃ (c : Instr) (s t : State), s.ts.Inv ∧ exec c s = .next t :=
  ⟨.crystalFail, State.reset, { State.reset with ts := { State.reset.ts with crystal := false } }, reset_inv, rfl⟩

theorem meets_noRegister : ∃ (s : State) (a : Nat) (w : Writer), regDefAt a = none ∧ s.chip.mayWrite w a = true ∧ a < 0x10000000 :=
  ⟨st up, 0xFFFFFF8, .host .A, by decide +kernel⟩

theorem meets_regView : ∃ (s : State) (w : Writer) (i k : Nat), k < 4 ∧ s.chip.up = true ∧ s.chip.mayWrite w Reg.regOp = true ∧ i < 0x1000000 ∧ s.chip.mayWrite w (Reg.regView k) = true :=
  ⟨st up, .host .A, 0xFFFFFF, 3, by decide +kernel⟩

theorem meets_pickRule : ∃ (x : PortSt) (b : Nat), x.pick = some b ∧ x.ready b = true ∧ x.stream.length < 1024 ∧ x.passed.length = 7 :=
  ⟨{ lock with credits := List.replicate 7 9, passed := [0, 0, 64, 0, 0, 0, 3], txq := [{ vl := 3, dclass := 0, pkt := idleUnitPkt }, { vl := 1, dclass := 1, pkt := idleUnitPkt }] }, 6, by decide +kernel⟩

theorem meets_pickRule_none : ∃ (x : PortSt), x.pick = none :=
  ⟨lock, by decide +kernel⟩

theorem meets_tickEdgeHubFault : ∃ (s : State) (sync : BitVec 8) (u : BitVec 32), s.chip.up = true ∧ s.chip.halted = false :=
  ⟨st up, 0, 3, by decide +kernel⟩

theorem meets_syncPulse : ∃ (s : State) (o : Int), s.chip.up = true :=
  ⟨st run, 250, by decide +kernel⟩

theorem meets_syncPulse_loss : ∃ (s : State) (o : Int), s.chip.up = true ∧ 250 < o.natAbs ∧ s.chip.anyRunning = true ∧ s.chip.halted = false :=
  ⟨st run, 251, by decide +kernel⟩

theorem meets_commandIssueFirst : ∃ (s : State) (n : Wing) (u : ArbUnit) (h : HeldCmd), s.chip.inRun n = true ∧ s.chip.paused = false ∧ s.chip.halted = false ∧ s.chip.unitRoom n u = true ∧ s.chip.nextHeld n u = some h :=
  ⟨wing fun x => { x with held := [{ unit := .dma, tag := tag, wing := 3, gal := 7, seq := 0, late := false, words := [] }] }, 3, .dma, { unit := .dma, tag := tag, wing := 3, gal := 7, seq := 0, late := false, words := [] }, by decide +kernel⟩

theorem meets_amaxCombine : ∃ (s : State) (st : Nat) (es : List AmaxEntry), s.chip.step.waitSteps.contains st = true ∧ s.chip.stepDrained st = true :=
  ⟨st { (up.setFld Reg.censusShape 23 0 6) with step := { up.step with waitSteps := [9] } }, 9, [{ tensor := 5, amax := 1, counted := true }], by decide +kernel⟩

theorem meets_amaxOther : ∃ (s : State) (st : Nat) (e : AmaxEntry), s.chip.step.waitSteps.contains st = true ∧ s.chip.stepDrained st = true ∧ s.chip.ownAmax st = [] ∧ e.tensor < s.chip.tensors ∧ e.counted = true :=
  ⟨st { (up.setFld Reg.censusShape 23 0 6) with step := { up.step with waitSteps := [9] } }, 9, { tensor := 5, amax := 1, counted := true }, by decide +kernel⟩

theorem meets_censusRecordWrite : ∃ (s : State) (st x : Nat), (s.chip.counts st x).combined = true ∧ s.chip.step.waitSteps.contains st = false ∧ x < s.chip.tensors :=
  ⟨st (((up.setFld Reg.censusShape 23 0 6).setFld Reg.censusBase 43 6 64).setCounts 9 5 { TCount.zero with combined := true }), 9, 5, by decide +kernel⟩

theorem meets_mvm : ∃ (s : State) (n : Wing) (g : GalIx) (k : Slot) (w0 w1 : Word) (clk : Nat), s.chip.galTask n (s.chip.served n g) = some k.val ∧ s.chip.stoppable k = true ∧ gOp w0 = 1 ∧ s.chip.refFwd (some k.val) = false ∧ (s.chip.gal n (s.chip.served n g)).cmdQ.length < 16 ∧ s.chip.gValid false w0 w1 = true :=
  ⟨st ({ run with tick := { run.tick with curPeriod := 16 } }), 3, 7, 2, 1, 0x1000000000000, 40, by decide +kernel⟩

theorem meets_mvmBad : ∃ (s : State) (n : Wing) (g : GalIx) (k : Slot) (w0 w1 : Word) (clk : Nat), s.chip.galTask n (s.chip.served n g) = some k.val ∧ s.chip.stoppable k = true ∧ gOp w0 = 1 ∧ s.chip.refFwd (some k.val) = false ∧ (s.chip.gal n (s.chip.served n g)).cmdQ.length < 16 ∧ s.chip.gValid false w0 w1 = false :=
  ⟨st run, 3, 7, 2, 0x41, 0x1000000000000, 40, by decide +kernel⟩

theorem meets_mvmRefForward : ∃ (s : State) (n : Wing) (g : GalIx) (k : Slot) (w0 w1 : Word) (clk : Nat), s.chip.galTask n (s.chip.served n g) = some k.val ∧ s.chip.stoppable k = true ∧ gOp w0 = 1 ∧ s.chip.refFwd (some k.val) = true ∧ (s.chip.gal n (s.chip.served n g)).cmdQ.length < 16 :=
  ⟨st (run.setTask 2 { job .running with img := some { img with refFwd := true } }), 3, 7, 2, 1, 0x1000000000000, 40, by decide +kernel⟩

theorem meets_mvmStart : ∃ (s : State) (n : Wing) (g : GalIx) (slot : Nat) (q : GCmd) (rest : List GCmd), (s.chip.gal n g).cmdQ = q :: rest ∧ gOp q.w0 = 1 ∧ s.chip.mvmLeaves n g slot q (s.chip.mvmPlane n g (gPlane q.w0)) = true ∧ slot + s.chip.budget n g (s.chip.mvmPlane n g (gPlane q.w0)) ≤ s.chip.slots ∧ ((s.chip.stepAt slot (s.chip.gal n g)).1.gainCounts (s.chip.mvmPlane n g (gPlane q.w0)) = true → s.chip.histReady (s.chip.stepAt slot (s.chip.gal n g)).2 = true) :=
  ⟨st ({ up with tick := { up.tick with curPeriod := 16, edgeClk := 100 } }.modGal 3 7 fun x => { x with cmdQ := [gcmd 1 0x1000000000000] }), 3, 7, 0, gcmd 1 0x1000000000000, [], by decide +kernel⟩

theorem meets_mvmStart_counts : ∃ (s : State) (n : Wing) (g : GalIx) (slot : Nat) (q : GCmd) (rest : List GCmd), (s.chip.gal n g).cmdQ = q :: rest ∧ gOp q.w0 = 1 ∧ s.chip.mvmLeaves n g slot q (s.chip.mvmPlane n g (gPlane q.w0)) = true ∧ slot + s.chip.budget n g (s.chip.mvmPlane n g (gPlane q.w0)) ≤ s.chip.slots ∧ ((s.chip.stepAt slot (s.chip.gal n g)).1.gainCounts (s.chip.mvmPlane n g (gPlane q.w0)) = true → s.chip.histReady (s.chip.stepAt slot (s.chip.gal n g)).2 = true) ∧ (s.chip.stepAt slot (s.chip.gal n g)).1.gainCounts (s.chip.mvmPlane n g (gPlane q.w0)) = true :=
  ⟨st (({ up with tick := { up.tick with curPeriod := 16, edgeClk := 100 } }.modGal 3 7 fun x => { x with cmdQ := [gcmd 1 0x1000000000000], gainSet := 0x13000, readSet := 0xFFFFFF00000005 }).setFld Reg.censusShape 23 0 6), 3, 7, 0, gcmd 1 0x1000000000000, [], by decide +kernel⟩

theorem meets_mvmOverBudget : ∃ (s : State) (n : Wing) (g : GalIx) (slot : Nat) (q : GCmd) (rest : List GCmd), (s.chip.gal n g).cmdQ = q :: rest ∧ gOp q.w0 = 1 ∧ s.chip.mvmLeaves n g slot q (s.chip.mvmPlane n g (gPlane q.w0)) = true ∧ s.chip.slots < s.chip.budget n g (s.chip.mvmPlane n g (gPlane q.w0)) ∧ (s.chip.gal n g).threads = [] :=
  ⟨st ((({ up with tick := { up.tick with curPeriod := 1, edgeClk := 100 } }.modGal 3 7 fun x => { x with cmdQ := [gcmd 1 0x1000000000000] })).setFld (Reg.phaseBudget 3 7) 1 0 2), 3, 7, 0, gcmd 1 0x1000000000000, [], by decide +kernel⟩

theorem meets_mvmHistWait : ∃ (s : State) (n : Wing) (g : GalIx) (slot : Nat) (q : GCmd) (rest : List GCmd), (s.chip.gal n g).cmdQ = q :: rest ∧ gOp q.w0 = 1 ∧ s.chip.mvmLeaves n g slot q (s.chip.mvmPlane n g (gPlane q.w0)) = true ∧ slot + s.chip.budget n g (s.chip.mvmPlane n g (gPlane q.w0)) ≤ s.chip.slots ∧ (s.chip.stepAt slot (s.chip.gal n g)).1.gainCounts (s.chip.mvmPlane n g (gPlane q.w0)) = true ∧ s.chip.histReady (s.chip.stepAt slot (s.chip.gal n g)).2 = false :=
  ⟨st ({ ({ up with tick := { up.tick with curPeriod := 16, edgeClk := 100 } }.modGal 3 7 fun x => { x with cmdQ := [gcmd 1 0x1000000000000], gainSet := 0x13000, readSet := 0xFFFFFF00000005 }).setFld Reg.censusShape 23 0 6 |>.setFld Reg.censusStep 47 0 5 with step := { up.step with waitSteps := [0], censusTask := some 2, censusArmed := true } }), 3, 7, 0, gcmd 1 0x1000000000000, [], by decide +kernel⟩

theorem meets_mvmComplete : ∃ (s : State) (n : Wing) (g : GalIx) (bad : Bool) (m : Mvm), ((s.chip.gal n g).mvms.find? (fun x => !x.ended) = some m) ∧ m.out % 16 = 0 ∧ m.out ≤ 0xFC00 ∧ s.chip.waits = [] ∧ (∀ k < 128, s.chip.isFull (galStoreBase n g + m.out + 8 * k) = false) :=
  ⟨gal fun x => { x with mvms := [mvm0] }, 3, 7, false, mvm0, by decide +kernel⟩

theorem meets_write : ∃ (s : State) (n : Wing) (g : GalIx) (q : GCmd) (rest : List GCmd), (s.chip.gal n g).cmdQ = q :: rest ∧ gOp q.w0 = 2 ∧ s.chip.inRun n = true ∧ s.chip.paused = false ∧ ((s.chip.gal n g).pendW.length + (if (s.chip.gal n g).wjob.isSome then 1 else 0) < 2) :=
  ⟨gal fun x => { x with cmdQ := [gcmd 2 0x1000000000000] }, 3, 7, gcmd 2 0x1000000000000, [], by decide +kernel⟩

theorem meets_writeActivate : ∃ (s : State) (n : Wing) (g : GalIx) (q : GCmd) (rest : List GCmd), (s.chip.gal n g).pendW = q :: rest ∧ (s.chip.gal n g).wjob = none ∧ s.chip.inRun n = true ∧ s.chip.dueBegun q.tag = true ∧ (s.chip.resident n g = true ∨ (s.chip.rhSwap n g = false ∧ q.needSwaps ≤ (s.chip.gal n g).swapDone)) :=
  ⟨st ((up.setFlag (Reg.galMode 3 7) 0 true).modGal 3 7 fun x => { x with pendW := [gcmd 2 0x1000000000000] }), 3, 7, gcmd 2 0x1000000000000, [], by decide +kernel⟩

theorem meets_writeActivate_streaming : ∃ (s : State) (n : Wing) (g : GalIx) (q : GCmd) (rest : List GCmd), (s.chip.gal n g).pendW = q :: rest ∧ (s.chip.gal n g).wjob = none ∧ s.chip.inRun n = true ∧ s.chip.dueBegun q.tag = true ∧ (s.chip.resident n g = true ∨ (s.chip.rhSwap n g = false ∧ q.needSwaps ≤ (s.chip.gal n g).swapDone)) ∧ s.chip.resident n g = false :=
  ⟨gal fun x => { x with pendW := [{ gcmd 2 0x1000000000000 with needSwaps := 4 }], swapDone := 4 }, 3, 7, { gcmd 2 0x1000000000000 with needSwaps := 4 }, [], by decide +kernel⟩

theorem meets_cellVerify : ∃ (s : State) (n : Wing) (g : GalIx) (v : VitIx) (sl : Fin 3) (code : BitVec 10) (j : WriteJob) (e : CellProg), (s.chip.gal n g).wjob = some j ∧ j.cellOf v sl = some e ∧ j.aborted = false :=
  ⟨gal fun x => { x with wjob := some ({ wjob .stream [0] with vits := [(9, { next := 8, cells := [{ slice := 1, idx := 4, pulses := 2, level := 512 }] })] }) }, 3, 7, 9, 1, 512, { wjob .stream [0] with vits := [(9, { next := 8, cells := [{ slice := 1, idx := 4, pulses := 2, level := 512 }] })] }, { slice := 1, idx := 4, pulses := 2, level := 512 }, by decide +kernel⟩

theorem meets_cellNext : ∃ (s : State) (n : Wing) (g : GalIx) (v : VitIx) (sl : Fin 3) (code : BitVec 10) (j : WriteJob), (s.chip.gal n g).wjob = some j ∧ (s.chip.gal n g).rjob = none ∧ ((s.chip.gal n g).vit v).spare ≠ sl.val ∧ j.cellOf v sl = none ∧ j.mayBegin v = true :=
  ⟨gal fun x => { x with wjob := some ({ wjob .stream [0] with staged := 16 }) }, 3, 7, 9, 1, 512, { wjob .stream [0] with staged := 16 }, by decide +kernel⟩

theorem meets_cellRehang : ∃ (s : State) (n : Wing) (g : GalIx) (v : VitIx) (sl : Fin 3) (code : BitVec 10) (j : WriteJob) (e : CellProg), (s.chip.gal n g).wjob = none ∧ (s.chip.gal n g).rjob = some j ∧ j.cellOf v sl = some e ∧ j.aborted = false :=
  ⟨gal fun x => { x with rjob := some ({ wjob .live [0] with vits := [(9, { next := 8, cells := [{ slice := 1, idx := 4, pulses := 2, level := 512 }] })] }) }, 3, 7, 9, 1, 512, { wjob .live [0] with vits := [(9, { next := 8, cells := [{ slice := 1, idx := 4, pulses := 2, level := 512 }] })] }, { slice := 1, idx := 4, pulses := 2, level := 512 }, by decide +kernel⟩

theorem meets_planeWriteComplete : ∃ (s : State) (n : Wing) (g : GalIx) (j : WriteJob), (s.chip.gal n g).wjob = some j ∧ j.staged = 512 ∧ (∀ r, (s.chip.gal n g).rjob = some r → r.plane ≠ j.plane) :=
  ⟨gal fun x => { x with wjob := some ({ wjob .stream [] with staged := 512 }) }, 3, 7, { wjob .stream [] with staged := 512 }, by decide +kernel, by decide +kernel, fun _ h => nomatch h⟩

theorem meets_rehangWritten_live : ∃ (s : State) (n : Wing) (g : GalIx) (j : WriteJob), (s.chip.gal n g).wjob = none ∧ (s.chip.gal n g).rjob = some j ∧ j.aborted = false ∧ j.order ≠ [] ∧ j.form = .live :=
  ⟨gal fun x => { x with rjob := some (wjob .live [2]) }, 3, 7, wjob .live [2], by decide +kernel⟩

theorem meets_rehangWritten_idle : ∃ (s : State) (n : Wing) (g : GalIx) (j : WriteJob), (s.chip.gal n g).wjob = none ∧ (s.chip.gal n g).rjob = some j ∧ j.aborted = false ∧ j.order ≠ [] ∧ j.form = .idle :=
  ⟨gal fun x => { x with rjob := some (wjob .idle [2]) }, 3, 7, wjob .idle [2], by decide +kernel⟩

theorem meets_rehangWritten_resident : ∃ (s : State) (n : Wing) (g : GalIx) (j : WriteJob), (s.chip.gal n g).wjob = none ∧ (s.chip.gal n g).rjob = some j ∧ j.aborted = false ∧ j.order ≠ [] ∧ j.form = .resident :=
  ⟨gal fun x => { x with rjob := some (wjob .resident [2]) }, 3, 7, wjob .resident [2], by decide +kernel⟩

theorem meets_swap : ∃ (s : State) (n : Wing) (g : GalIx) (q : GCmd) (rest : List GCmd), (s.chip.gal n g).cmdQ = q :: rest ∧ gOp q.w0 = 3 ∧ s.chip.inRun n = true ∧ s.chip.paused = false :=
  ⟨gal fun x => { x with cmdQ := [gcmd 3 0x1000000000000] }, 3, 7, gcmd 3 0x1000000000000, [], by decide +kernel⟩

theorem meets_swapRequestWrite : ∃ (s : State) (w : Writer) (n : Wing) (g : GalIx) (v : Word), s.chip.up = true ∧ s.chip.mayWrite w (Reg.galMode n g) = true ∧ v.getLsbD 2 = true :=
  ⟨st run, .host .A, 3, 7, 4, by decide +kernel⟩

theorem meets_swapTakeEffect : ∃ (s : State) (n : Wing) (g : GalIx), s.chip.resident n g = false ∧ s.chip.swapPend n g = true ∧ s.chip.rhSwap n g = false ∧ (s.chip.gal n g).swapHeld = false ∧ (∀ q ∈ (s.chip.gal n g).pendW, (s.chip.gal n g).swapDone < q.needSwaps) ∧ (∀ m ∈ (s.chip.gal n g).mvms, m.ended = true ∨ m.noSlot = true) :=
  ⟨st (up.setFlag (Reg.galMode 3 7) 3 true), 3, 7, by decide +kernel⟩

theorem meets_swapOfRehang : ∃ (s : State) (n : Wing) (g : GalIx) (j : WriteJob), s.chip.resident n g = false ∧ s.chip.rhSwap n g = true ∧ (s.chip.gal n g).swapHeld = false ∧ (∀ m ∈ (s.chip.gal n g).mvms, m.ended = true ∨ m.noSlot = true) ∧ (s.chip.gal n g).rjob = some j :=
  ⟨st ((up.setFlag (Reg.galMode 3 7) 5 true).modGal 3 7 fun x => { x with rjob := some (wjob .live []) }), 3, 7, wjob .live [], by decide +kernel⟩

theorem meets_vitrineRotate : ∃ (s : State) (n : Wing) (g : GalIx) (v : VitIx) (k : Nat), (if s.chip.fld (Reg.spareSel n) 1 0 = 3 then ((s.chip.gal n g).vit v).rotSeen < (s.chip.wing n).rotCount ∧ k = (((s.chip.gal n g).vit v).spare + 1) % 3 else k = s.chip.fld (Reg.spareSel n) 1 0 ∧ ((s.chip.gal n g).vit v).spare ≠ k) ∧ s.chip.calBusyNow n ((s.chip.gal n g).vit v) = false ∧ ((s.chip.gal n g).vit v).stale = false ∧ (s.chip.gal n g).sliceBusy v k = false :=
  ⟨st (((up.setFld (Reg.spareSel 3) 1 0 3).modWing 3 fun x => { x with rotCount := 1 })), 3, 7, 9, 0, by decide +kernel⟩

theorem meets_vitrineRotate_fixed : ∃ (s : State) (n : Wing) (g : GalIx) (v : VitIx) (k : Nat), (if s.chip.fld (Reg.spareSel n) 1 0 = 3 then ((s.chip.gal n g).vit v).rotSeen < (s.chip.wing n).rotCount ∧ k = (((s.chip.gal n g).vit v).spare + 1) % 3 else k = s.chip.fld (Reg.spareSel n) 1 0 ∧ ((s.chip.gal n g).vit v).spare ≠ k) ∧ s.chip.calBusyNow n ((s.chip.gal n g).vit v) = false ∧ ((s.chip.gal n g).vit v).stale = false ∧ (s.chip.gal n g).sliceBusy v k = false ∧ s.chip.fld (Reg.spareSel n) 1 0 ≠ 3 :=
  ⟨st (up.setFld (Reg.spareSel 3) 1 0 1), 3, 7, 9, 1, by decide +kernel⟩

theorem meets_calibrationPass : ∃ (s : State) (n : Wing) (g : GalIx) (v : VitIx), ((s.chip.gal n g).vit v).stale = false ∧ s.chip.calBusyNow n ((s.chip.gal n g).vit v) = true :=
  ⟨gal fun x => x.modVit 9 fun v => { v with calBusy := true }, 3, 7, 9, by decide +kernel⟩

theorem meets_calibrationRetry : ∃ (s : State) (n : Wing) (g : GalIx) (v : VitIx), ((s.chip.gal n g).vit v).stale = false ∧ s.chip.calBusyNow n ((s.chip.gal n g).vit v) = true ∧ ((s.chip.gal n g).vit v).calRetried = false :=
  ⟨gal fun x => x.modVit 9 fun v => { v with calBusy := true }, 3, 7, 9, by decide +kernel⟩

theorem meets_calibrationFail : ∃ (s : State) (n : Wing) (g : GalIx) (v : VitIx), ((s.chip.gal n g).vit v).stale = false ∧ s.chip.calBusyNow n ((s.chip.gal n g).vit v) = true ∧ ((s.chip.gal n g).vit v).calRetried = true :=
  ⟨gal fun x => x.modVit 9 fun v => { v with calBusy := true, calRetried := true }, 3, 7, 9, by decide +kernel⟩

theorem meets_columnMeasureHeld : ∃ (s : State) (n : Wing) (g : GalIx) (v : VitIx) (p : Plane) (col : Fin 33) (z r : List Int), s.chip.flag (Reg.corrIndex n g) 16 = true ∧ s.chip.calBusyNow n ((s.chip.gal n g).vit v) = false ∧ ((s.chip.gal n g).vit v).calDone = true ∧ ((s.chip.gal n g).vit v).stale = false ∧ (s.chip.gal n g).drivesAll p v = false ∧ ((s.chip.gal n g).vit v).sweepPlane = p ∧ ((s.chip.gal n g).vit v).sweepCol = col.val ∧ z.length = 4 ∧ r.length = 4 ∧ (s.chip.gal n g).cellsBusy p v = false ∧ s.chip.wingState n ≠ 3 :=
  ⟨st (up.setFlag (Reg.corrIndex 3 7) 16 true), 3, 7, 9, .A, 0, [1, 2, 3, 4], [5, 6, 7, 8], by decide +kernel⟩

theorem meets_columnMeasureDone : ∃ (s : State) (n : Wing) (g : GalIx) (v : VitIx) (p : Plane) (col : Fin 33) (z r : List Int), s.chip.flag (Reg.corrIndex n g) 16 = false ∧ s.chip.calBusyNow n ((s.chip.gal n g).vit v) = false ∧ ((s.chip.gal n g).vit v).calDone = true ∧ ((s.chip.gal n g).vit v).stale = false ∧ (s.chip.gal n g).drivesAll p v = false ∧ ((s.chip.gal n g).vit v).sweepPlane = p ∧ ((s.chip.gal n g).vit v).sweepCol = col.val ∧ z.length = 4 ∧ r.length = 4 ∧ (s.chip.gal n g).cellsBusy p v = false ∧ s.chip.wingState n ≠ 3 :=
  ⟨st up, 3, 7, 9, .A, 0, [1, 2, 3, 4], [5, 6, 7, 8], by decide +kernel⟩

theorem meets_coefAged_A : ∃ (s : State) (n : Wing) (g : GalIx) (v : VitIx) (p : Plane), (∀ l, (match p with | .A => ((s.chip.gal n g).vit v).agedA | .B => ((s.chip.gal n g).vit v).agedB) = some l → l < s.chip.fld (Reg.convRot n) 31 16) ∧ 64 * s.chip.fld (Reg.convRot n) 31 16 < s.chip.tick.slotCount - (match p with | .A => ((s.chip.gal n g).vit v).sweptA | .B => ((s.chip.gal n g).vit v).sweptB) :=
  ⟨st { up with tick := { up.tick with slotCount := 64 * 65536 + 1 } }, 3, 7, 9, .A, by intro l h; revert h; exact (fun h : (none : Option Nat) = some l => nomatch h), by decide +kernel⟩

theorem meets_coefAged_B : ∃ (s : State) (n : Wing) (g : GalIx) (v : VitIx) (p : Plane), (∀ l, (match p with | .A => ((s.chip.gal n g).vit v).agedA | .B => ((s.chip.gal n g).vit v).agedB) = some l → l < s.chip.fld (Reg.convRot n) 31 16) ∧ 64 * s.chip.fld (Reg.convRot n) 31 16 < s.chip.tick.slotCount - (match p with | .A => ((s.chip.gal n g).vit v).sweptA | .B => ((s.chip.gal n g).vit v).sweptB) :=
  ⟨st { up with tick := { up.tick with slotCount := 64 * 65536 + 1 } }, 3, 7, 9, .B, by intro l h; revert h; exact (fun h : (none : Option Nat) = some l => nomatch h), by decide +kernel⟩

theorem meets_corrDataWrite : ∃ (s : State) (w : Writer) (n : Wing) (g : GalIx) (v : Word) (same : Bool), s.chip.up = true ∧ s.chip.mayWrite w (Reg.corrData n g) = true :=
  ⟨st (up.setFld (Reg.corrIndex 3 7) 12 0 2375), .host .A, 3, 7, 0x8000, false, by decide +kernel⟩

theorem meets_corrDataWrite_clock : ∃ (s : State) (w : Writer) (n : Wing) (g : GalIx) (v : Word) (same : Bool), s.chip.up = true ∧ s.chip.mayWrite w (Reg.corrData n g) = true :=
  ⟨st up, .host .A, 3, 7, 0x8000, true, by decide +kernel⟩

theorem meets_watchConversion : ∃ (s : State) (d : Fin 8) (code : BitVec 12) (src ch : Nat) (rest : NMap Nat), s.chip.up = true ∧ (s.chip.die d).hot = [] ∧ (s.chip.die d).urgent = (src, ch) :: rest ∧ ch < 16 :=
  ⟨st ((up.setFld (Reg.watchTherm 2) 11 0 0x9F0).modDie 1 fun x => { x with urgent := [(2, 6)] }), 1, 0x9F0, 2, 6, [], by decide +kernel⟩

theorem meets_watchSequence : ∃ (s : State) (d : Fin 8) (code : BitVec 12) (ch : Nat), s.chip.up = true ∧ (s.chip.die d).hot = [] ∧ (s.chip.die d).urgent = [] ∧ s.chip.flag (Reg.watchCtrl (2 * d.val)) 8 = true ∧ s.chip.fld (Reg.watchSeq (2 * d.val) (s.chip.fld (Reg.watchCtrl (2 * d.val)) 20 16)) 3 0 = ch :=
  ⟨st ((up.setFlag (Reg.watchCtrl 2) 8 true).setFld (Reg.watchSeq 2 0) 3 0 6), 1, 0x9F1, 6, by decide +kernel⟩

theorem meets_urgentRequest : ∃ (s : State) (d : Fin 8) (ch : Fin 16), (s.chip.die d).hot.contains ch.val = true :=
  ⟨st (up.modDie 1 fun x => { x with hot := [6] }), 1, 6, by decide +kernel⟩

theorem meets_conservatorRequest : ∃ (s : State) (d : Fin 8) (odd : Bool) (ch : Fin 16), s.chip.wingState (2 * d.val + b2n odd) ≠ 3 ∧ ch.val = s.chip.stalest (2 * d.val + b2n odd) ∧ s.chip.tick.edges ≠ 0 ∧ (NMap.get (fun _ => 0) (s.chip.die d).asked (1 + b2n odd) ≠ s.chip.tick.edges) ∧ s.chip.sensorOld (2 * d.val + b2n odd) (s.chip.fld (Reg.consTemp (2 * d.val + b2n odd)) 31 16) = true :=
  ⟨st { up with tick := { up.tick with edges := 2 } }, 1, true, 4, by decide +kernel⟩

theorem meets_cmdW1Write : ∃ (s : State) (w : Writer) (n : Wing) (g : GalIx) (v : Word) (clk : Nat), s.chip.up = true ∧ s.chip.mayWrite w (Reg.cmdW1 n g) = true :=
  ⟨st (up.setFld (Reg.cmdW0 3 7) 3 0 3), .host .A, 3, 7, 0x1000000000000, 40, by decide +kernel⟩

theorem meets_cmdW1Write_loaded : ∃ (s : State) (w : Writer) (n : Wing) (g : GalIx) (v : Word) (clk : Nat), s.chip.up = true ∧ s.chip.mayWrite w (Reg.cmdW1 n g) = true ∧ s.chip.anyLoaded = true :=
  ⟨st run, .host .A, 3, 7, 0x1000000000000, 40, by decide +kernel⟩

theorem meets_registerPathIdle : ∃ (s : State) (n : Wing), (s.chip.wing n).keepAwake = true ∧ s.chip.pathBusy n = false ∧ s.chip.pathRested n = true :=
  ⟨st { up.modWing 3 fun x => { x with keepAwake := true } with tick := { up.tick with halfUs := 3000 } }, 3, by decide +kernel⟩

theorem meets_groupDue : ∃ (s : State) (n : Wing) (g : GalIx) (p : Plane) (m : Fin 8), s.chip.groupReaches n g p m 7 8 = true ∧ hasMark ((s.chip.gal n g).plane p).due m = false :=
  ⟨st (((({ up with tick := { up.tick with curPeriod := 16, edges := 9 } }).setFld (Reg.consInterval 3) 15 0 2000)).modGal 3 7 fun x => { x with planeB := { x.planeB with written := true, age := [(2, 219)] } }), 3, 7, .B, 2, by decide +kernel⟩

theorem meets_groupDue_live : ∃ (s : State) (n : Wing) (g : GalIx) (p : Plane) (m : Fin 8), s.chip.groupReaches n g p m 7 8 = true ∧ hasMark ((s.chip.gal n g).plane p).due m = false :=
  ⟨st (((({ up with tick := { up.tick with curPeriod := 16, edges := 9 } }).setFld (Reg.consInterval 3) 15 0 2000)).modGal 3 7 fun x => { x with planeA := { x.planeA with written := true, age := [(2, 219)] } }), 3, 7, .A, 2, by decide +kernel⟩

theorem meets_groupLate : ∃ (s : State) (n : Wing) (g : GalIx) (p : Plane) (m : Fin 8), s.chip.groupReaches n g p m 1 1 = true ∧ hasMark ((s.chip.gal n g).plane p).late m = false :=
  ⟨st (((({ up with tick := { up.tick with curPeriod := 16, edges := 9 } }).setFld (Reg.consInterval 3) 15 0 2000)).modGal 3 7 fun x => { x with planeA := { x.planeA with written := true, age := [(2, 250)] } }), 3, 7, .A, 2, by decide +kernel⟩

theorem meets_groupExpiredTile : ∃ (s : State) (n : Wing) (g : GalIx) (p : Plane) (m : Fin 8), s.chip.groupReaches n g p m 4 1 = true ∧ hasMark ((s.chip.gal n g).plane p).expired m = false ∧ ((s.chip.gal n g).plane p).holds ≠ none :=
  ⟨st (((({ up with tick := { up.tick with curPeriod := 16, edges := 9 } }).setFld (Reg.consInterval 3) 15 0 2000)).modGal 3 7 fun x => { x with planeA := { x.planeA with written := true, age := [(2, 1000)], holds := some 100 } }), 3, 7, .A, 2, by decide +kernel⟩

theorem meets_rehangSourceMoved : ∃ (s : State) (n : Wing) (g : GalIx) (i : Instr) (form : WriteForm) (p : Plane), startsRehang s n g i form p ∧ s.chip.rehangReady n g form p = true ∧ s.chip.sourceOk n g p = false ∧ ((s.chip.gal n g).plane p).moved = false :=
  ⟨st (((({ up with tick := { up.tick with curPeriod := 16, edges := 9 } }).setFld (Reg.consInterval 3) 15 0 2000)).modGal 3 7 fun x => { x with planeA := { x.planeA with written := true, age := [(2, 250)] } }), 3, 7, (.liveRehangStart 3 7), .live, .A, .inl ⟨rfl, rfl, by decide +kernel⟩, by decide +kernel⟩

theorem meets_rehangSourceMoved_idle : ∃ (s : State) (n : Wing) (g : GalIx) (i : Instr) (form : WriteForm) (p : Plane), startsRehang s n g i form p ∧ s.chip.rehangReady n g form p = true ∧ s.chip.sourceOk n g p = false ∧ ((s.chip.gal n g).plane p).moved = false :=
  ⟨st (((({ up with tick := { up.tick with curPeriod := 16, edges := 9 } }).setFld (Reg.consInterval 3) 15 0 2000)).modGal 3 7 fun x => { x with planeB := { x.planeB with written := true, age := [(2, 250)], holds := some 100 } }), 3, 7, (.idleRehangStart 3 7), .idle, .B, .inr (.inl ⟨rfl, rfl, by decide +kernel⟩), by decide +kernel⟩

theorem meets_rehangSourceMoved_resident : ∃ (s : State) (n : Wing) (g : GalIx) (i : Instr) (form : WriteForm) (p : Plane), startsRehang s n g i form p ∧ s.chip.rehangReady n g form p = true ∧ s.chip.sourceOk n g p = false ∧ ((s.chip.gal n g).plane p).moved = false :=
  ⟨st (((({ up with tick := { up.tick with curPeriod := 16, edges := 9 } }).setFld (Reg.consInterval 3) 15 0 2000).setFlag (Reg.galMode 3 7) 0 true).modGal 3 7 fun x => { x with planeA := { x.planeA with written := true, age := [(2, 250)] } }), 3, 7, (.refreshSlotStart 3 7 .A), .resident, .A, .inr (.inr ⟨rfl, rfl⟩), by decide +kernel⟩

theorem meets_liveRehangStart : ∃ (s : State) (n : Wing) (g : GalIx), s.chip.rehangReady n g .live (s.chip.livePlane n g) = true ∧ s.chip.sourceOk n g (s.chip.livePlane n g) = true ∧ s.chip.rehangTurn n g (s.chip.livePlane n g) = true :=
  ⟨st (((({ up with tick := { up.tick with curPeriod := 16, edges := 9 } }).setFld (Reg.consInterval 3) 15 0 2000)).modGal 3 7 fun x => { x with planeA := { x.planeA with written := true, age := [(2, 250)], watched := true, srcTile := 5 } }), 3, 7, by decide +kernel⟩

theorem meets_idleRehangStart : ∃ (s : State) (n : Wing) (g : GalIx), s.chip.rehangReady n g .idle (otherPlane (s.chip.livePlane n g)) = true ∧ s.chip.sourceOk n g (otherPlane (s.chip.livePlane n g)) = true ∧ s.chip.rehangTurn n g (otherPlane (s.chip.livePlane n g)) = true :=
  ⟨st (((({ up with tick := { up.tick with curPeriod := 16, edges := 9 } }).setFld (Reg.consInterval 3) 15 0 2000)).modGal 3 7 fun x => { x with planeB := { x.planeB with written := true, age := [(2, 250)], watched := true, srcTile := 5, holds := some 100 } }), 3, 7, by decide +kernel⟩

theorem meets_refreshSlotStart : ∃ (s : State) (n : Wing) (g : GalIx) (p : Plane), s.chip.rehangReady n g .resident p = true ∧ s.chip.sourceOk n g p = true ∧ ((s.chip.gal n g).rhOpen ≠ none ∨ s.chip.rehangTurn n g p = true) :=
  ⟨st (((({ up with tick := { up.tick with curPeriod := 16, edges := 9 } }).setFld (Reg.consInterval 3) 15 0 2000).setFlag (Reg.galMode 3 7) 0 true).modGal 3 7 fun x => { x with planeA := { x.planeA with written := true, age := [(2, 250)], watched := true, srcTile := 5 } }), 3, 7, .A, by decide +kernel⟩

theorem meets_refreshSlotEnd : ∃ (s : State) (n : Wing) (g : GalIx) (j : WriteJob) (e : Nat), (s.chip.gal n g).rjob = some j ∧ (s.chip.gal n g).slotStart = some e ∧ j.form = .resident ∧ (j.finished = true ∨ e + s.chip.fld (Reg.consCtrl n) 19 16 + 1 ≤ s.chip.tick.edges) :=
  ⟨st ({ up with tick := { up.tick with edges := 9 } }.modGal 3 7 fun x => { x with rjob := some (wjob .resident [2]), slotStart := some 0 }), 3, 7, wjob .resident [2], 0, by decide +kernel⟩

theorem meets_refreshSlotEnd_early : ∃ (s : State) (n : Wing) (g : GalIx) (j : WriteJob) (e : Nat), (s.chip.gal n g).rjob = some j ∧ (s.chip.gal n g).slotStart = some e ∧ j.form = .resident ∧ (j.finished = true ∨ e + s.chip.fld (Reg.consCtrl n) 19 16 + 1 ≤ s.chip.tick.edges) ∧ j.finished = true :=
  ⟨gal fun x => { x with rjob := some (wjob .resident []), slotStart := some 0 }, 3, 7, wjob .resident [], 0, by decide +kernel⟩

theorem meets_rehangComplete : ∃ (s : State) (n : Wing) (g : GalIx) (j : WriteJob), (s.chip.gal n g).rjob = some j ∧ j.form = .idle ∧ j.order = [] ∧ j.aborted = false :=
  ⟨gal fun x => { x with rjob := some (wjob .idle []) }, 3, 7, wjob .idle [], by decide +kernel⟩

theorem meets_refreshComplete : ∃ (s : State) (n : Wing) (g : GalIx) (p : Plane), (s.chip.gal n g).rjob = none ∧ (s.chip.gal n g).rhOpen = some p ∧ s.chip.anyDue n ((s.chip.gal n g).plane p) = false :=
  ⟨gal fun x => { x with rhOpen := some .A }, 3, 7, .A, by decide +kernel⟩

theorem meets_movedResponse : ∃ (s : State) (n : Wing) (g : GalIx) (j : WriteJob) (p : Plane), (s.chip.gal n g).rjob = some j ∧ j.order ≠ [] ∧ j.aborted = false ∧ (p = (if j.form = .live then otherPlane j.plane else j.plane)) ∧ s.chip.sourceOk n g p = false :=
  ⟨gal fun x => { x with rjob := some (wjob .idle [1]) }, 3, 7, wjob .idle [1], .B, by decide +kernel⟩

theorem meets_movedResponse_live : ∃ (s : State) (n : Wing) (g : GalIx) (j : WriteJob) (p : Plane), (s.chip.gal n g).rjob = some j ∧ j.order ≠ [] ∧ j.aborted = false ∧ (p = (if j.form = .live then otherPlane j.plane else j.plane)) ∧ s.chip.sourceOk n g p = false :=
  ⟨gal fun x => { x with rjob := some (wjob .live [1]) }, 3, 7, wjob .live [1], .A, by decide +kernel⟩

theorem meets_pass : ∃ (s : State) (n : Wing) (a : Fin 2) (ups : List CellUpset) (q : UCmd) (rest : List UCmd), ((s.chip.wing n).arr a).queue = q :: rest ∧ mOp q.words = 1 ∧ s.chip.arrayOn n a = true ∧ ((s.chip.wing n).arr a).trails q.words = false ∧ ((s.chip.wing n).arr a).passOk s.chip q.words = true ∧ (mStat q.words ≠ 1 ∨ ((s.chip.wing n).arr a).bg ≠ .loading) :=
  ⟨st ((up.setFlag (Reg.mxIdent 3 1) 8 true).modArr 3 1 fun x => { x with queue := [ucmd [1, 0x800000000000, 0, 0x1000000000000]] }), 3, 1, [], ucmd [1, 0x800000000000, 0, 0x1000000000000], [], by decide +kernel⟩

theorem meets_passProduct : ∃ (s : State) (n : Wing) (a : Fin 2) (q : UCmd) (rest : List UCmd) (x : Tile), ((s.chip.wing n).arr a).queue = q :: rest ∧ mOp q.words = 1 ∧ s.chip.arrayOn n a = true ∧ ((s.chip.wing n).arr a).trails q.words = false ∧ ((s.chip.wing n).arr a).passOk s.chip q.words = true ∧ mStat q.words = 0 ∧ mCount q.words = 1 ∧ mVwide q.words = false ∧ mAcc q.words = false ∧ ((s.chip.wing n).arr a).fg = some x ∧ x.fmt = 3 ∧ x.rows.length = 256 :=
  ⟨st ((up.setFlag (Reg.mxIdent 3 1) 8 true).modArr 3 1 fun x => { x with queue := [ucmd [1, 0x800000000000, 0, 0x1000000000000]], fg := some tile0 }), 3, 1, ucmd [1, 0x800000000000, 0, 0x1000000000000], [], tile0, by decide +kernel⟩

theorem meets_passWaits : ∃ (s : State) (n : Wing) (a : Fin 2) (ups : List CellUpset) (q : UCmd) (rest : List UCmd), ((s.chip.wing n).arr a).queue = q :: rest ∧ mOp q.words = 1 ∧ s.chip.arrayOn n a = true ∧ ((s.chip.wing n).arr a).trails q.words = false ∧ ((s.chip.wing n).arr a).passOk s.chip q.words = true ∧ mStat q.words = 1 ∧ ((s.chip.wing n).arr a).bg = .loading :=
  ⟨st ((up.setFlag (Reg.mxIdent 3 1) 8 true).modArr 3 1 fun x => { x with queue := [ucmd [0x11, 0x800000000000, 0, 0x1000000000000]], bg := .loading }), 3, 1, [], ucmd [0x11, 0x800000000000, 0, 0x1000000000000], [], by decide +kernel⟩

theorem meets_arrayBadOp_0 : ∃ (s : State) (n : Wing) (a : Fin 2) (i : Instr) (q : UCmd) (rest : List UCmd), (i = .pass n a [] ∨ i = .load n a ∨ i = .flush n a) ∧ ((s.chip.wing n).arr a).queue = q :: rest ∧ (mOp q.words = 0 ∨ 3 < mOp q.words) ∧ s.chip.arrayOn n a = true :=
  ⟨st ((up.setFlag (Reg.mxIdent 3 1) 8 true).modArr 3 1 fun x => { x with queue := [ucmd [0, 0, 0, 0x1000000000000]] }), 3, 1, .pass 3 1 [], ucmd [0, 0, 0, 0x1000000000000], [], .inl rfl, by decide +kernel⟩

theorem meets_arrayBadOp_1 : ∃ (s : State) (n : Wing) (a : Fin 2) (i : Instr) (q : UCmd) (rest : List UCmd), (i = .pass n a [] ∨ i = .load n a ∨ i = .flush n a) ∧ ((s.chip.wing n).arr a).queue = q :: rest ∧ (mOp q.words = 0 ∨ 3 < mOp q.words) ∧ s.chip.arrayOn n a = true :=
  ⟨st ((up.setFlag (Reg.mxIdent 3 1) 8 true).modArr 3 1 fun x => { x with queue := [ucmd [4, 0, 0, 0x1000000000000]] }), 3, 1, .load 3 1, ucmd [4, 0, 0, 0x1000000000000], [], .inr (.inl rfl), by decide +kernel⟩

theorem meets_arrayBadOp_2 : ∃ (s : State) (n : Wing) (a : Fin 2) (i : Instr) (q : UCmd) (rest : List UCmd), (i = .pass n a [] ∨ i = .load n a ∨ i = .flush n a) ∧ ((s.chip.wing n).arr a).queue = q :: rest ∧ (mOp q.words = 0 ∨ 3 < mOp q.words) ∧ s.chip.arrayOn n a = true :=
  ⟨st ((up.setFlag (Reg.mxIdent 3 1) 8 true).modArr 3 1 fun x => { x with queue := [ucmd [15, 0, 0, 0x1000000000000]] }), 3, 1, .flush 3 1, ucmd [15, 0, 0, 0x1000000000000], [], .inr (.inr rfl), by decide +kernel⟩

theorem meets_loadComplete : ∃ (s : State) (n : Wing) (a : Fin 2) (q : UCmd), ((s.chip.wing n).arr a).load = some q ∧ s.chip.arrayOn n a = true :=
  ⟨st ((up.setFlag (Reg.mxIdent 3 1) 8 true).modArr 3 1 fun x => { x with load := some (ucmd [0x32, 0, 0, 0x1000000000000]) }), 3, 1, ucmd [0x32, 0, 0, 0x1000000000000], by decide +kernel⟩

theorem meets_flushRaw : ∃ (s : State) (n : Wing) (a : Fin 2) (q : UCmd) (b : BankEntry) (m : Nat), ((s.chip.wing n).arr a).flush = some q ∧ s.chip.arrayOn n a = true ∧ mOutfmt q.words = 0 ∧ mCount q.words = 1 ∧ mTensor q.words = noTensor ∧ NMap.find ((s.chip.wing n).arr a).bank (mBase q.words) = some b ∧ b.accs.length = 257 ∧ s.chip.pairs = [] ∧ (∀ k < 4096, s.chip.region (mAddr q.words + k) = .wingStore m ∧ s.chip.home (mAddr q.words + k) = mAddr q.words + k) :=
  ⟨st ((up.setFlag (Reg.mxIdent 3 1) 8 true).modArr 3 1 fun x => { x with flush := some (ucmd [3, 0x40006000000, 0xFFFFFF, 0x1000000000000]), bank := [(0, bank0)] }), 3, 1, ucmd [3, 0x40006000000, 0xFFFFFF, 0x1000000000000], bank0, 3, by decide +kernel, by decide +kernel, (by decide +kernel), by decide +kernel, by decide +kernel, (by decide +kernel), by decide +kernel, by decide +kernel, store_plain _ 3 0x40006000000 4096 (by decide) (by decide) (by decide +kernel)⟩

theorem meets_arrayFenceWrite : ∃ (s : State) (w : Writer) (n : Wing) (a : Fin 2) (v : Word), s.chip.up = true ∧ s.chip.mayWrite w (Reg.mxIdent n a) = true :=
  ⟨st up, .host .A, 3, 1, 0x200, by decide +kernel⟩

theorem meets_arrayFenceWrite_off : ∃ (s : State) (w : Writer) (n : Wing) (a : Fin 2) (v : Word), s.chip.up = true ∧ s.chip.mayWrite w (Reg.mxIdent n a) = true :=
  ⟨st up, .host .A, 3, 1, 0, by decide +kernel⟩

theorem meets_vAdd : ∃ (s : State) (n : Wing) (r : VecRun) (w : Word), s.chip.VecAt n 0x8 r w :=
  ⟨vec 0x8, 3, vrun, 0x8, vec_at (by decide +kernel) (by decide +kernel) (by decide +kernel)⟩

theorem meets_vSub : ∃ (s : State) (n : Wing) (r : VecRun) (w : Word), s.chip.VecAt n 0x9 r w :=
  ⟨vec 0x9, 3, vrun, 0x9, vec_at (by decide +kernel) (by decide +kernel) (by decide +kernel)⟩

theorem meets_vMul : ∃ (s : State) (n : Wing) (r : VecRun) (w : Word), s.chip.VecAt n 0xA r w :=
  ⟨vec 0xA, 3, vrun, 0xA, vec_at (by decide +kernel) (by decide +kernel) (by decide +kernel)⟩

theorem meets_vMin : ∃ (s : State) (n : Wing) (r : VecRun) (w : Word), s.chip.VecAt n 0xB r w :=
  ⟨vec 0xB, 3, vrun, 0xB, vec_at (by decide +kernel) (by decide +kernel) (by decide +kernel)⟩

theorem meets_vMax : ∃ (s : State) (n : Wing) (r : VecRun) (w : Word), s.chip.VecAt n 0xC r w :=
  ⟨vec 0xC, 3, vrun, 0xC, vec_at (by decide +kernel) (by decide +kernel) (by decide +kernel)⟩

theorem meets_vDiv : ∃ (s : State) (n : Wing) (r : VecRun) (w : Word), s.chip.VecAt n 0x10 r w :=
  ⟨vec 0x110, 3, vrun, 0x110, vec_at (by decide +kernel) (by decide +kernel) (by decide +kernel)⟩

theorem meets_vAnd : ∃ (s : State) (n : Wing) (r : VecRun) (w : Word), s.chip.VecAt n 0x20 r w :=
  ⟨vec 0x420, 3, vrun, 0x420, vec_at (by decide +kernel) (by decide +kernel) (by decide +kernel)⟩

theorem meets_vOr : ∃ (s : State) (n : Wing) (r : VecRun) (w : Word), s.chip.VecAt n 0x21 r w :=
  ⟨vec 0x421, 3, vrun, 0x421, vec_at (by decide +kernel) (by decide +kernel) (by decide +kernel)⟩

theorem meets_vXor : ∃ (s : State) (n : Wing) (r : VecRun) (w : Word), s.chip.VecAt n 0x22 r w :=
  ⟨vec 0x422, 3, vrun, 0x422, vec_at (by decide +kernel) (by decide +kernel) (by decide +kernel)⟩

theorem meets_vMov : ∃ (s : State) (n : Wing) (r : VecRun) (w : Word), s.chip.VecAt n 0x1 r w :=
  ⟨vec 0x201, 3, vrun, 0x201, vec_at (by decide +kernel) (by decide +kernel) (by decide +kernel)⟩

theorem meets_vAbs : ∃ (s : State) (n : Wing) (r : VecRun) (w : Word), s.chip.VecAt n 0xD r w :=
  ⟨vec 0x20D, 3, vrun, 0x20D, vec_at (by decide +kernel) (by decide +kernel) (by decide +kernel)⟩

theorem meets_vNeg : ∃ (s : State) (n : Wing) (r : VecRun) (w : Word), s.chip.VecAt n 0xE r w :=
  ⟨vec 0x20E, 3, vrun, 0x20E, vec_at (by decide +kernel) (by decide +kernel) (by decide +kernel)⟩

theorem meets_vSqrt : ∃ (s : State) (n : Wing) (r : VecRun) (w : Word), s.chip.VecAt n 0x11 r w :=
  ⟨vec 0x111, 3, vrun, 0x111, vec_at (by decide +kernel) (by decide +kernel) (by decide +kernel)⟩

theorem meets_vExp2 : ∃ (s : State) (n : Wing) (r : VecRun) (w : Word), s.chip.VecAt n 0x12 r w :=
  ⟨vec 0x112, 3, vrun, 0x112, vec_at (by decide +kernel) (by decide +kernel) (by decide +kernel)⟩

theorem meets_vLog2 : ∃ (s : State) (n : Wing) (r : VecRun) (w : Word), s.chip.VecAt n 0x13 r w :=
  ⟨vec 0x113, 3, vrun, 0x113, vec_at (by decide +kernel) (by decide +kernel) (by decide +kernel)⟩

theorem meets_vShl : ∃ (s : State) (n : Wing) (r : VecRun) (w : Word), s.chip.VecAt n 0x23 r w :=
  ⟨vec 0x423, 3, vrun, 0x423, vec_at (by decide +kernel) (by decide +kernel) (by decide +kernel)⟩

theorem meets_vShr : ∃ (s : State) (n : Wing) (r : VecRun) (w : Word), s.chip.VecAt n 0x24 r w :=
  ⟨vec 0x424, 3, vrun, 0x424, vec_at (by decide +kernel) (by decide +kernel) (by decide +kernel)⟩

theorem meets_vCmpeq : ∃ (s : State) (n : Wing) (r : VecRun) (w : Word), s.chip.VecAt n 0x18 r w ∧ (s.chip.wing n).vec.m.length = 8 :=
  ⟨vec 0x218, 3, vrun, 0x218, vec_at (by decide +kernel) (by decide +kernel) (by decide +kernel), by decide +kernel⟩

theorem meets_vCmplt : ∃ (s : State) (n : Wing) (r : VecRun) (w : Word), s.chip.VecAt n 0x19 r w ∧ (s.chip.wing n).vec.m.length = 8 :=
  ⟨vec 0x219, 3, vrun, 0x219, vec_at (by decide +kernel) (by decide +kernel) (by decide +kernel), by decide +kernel⟩

theorem meets_vCmple : ∃ (s : State) (n : Wing) (r : VecRun) (w : Word), s.chip.VecAt n 0x1A r w ∧ (s.chip.wing n).vec.m.length = 8 :=
  ⟨vec 0x21A, 3, vrun, 0x21A, vec_at (by decide +kernel) (by decide +kernel) (by decide +kernel), by decide +kernel⟩

theorem meets_vSel : ∃ (s : State) (n : Wing) (r : VecRun) (w : Word), s.chip.VecAt n 0x1B r w :=
  ⟨vec 0x41B, 3, vrun, 0x41B, vec_at (by decide +kernel) (by decide +kernel) (by decide +kernel)⟩

theorem meets_vCvt : ∃ (s : State) (n : Wing) (r : VecRun) (w : Word), s.chip.VecAt n 0x28 r w ∧ (s.chip.cvtScaled n w → s.chip.histReady s.chip.censusStep = true) :=
  ⟨vec 0x228, 3, vrun, 0x228, vec_at (by decide +kernel) (by decide +kernel) (by decide +kernel), fun _ => by decide +kernel⟩

theorem meets_vVld : ∃ (s : State) (n : Wing) (r : VecRun) (w : Word) (a : Nat), s.chip.VecAt n 0x30 r w ∧ vImm w 2 2 = 0 ∧ s.chip.vTarget (s.chip.wing n).vec w = some a :=
  ⟨vecAt 0x30 0x40006002000, 3, vrun, 0x30, 0x40006002000, vec_at (by decide +kernel) (by decide +kernel) (by decide +kernel), by decide +kernel⟩

theorem meets_vVst : ∃ (s : State) (n : Wing) (r : VecRun) (w : Word) (a : Nat), s.chip.VecAt n 0x31 r w ∧ vImm w 2 2 = 0 ∧ s.chip.vTarget (s.chip.wing n).vec w = some a :=
  ⟨vecAt 0x31 0x41006070000, 3, vrun, 0x31, 0x41006070000, vec_at (by decide +kernel) (by decide +kernel) (by decide +kernel), by decide +kernel⟩

theorem meets_vSloop : ∃ (s : State) (n : Wing) (r : VecRun) (w : Word), s.chip.VecAt n 0x3D r w ∧ ((s.chip.wing n).vec.scal (vSr w) ≠ 1 → 0 ≤ (r.pc : Int) + sext 23 (vImm w 22 0)) :=
  ⟨vec 0x3D, 3, vrun, 0x3D, vec_at (by decide +kernel) (by decide +kernel) (by decide +kernel), by decide +kernel⟩

theorem meets_vSbr : ∃ (s : State) (n : Wing) (r : VecRun) (w : Word), s.chip.VecAt n 0x3E r w :=
  ⟨vec 0x3E, 3, vrun, 0x3E, vec_at (by decide +kernel) (by decide +kernel) (by decide +kernel)⟩

theorem meets_vectorCommand : ∃ (s : State) (n : Wing) (q : UCmd) (rest : List UCmd), (s.chip.wing n).vec.run = none ∧ (s.chip.wing n).vec.queue = q :: rest ∧ s.chip.inRun n = true ∧ s.chip.halted = false ∧ s.chip.vCmdOk n q.words = true :=
  ⟨wing fun x => { x with vec := { x.vec with queue := [ucmd [1, 0x40006000000, 0x40006001000, 0x1000000000000]] } }, 3, ucmd [1, 0x40006000000, 0x40006001000, 0x1000000000000], [], by decide +kernel⟩

theorem meets_vectorCommandBad : ∃ (s : State) (n : Wing) (q : UCmd) (rest : List UCmd), (s.chip.wing n).vec.run = none ∧ (s.chip.wing n).vec.queue = q :: rest ∧ s.chip.inRun n = true ∧ s.chip.halted = false ∧ s.chip.vCmdOk n q.words = false :=
  ⟨wing fun x => { x with vec := { x.vec with queue := [ucmd [2]] } }, 3, ucmd [2], [], by decide +kernel⟩

theorem meets_stateBytes : ∃ b : StateBlock, b.Fits :=
  ⟨{ e := -5, q := List.replicate 32 3, sig := 7, prev := List.replicate 32 true, zero := List.replicate 32 false }, ⟨by decide +kernel, by decide, by decide, by decide +kernel⟩⟩

theorem meets_signStepRule : ∃ (l decay : Nat) (smin smax : Int) (signs : List Int) (b : StateBlock), signs.length = 32 ∧ b.Fits ∧ smin ≤ smax :=
  ⟨3, 2, -4, 9, List.replicate 32 (-1), { e := -5, q := List.replicate 32 3, sig := 7, prev := List.replicate 32 true, zero := List.replicate 32 false }, by decide +kernel, ⟨by decide +kernel, by decide, by decide, by decide +kernel⟩, by decide +kernel⟩

theorem meets_flushWaits_3 : ∃ (s : State) (n : Wing) (a : Fin 2) (q : UCmd), ((s.chip.wing n).arr a).flush = some q ∧ s.chip.arrayOn n a = true ∧ (mOutfmt q.words = 3 ∨ mOutfmt q.words = 4 ∨ mOutfmt q.words = 9) ∧ s.chip.histReady s.chip.censusStep = false :=
  ⟨st (((({ up with step := { up.step with waitSteps := [4] } }.setFld Reg.censusStep 47 0 5).setFlag (Reg.mxIdent 3 1) 8 true)).modArr 3 1 fun x => { x with flush := some (ucmd [0x303, 0x40006000000, 0xFFFFFF, 0x1000000000000]) }), 3, 1, ucmd [0x303, 0x40006000000, 0xFFFFFF, 0x1000000000000], by decide +kernel⟩

theorem meets_flushWaits_4 : ∃ (s : State) (n : Wing) (a : Fin 2) (q : UCmd), ((s.chip.wing n).arr a).flush = some q ∧ s.chip.arrayOn n a = true ∧ (mOutfmt q.words = 3 ∨ mOutfmt q.words = 4 ∨ mOutfmt q.words = 9) ∧ s.chip.histReady s.chip.censusStep = false :=
  ⟨st (((({ up with step := { up.step with waitSteps := [4] } }.setFld Reg.censusStep 47 0 5).setFlag (Reg.mxIdent 3 1) 8 true)).modArr 3 1 fun x => { x with flush := some (ucmd [0x403, 0x40006000000, 0xFFFFFF, 0x1000000000000]) }), 3, 1, ucmd [0x403, 0x40006000000, 0xFFFFFF, 0x1000000000000], by decide +kernel⟩

theorem meets_flushWaits_9 : ∃ (s : State) (n : Wing) (a : Fin 2) (q : UCmd), ((s.chip.wing n).arr a).flush = some q ∧ s.chip.arrayOn n a = true ∧ (mOutfmt q.words = 3 ∨ mOutfmt q.words = 4 ∨ mOutfmt q.words = 9) ∧ s.chip.histReady s.chip.censusStep = false :=
  ⟨st (((({ up with step := { up.step with waitSteps := [4] } }.setFld Reg.censusStep 47 0 5).setFlag (Reg.mxIdent 3 1) 8 true)).modArr 3 1 fun x => { x with flush := some (ucmd [0x903, 0x40006000000, 0xFFFFFF, 0x1000000000000]) }), 3, 1, ucmd [0x903, 0x40006000000, 0xFFFFFF, 0x1000000000000], by decide +kernel⟩

theorem meets_vCvtWaits : ∃ (s : State) (n : Wing) (r : VecRun) (w : Word), s.chip.VecAt n 0x28 r w ∧ s.chip.good ∧ s.chip.cvtScaled n w ∧ s.chip.histReady s.chip.censusStep = false :=
  ⟨st ({ (vec 0x30000000028).chip with step := { up.step with waitSteps := [4] } }.setFld Reg.censusStep 47 0 5 |>.setFld Reg.censusShape 23 0 4 |>.modWing 3 fun x => { x with vec := { x.vec with cslots := [0] } }), 3, vrun, 0x30000000028, vec_at (by decide +kernel) (by decide +kernel) (by decide +kernel), good_of _ (by decide +kernel) (by decide +kernel), ⟨by decide +kernel, by decide +kernel⟩, by decide +kernel⟩

theorem meets_vCvt_scaled : ∃ (s : State) (n : Wing) (r : VecRun) (w : Word), s.chip.VecAt n 0x28 r w ∧ (s.chip.cvtScaled n w → s.chip.histReady s.chip.censusStep = true) :=
  ⟨st ({ (vec 0x30000000028).chip with step := { up.step with waitSteps := [5] } }.setFld Reg.censusStep 47 0 5 |>.setFld Reg.censusShape 23 0 4 |>.modWing 3 fun x => { x with vec := { x.vec with cslots := [0] } }), 3, vrun, 0x30000000028, vec_at (by decide +kernel) (by decide +kernel) (by decide +kernel), fun _ => by decide +kernel⟩

theorem meets_vVldTag : ∃ (s : State) (n : Wing) (r : VecRun) (w : Word) (a : Nat), s.chip.VecAt n 0x30 r w ∧ vImm w 2 2 = 1 ∧ r.wait = none ∧ s.chip.vTarget (s.chip.wing n).vec w = some a ∧ s.chip.pairs = [] ∧ s.chip.waits = [] ∧ (∀ k < vBytes w / 8, s.chip.home (a + 8 * k) = a + 8 * k ∧ s.chip.isFull (a + 8 * k) = true) :=
  ⟨st { (vecAt 0xC0000000030 0x40006002000).chip with full := (List.range 128).map fun k => (0x8000C00400 + k, true) }, 3, vrun, 0xC0000000030, 0x40006002000, vec_at (by decide +kernel) (by decide +kernel) (by decide +kernel), by decide +kernel⟩

theorem meets_vVstTag : ∃ (s : State) (n : Wing) (r : VecRun) (w : Word) (a : Nat), s.chip.VecAt n 0x31 r w ∧ vImm w 2 2 = 1 ∧ vImm w 1 0 = 0 ∧ vMask w = 0 ∧ r.wait = none ∧ s.chip.vTarget (s.chip.wing n).vec w = some a ∧ s.chip.pairs = [] ∧ s.chip.waits = [] ∧ (∀ k < 512, s.chip.home (a + 8 * k) = a + 8 * k ∧ s.chip.isFull (a + 8 * k) = false) :=
  ⟨vecAt 0x80000000031 0x40006002000, 3, vrun, 0x80000000031, 0x40006002000, vec_at (by decide +kernel) (by decide +kernel) (by decide +kernel), by decide +kernel, by decide +kernel, (by decide +kernel), by decide +kernel, by decide +kernel, (by decide +kernel), by decide +kernel, fun k hk => ⟨(store_plain _ 3 0x40006002000 4096 (by decide) (by decide) (by decide +kernel) (8 * k) (by omega)).2, none_full (by decide +kernel) _⟩⟩

theorem meets_updateBlock : ∃ (c : Chip) (base signs b m : Nat), c.tileFrozen (stateAddr base b) = false ∧ c.recErr = [] ∧ (∀ k < 80, c.region (stateAddr base b + k) = .localMem m ∧ c.home (stateAddr base b + k) = stateAddr base b + k) ∧ (∀ k < 8, c.region (signs + 8 * b + k) = .localMem m ∧ c.home (signs + 8 * b + k) = signs + 8 * b + k) :=
  ⟨up, 0x1000000000, 0x1000002000, 51, 1, by decide +kernel⟩

theorem meets_updateBlock_frozen : ∃ (c : Chip) (base b : Nat), c.tileFrozen (stateAddr base b) = true :=
  ⟨{ up with cat := [(100, { CatEntry.vacant with state := 1, lkind := 3, owner := 3, loc := 0x40006000000, frozen := true })] }, 0x40006000000, 0, by decide +kernel⟩

theorem meets_ld : ∃ (s : State) (n : Wing) (g : GalIx) (th : Thread) (i : DocIssue) (rd : Fin 32) (addr : Word) (size a : Nat) (r : Region), s.chip.mayDo n g th i ∧ 1 ≤ size ∧ size ≤ 8 ∧ s.chip.reach n g th addr size false = .mem a r ∧ (r.isStore = true ∨ ∃ p, r = .hostWin p) :=
  ⟨st (thr up), 3, 7, 4, ⟨4, false⟩, 5, 0x41006070000, 8, 0x41006070000, .galStore 3 7, ⟨by decide +kernel, rfl⟩, by decide +kernel, by decide +kernel, (by decide +kernel), .inl rfl⟩

theorem meets_ld_host : ∃ (s : State) (n : Wing) (g : GalIx) (th : Thread) (i : DocIssue) (rd : Fin 32) (addr : Word) (size a : Nat) (r : Region), s.chip.mayDo n g th i ∧ 1 ≤ size ∧ size ≤ 8 ∧ s.chip.reach n g th addr size false = .mem a r ∧ (r.isStore = true ∨ ∃ p, r = .hostWin p) :=
  ⟨st ((thr (up.setFld (Reg.hostWinSize 0) 29 0 16)).modThread 3 7 4 fun t => { t with priv := true }), 3, 7, 4, ⟨4, false⟩, 5, 0x80000000120, 8, 0x80000000120, .hostWin 0, ⟨by decide +kernel, rfl⟩, by decide +kernel, by decide +kernel, (by decide +kernel), .inr ⟨0, rfl⟩⟩

theorem meets_ldCached : ∃ (s : State) (n : Wing) (g : GalIx) (th : Thread) (i : DocIssue) (rd : Fin 32) (addr : Word) (size a m : Nat) (l : List Byte), s.chip.mayDo n g th i ∧ 1 ≤ size ∧ size ≤ 8 ∧ s.chip.reach n g th addr size false = .mem a (.localMem m) ∧ NMap.find (s.chip.gal n g).dcache (a / 64) = some l ∧ l.length = 64 :=
  ⟨st (thr ((up.modGal 3 7 fun x => { x with dcache := [(0x40000000, List.replicate 64 1)] }))), 3, 7, 4, ⟨4, false⟩, 5, 0x1000000000, 4, 0x1000000000, 1, List.replicate 64 1, ⟨by decide +kernel, rfl⟩, by decide +kernel⟩

theorem meets_ldMiss : ∃ (s : State) (n : Wing) (g : GalIx) (th : Thread) (i : DocIssue) (rd : Fin 32) (addr : Word) (size a m : Nat), s.chip.mayDo n g th i ∧ 1 ≤ size ∧ size ≤ 8 ∧ s.chip.reach n g th addr size false = .mem a (.localMem m) ∧ NMap.find (s.chip.gal n g).dcache (a / 64) = none :=
  ⟨st (thr up), 3, 7, 4, ⟨4, false⟩, 5, 0x1000000000, 4, 0x1000000000, 1, ⟨by decide +kernel, rfl⟩, by decide +kernel⟩

theorem meets_ldRegister : ∃ (s : State) (n : Wing) (g : GalIx) (th : Thread) (i : DocIssue) (rd : Fin 32) (addr : Word) (size a : Nat), s.chip.mayDo n g th i ∧ 1 ≤ size ∧ size ≤ 8 ∧ s.chip.reach n g th addr size false = .regs a :=
  ⟨st ((thr up).modThread 3 7 4 fun t => { t with priv := true }), 3, 7, 4, ⟨4, false⟩, 5, 0x50000000008, 8, 8, ⟨by decide +kernel, rfl⟩, by decide +kernel⟩

theorem meets_st : ∃ (s : State) (n : Wing) (g : GalIx) (th : Thread) (i : DocIssue) (rs : Fin 32) (addr : Word) (size a : Nat) (r : Region), s.chip.mayDo n g th i ∧ 1 ≤ size ∧ size ≤ 8 ∧ s.chip.reach n g th addr size false = .mem a r :=
  ⟨st (thr up), 3, 7, 4, ⟨4, false⟩, 5, 0x41006070000, 3, 0x41006070000, .galStore 3 7, ⟨by decide +kernel, rfl⟩, by decide +kernel⟩

theorem meets_st_cached : ∃ (s : State) (n : Wing) (g : GalIx) (th : Thread) (i : DocIssue) (rs : Fin 32) (addr : Word) (size a : Nat) (r : Region), s.chip.mayDo n g th i ∧ 1 ≤ size ∧ size ≤ 8 ∧ s.chip.reach n g th addr size false = .mem a r :=
  ⟨st ((thr ((up.modGal 3 7 fun x => { x with dcache := [(0x40000000, List.replicate 64 1)] })))), 3, 7, 4, ⟨4, false⟩, 5, 0x1000000000, 4, 0x1000000000, .localMem 1, ⟨by decide +kernel, rfl⟩, by decide +kernel⟩

theorem meets_st_pair : ∃ (s : State) (n : Wing) (g : GalIx) (th : Thread) (i : DocIssue) (rs : Fin 32) (addr : Word) (size a : Nat) (r : Region), s.chip.mayDo n g th i ∧ 1 ≤ size ∧ size ≤ 8 ∧ s.chip.reach n g th addr size false = .mem a r :=
  ⟨st ((thr run).setPair 3 9 { Pair.reset with en := true, task := some 2, buf := 4, word := 0x4000600000 }), 3, 7, 4, ⟨4, false⟩, 5, 0x40006000000, 8, 0x40006000000, .wingStore 3, ⟨by decide +kernel, rfl⟩, by decide +kernel⟩

theorem meets_stRegister : ∃ (s : State) (n : Wing) (g : GalIx) (th : Thread) (i : DocIssue) (rs : Fin 32) (addr : Word) (size a : Nat), s.chip.mayDo n g th i ∧ 1 ≤ size ∧ size ≤ 8 ∧ s.chip.reach n g th addr size false = .regs a :=
  ⟨st ((thr up).modThread 3 7 4 fun t => { t with priv := true }), 3, 7, 4, ⟨4, false⟩, 5, 0x50000000008, 8, 8, ⟨by decide +kernel, rfl⟩, by decide +kernel⟩

theorem meets_stRegister_mask : ∃ (s : State) (n : Wing) (g : GalIx) (th : Thread) (i : DocIssue) (rs : Fin 32) (addr : Word) (size a m : Nat), s.chip.mayDo n g th i ∧ size = 8 ∧ m < 16 ∧ s.chip.reach n g th addr size false = .regs a ∧ a = Reg.wingMask m ∧ s.chip.mayWrite .pendun a = true :=
  ⟨st ((thr up).modThread 3 7 4 fun t => { t with priv := true }), 3, 7, 4, ⟨4, false⟩, 5, w64 (0x50000000000 + Reg.wingMask 3), 8, Reg.wingMask 3, 3, ⟨by decide +kernel, rfl⟩, by decide +kernel⟩

theorem meets_accessFault : ∃ (s : State) (n : Wing) (g : GalIx) (th : Thread) (j : DocIssue) (r : Fin 32) (addr : Word) (size k : Nat) (i : Instr), s.chip.mayDo n g th j ∧ k < 4 ∧ ((1 ≤ size ∧ size ≤ 8 ∧ s.chip.reach n g th addr size false = .fault k ∧ (i = .ld n g th r addr size j ∨ i = .st n g th r addr size j)) ∨ (s.chip.reach n g th addr 8 true = .fault k ∧ (i = .ldf n g th r addr j ∨ i = .ldc n g th r addr j ∨ i = .stf n g th r addr j))) :=
  ⟨st (thr up), 3, 7, 4, ⟨4, false⟩, 5, 0x41006070001, 4, 1, .ld 3 7 4 5 0x41006070001 4 ⟨4, false⟩, ⟨by decide +kernel, rfl⟩, by decide +kernel, .inl ⟨by decide, by decide, by decide +kernel, .inl rfl⟩⟩

theorem meets_accessFault_tagged : ∃ (s : State) (n : Wing) (g : GalIx) (th : Thread) (j : DocIssue) (r : Fin 32) (addr : Word) (size k : Nat) (i : Instr), s.chip.mayDo n g th j ∧ k < 4 ∧ ((1 ≤ size ∧ size ≤ 8 ∧ s.chip.reach n g th addr size false = .fault k ∧ (i = .ld n g th r addr size j ∨ i = .st n g th r addr size j)) ∨ (s.chip.reach n g th addr 8 true = .fault k ∧ (i = .ldf n g th r addr j ∨ i = .ldc n g th r addr j ∨ i = .stf n g th r addr j))) :=
  ⟨st (thr up), 3, 7, 4, ⟨4, false⟩, 5, 0x50000000000, 8, 0, .stf 3 7 4 5 0x50000000000 ⟨4, false⟩, ⟨by decide +kernel, rfl⟩, by decide +kernel, .inr ⟨by decide +kernel, .inr (.inr rfl)⟩⟩

theorem meets_docentCacheError : ∃ (s : State) (n : Wing) (g : GalIx) (th : Thread) (i : DocIssue) (x : Instr), s.chip.mayIssue n g th (s.chip.clockNow i.clk) = true ∧ i.err = true ∧ Instr.ofDocent n g th i x :=
  ⟨st (thr (run.modGal 3 7 fun x => x)), 3, 7, 4, ⟨4, true⟩, .tick 3 7 4 5 ⟨4, true⟩, by decide +kernel, by decide +kernel, .inr (.inr (.inr (.inr (.inr (.inl ⟨_, rfl⟩)))))⟩

theorem meets_docentTurn : ∃ (s : State) (n : Wing) (g : GalIx) (th : Thread) (i : DocIssue) (x : Instr), Instr.ofDocent n g th i x ∧ (s.chip.eligible n g th = false ∨ (∃ k, NMap.find (s.chip.gal n g).issuedAt th = some k ∧ s.chip.clockNow i.clk < k + 4) ∨ (∃ k ∈ (s.chip.gal n g).ahead th, s.chip.eligibleAt n g k (s.chip.clockNow i.clk) = true)) :=
  ⟨st up, 3, 7, 4, ⟨4, false⟩, .exit 3 7 4 ⟨4, false⟩, .inr (.inr (.inr (.inr (.inr (.inr (.inr (.inr rfl))))))), .inl (by decide +kernel)⟩

theorem meets_docentTurn_spaced : ∃ (s : State) (n : Wing) (g : GalIx) (th : Thread) (i : DocIssue) (x : Instr), Instr.ofDocent n g th i x ∧ (s.chip.eligible n g th = false ∨ (∃ k, NMap.find (s.chip.gal n g).issuedAt th = some k ∧ s.chip.clockNow i.clk < k + 4) ∨ (∃ k ∈ (s.chip.gal n g).ahead th, s.chip.eligibleAt n g k (s.chip.clockNow i.clk) = true)) :=
  ⟨st ((thr up).modGal 3 7 fun x => { x with issuedAt := [(4, 1)] }), 3, 7, 4, ⟨4, false⟩, .exit 3 7 4 ⟨4, false⟩, .inr (.inr (.inr (.inr (.inr (.inr (.inr (.inr rfl))))))), .inr (.inl ⟨1, by decide +kernel, by decide +kernel⟩)⟩

theorem meets_docentTurn_round : ∃ (s : State) (n : Wing) (g : GalIx) (th : Thread) (i : DocIssue) (x : Instr), Instr.ofDocent n g th i x ∧ (s.chip.eligible n g th = false ∨ (∃ k, NMap.find (s.chip.gal n g).issuedAt th = some k ∧ s.chip.clockNow i.clk < k + 4) ∨ (∃ k ∈ (s.chip.gal n g).ahead th, s.chip.eligibleAt n g k (s.chip.clockNow i.clk) = true)) :=
  ⟨st ((thr up).modThread 3 7 2 fun t => { t with live := true }), 3, 7, 4, ⟨4, false⟩, .exit 3 7 4 ⟨4, false⟩, .inr (.inr (.inr (.inr (.inr (.inr (.inr (.inr rfl))))))), .inr (.inr ⟨2, by decide +kernel, by decide +kernel⟩)⟩

theorem meets_ldf : ∃ (s : State) (n : Wing) (g : GalIx) (th : Thread) (i : DocIssue) (rd : Fin 32) (addr : Word) (a : Nat) (r : Region), s.chip.mayDo n g th i ∧ s.chip.reach n g th addr 8 true = .mem a r ∧ s.chip.isFull (s.chip.home a) = true :=
  ⟨st ((thr up).setFull 0x41006070000 true), 3, 7, 4, ⟨4, false⟩, 5, 0x41006070000, 0x41006070000, .galStore 3 7, ⟨by decide +kernel, rfl⟩, by decide +kernel⟩

theorem meets_ldWaits : ∃ (s : State) (n : Wing) (g : GalIx) (th : Thread) (i : DocIssue) (rd : Fin 32) (addr : Word) (a : Nat) (r : Region) (consume : Bool), s.chip.mayDo n g th i ∧ s.chip.reach n g th addr 8 true = .mem a r ∧ s.chip.isFull (s.chip.home a) = false :=
  ⟨st (thr up), 3, 7, 4, ⟨4, false⟩, 5, 0x41006070000, 0x41006070000, .galStore 3 7, true, ⟨by decide +kernel, rfl⟩, by decide +kernel⟩

theorem meets_ldc : ∃ (s : State) (n : Wing) (g : GalIx) (th : Thread) (i : DocIssue) (rd : Fin 32) (addr : Word) (a : Nat) (r : Region), s.chip.mayDo n g th i ∧ s.chip.reach n g th addr 8 true = .mem a r ∧ s.chip.isFull (s.chip.home a) = true :=
  ⟨st ((thr up).setFull 0x41006070000 true), 3, 7, 4, ⟨4, false⟩, 5, 0x41006070000, 0x41006070000, .galStore 3 7, ⟨by decide +kernel, rfl⟩, by decide +kernel⟩

theorem meets_ldc_pair : ∃ (s : State) (n : Wing) (g : GalIx) (th : Thread) (i : DocIssue) (rd : Fin 32) (addr : Word) (a : Nat) (r : Region), s.chip.mayDo n g th i ∧ s.chip.reach n g th addr 8 true = .mem a r ∧ s.chip.isFull (s.chip.home a) = true :=
  ⟨st (((thr run).setPair 3 9 { Pair.reset with en := true, task := some 2, buf := 4, p := 3, c := 1, word := 0x4000600000 }).setFull 0x40006000000 true), 3, 7, 4, ⟨4, false⟩, 5, 0x40006000000, 0x40006000000, .wingStore 3, ⟨by decide +kernel, rfl⟩, by decide +kernel⟩

theorem meets_ldc_space : ∃ (s : State) (n : Wing) (g : GalIx) (th : Thread) (i : DocIssue) (rd : Fin 32) (addr : Word) (a : Nat) (r : Region), s.chip.mayDo n g th i ∧ s.chip.reach n g th addr 8 true = .mem a r ∧ s.chip.isFull (s.chip.home a) = true :=
  ⟨st (((thr run).setPair 3 9 { Pair.reset with en := true, task := some 2, buf := 4, p := 3, c := 1, word := 0x4000600000 }).setFull 0x40006000008 true), 3, 7, 4, ⟨4, false⟩, 5, 0x40006000008, 0x40006000008, .wingStore 3, ⟨by decide +kernel, rfl⟩, by decide +kernel⟩

theorem meets_stf : ∃ (s : State) (n : Wing) (g : GalIx) (th : Thread) (i : DocIssue) (rs : Fin 32) (addr : Word) (a : Nat) (r : Region), s.chip.mayDo n g th i ∧ s.chip.reach n g th addr 8 true = .mem a r :=
  ⟨st (thr up), 3, 7, 4, ⟨4, false⟩, 5, 0x41006070000, 0x41006070000, .galStore 3 7, ⟨by decide +kernel, rfl⟩, by decide +kernel⟩

theorem meets_stf_full : ∃ (s : State) (n : Wing) (g : GalIx) (th : Thread) (i : DocIssue) (rs : Fin 32) (addr : Word) (a : Nat) (r : Region), s.chip.mayDo n g th i ∧ s.chip.reach n g th addr 8 true = .mem a r :=
  ⟨st ((thr up).setFull 0x41006070000 true), 3, 7, 4, ⟨4, false⟩, 5, 0x41006070000, 0x41006070000, .galStore 3 7, ⟨by decide +kernel, rfl⟩, by decide +kernel⟩

theorem meets_stf_pair : ∃ (s : State) (n : Wing) (g : GalIx) (th : Thread) (i : DocIssue) (rs : Fin 32) (addr : Word) (a : Nat) (r : Region), s.chip.mayDo n g th i ∧ s.chip.reach n g th addr 8 true = .mem a r :=
  ⟨st ((thr run).setPair 3 9 { Pair.reset with en := true, task := some 2, buf := 4, p := 3, c := 1, word := 0x4000600000 }), 3, 7, 4, ⟨4, false⟩, 5, 0x40006000000, 0x40006000000, .wingStore 3, ⟨by decide +kernel, rfl⟩, by decide +kernel⟩

theorem meets_fence : ∃ (s : State) (n : Wing) (g : GalIx) (th : Thread) (i : DocIssue), s.chip.mayDo n g th i :=
  ⟨st (thr up), 3, 7, 4, ⟨4, false⟩, ⟨by decide +kernel, rfl⟩⟩

theorem meets_dinv : ∃ (s : State) (n : Wing) (g : GalIx) (th : Thread) (i : DocIssue) (addr : Word) (len : Nat), s.chip.mayDo n g th i :=
  ⟨st (thr (up.modGal 3 7 fun x => { x with dcache := [(0x40000000, List.replicate 64 1), (0x40000001, List.replicate 64 1)] })), 3, 7, 4, ⟨4, false⟩, 0x1000000000, 64, ⟨by decide +kernel, rfl⟩⟩

theorem meets_pref : ∃ (s : State) (n : Wing) (g : GalIx) (th : Thread) (i : DocIssue) (addr : Word), s.chip.mayDo n g th i :=
  ⟨st (thr up), 3, 7, 4, ⟨4, false⟩, 0x1000000000, ⟨by decide +kernel, rfl⟩⟩

theorem meets_cmd : ∃ (s : State) (n : Wing) (g : GalIx) (th : Thread) (i : DocIssue) (imm : BitVec 8) (rs : Fin 32) (clk m : Nat) (u : ArbUnit), s.chip.mayDo n g th i ∧ rs.val + 4 ≤ 32 ∧ imm.toNat % 8 ≠ 0 ∧ s.chip.cmdTarget n imm (s.chip.galTask n g) = some (m, u) :=
  ⟨st (thr up), 3, 7, 4, ⟨4, false⟩, 2, 28, 40, 3, .vec, ⟨by decide +kernel, rfl⟩, by decide +kernel⟩

theorem meets_cmdOwn : ∃ (s : State) (n : Wing) (g : GalIx) (th : Thread) (i : DocIssue) (imm : BitVec 8) (rs : Fin 32) (clk : Nat), s.chip.mayDo n g th i ∧ rs.val + 2 ≤ 32 ∧ imm.toNat % 8 = 0 :=
  ⟨st (thr up), 3, 7, 4, ⟨4, false⟩, 0, 28, 40, ⟨by decide +kernel, rfl⟩, by decide +kernel⟩

theorem meets_cmdOwn_last : ∃ (s : State) (n : Wing) (g : GalIx) (th : Thread) (i : DocIssue) (imm : BitVec 8) (rs : Fin 32) (clk : Nat), s.chip.mayDo n g th i ∧ rs.val + 2 ≤ 32 ∧ imm.toNat % 8 = 0 :=
  ⟨st (thr up), 3, 7, 4, ⟨4, false⟩, 0, 30, 40, ⟨by decide +kernel, rfl⟩, by decide +kernel⟩

theorem meets_cmdIllegal : ∃ (s : State) (n : Wing) (g : GalIx) (th : Thread) (i : DocIssue) (imm : BitVec 8) (rs : Fin 32) (clk : Nat), s.chip.mayDo n g th i ∧ (32 < rs.val + cmdLen imm ∨ (imm.toNat % 8 ≠ 0 ∧ s.chip.cmdTarget n imm (s.chip.galTask n g) = none)) :=
  ⟨st (thr up), 3, 7, 4, ⟨4, false⟩, 2, 29, 40, ⟨by decide +kernel, rfl⟩, .inl (by decide +kernel)⟩

theorem meets_cmdIllegal_kind : ∃ (s : State) (n : Wing) (g : GalIx) (th : Thread) (i : DocIssue) (imm : BitVec 8) (rs : Fin 32) (clk : Nat), s.chip.mayDo n g th i ∧ (32 < rs.val + cmdLen imm ∨ (imm.toNat % 8 ≠ 0 ∧ s.chip.cmdTarget n imm (s.chip.galTask n g) = none)) :=
  ⟨st (thr up), 3, 7, 4, ⟨4, false⟩, 4, 0, 40, ⟨by decide +kernel, rfl⟩, .inr ⟨by decide +kernel, by decide +kernel⟩⟩

theorem meets_tick : ∃ (s : State) (n : Wing) (g : GalIx) (th : Thread) (i : DocIssue) (rd : Fin 32), s.chip.mayDo n g th i :=
  ⟨st (thr up), 3, 7, 4, ⟨4, false⟩, 5, ⟨by decide +kernel, rfl⟩⟩

theorem meets_spawn : ∃ (s : State) (n : Wing) (g : GalIx) (th : Thread) (i : DocIssue) (rd : Fin 32) (addr : Word), s.chip.mayDo n g th i :=
  ⟨st (thr up), 3, 7, 4, ⟨4, false⟩, 5, 0x1000, ⟨by decide +kernel, rfl⟩⟩

theorem meets_exit : ∃ (s : State) (n : Wing) (g : GalIx) (th : Thread) (i : DocIssue), s.chip.mayDo n g th i :=
  ⟨st (thr up), 3, 7, 4, ⟨4, false⟩, ⟨by decide +kernel, rfl⟩⟩

theorem meets_copyBegins : ∃ (s : State) (n : Wing) (k : Fin 8) (j : DmaJob), s.chip.MayCopy n k j :=
  ⟨st (((up).modWing 3 fun x => { x with dma := [(5, { cmd := ucmd [0x80ffff0001, 0x40006000000, 0x40006001000, 0x1000000000000], xfer := 0, begun := false, moved := 0, written := false, waiting := false, held := none })] })), 3, 5, { cmd := ucmd [0x80ffff0001, 0x40006000000, 0x40006001000, 0x1000000000000], xfer := 0, begun := false, moved := 0, written := false, waiting := false, held := none }, by constructor <;> decide +kernel⟩

theorem meets_copy : ∃ (s : State) (n : Wing) (k : Fin 8) (j : DmaJob) (a b : Nat), s.chip.MayCopy n k j ∧ s.chip.isContrib j.cmd.words = false ∧ s.chip.sideOf (dSrc j.cmd.words) = .own a ∧ s.chip.sideOf (dDst j.cmd.words) = .own b ∧ dWait j.cmd.words = false ∧ dFill j.cmd.words = false :=
  ⟨st (((up).modWing 3 fun x => { x with dma := [(5, { cmd := ucmd [0x80ffff0001, 0x40006000000, 0x40006001000, 0x1000000000000], xfer := 0, begun := false, moved := 0, written := false, waiting := false, held := none })] })), 3, 5, { cmd := ucmd [0x80ffff0001, 0x40006000000, 0x40006001000, 0x1000000000000], xfer := 0, begun := false, moved := 0, written := false, waiting := false, held := none }, 0x40006000000, 0x40006001000, by constructor <;> decide +kernel, by decide +kernel⟩

theorem meets_copyTagged : ∃ (s : State) (n : Wing) (k : Fin 8) (j : DmaJob) (a b : Nat), s.chip.MayCopy n k j ∧ s.chip.isContrib j.cmd.words = false ∧ s.chip.sideOf (dSrc j.cmd.words) = .own a ∧ s.chip.sideOf (dDst j.cmd.words) = .own b ∧ (dWait j.cmd.words = true ∨ dFill j.cmd.words = true) ∧ s.chip.PlainRanges a b (dLen j.cmd.words) ∧ (∀ i < dLen j.cmd.words, (dWait j.cmd.words = true → s.chip.isFull (a + i) = true) ∧ (dFill j.cmd.words = true → s.chip.isFull (b + i) = false)) :=
  ⟨st ((({ up with full := (List.range 16).map fun k => (0x8000C00000 + k, true) }).modWing 3 fun x => { x with dma := [(5, { cmd := ucmd [0x80ffff0031, 0x40006000000, 0x40006001000, 0x1000000000000], xfer := 0, begun := false, moved := 0, written := false, waiting := false, held := none })] })), 3, 5, { cmd := ucmd [0x80ffff0031, 0x40006000000, 0x40006001000, 0x1000000000000], xfer := 0, begun := false, moved := 0, written := false, waiting := false, held := none }, 0x40006000000, 0x40006001000, by constructor <;> decide +kernel, by decide +kernel, by decide +kernel, (by decide +kernel), .inl (by decide +kernel), { good := good_of _ (by decide +kernel) (by decide +kernel), pairs := by decide +kernel, waits := by decide +kernel, apart := by decide +kernel, place := fun i hi => pair_plain _ 3 3 0x40006000000 0x40006001000 128 (by decide) (by decide) (by decide) (by decide) (by decide +kernel) (by decide +kernel) i hi }, by decide +kernel⟩

theorem meets_copyWaits : ∃ (s : State) (n : Wing) (k : Fin 8) (j : DmaJob) (a : Nat), s.chip.MayCopy n k j ∧ s.chip.isContrib j.cmd.words = false ∧ s.chip.sideOf (dSrc j.cmd.words) = .own a ∧ dWait j.cmd.words = true ∧ s.chip.isFull (s.chip.home a) = false :=
  ⟨st (((up).modWing 3 fun x => { x with dma := [(5, { cmd := ucmd [0x80ffff0021, 0x40006000000, 0x40006001000, 0x1000000000000], xfer := 0, begun := false, moved := 0, written := false, waiting := false, held := none })] })), 3, 5, { cmd := ucmd [0x80ffff0021, 0x40006000000, 0x40006001000, 0x1000000000000], xfer := 0, begun := false, moved := 0, written := false, waiting := false, held := none }, 0x40006000000, by constructor <;> decide +kernel, by decide +kernel⟩

theorem meets_copyFar : ∃ (s : State) (n : Wing) (k : Fin 8) (j : DmaJob) (a phys b : Nat), s.chip.MayCopy n k j ∧ s.chip.isContrib j.cmd.words = false ∧ s.chip.sideOf (dSrc j.cmd.words) = .own a ∧ s.chip.sideOf (dDst j.cmd.words) = .far phys b ∧ dWait j.cmd.words = false ∧ s.chip.flag (Reg.linkRoute phys) 16 = true ∧ phys < 4096 ∧ j.xfer < 2 ^ 24 ∧ (∀ i < dLen j.cmd.words, s.chip.home (a + i) = a + i ∧ (s.chip.region (a + i)).isStore = true) :=
  ⟨st ((((up.setFlag (Reg.linkRoute 9) 16 true).setFlag (Reg.linkXlate 2) 16 true |>.setFld (Reg.linkXlate 2) 11 0 9).modWing 3 fun x => { x with dma := [(5, { cmd := ucmd [0x80ffff0001, 0x40006000000, 0x240006000000, 0x1000000000000], xfer := 0, begun := false, moved := 0, written := false, waiting := false, held := none })] })), 3, 5, { cmd := ucmd [0x80ffff0001, 0x40006000000, 0x240006000000, 0x1000000000000], xfer := 0, begun := false, moved := 0, written := false, waiting := false, held := none }, 0x40006000000, 9, 0x40006000000, by constructor <;> decide +kernel, by decide +kernel, by decide +kernel, (by decide +kernel), by decide +kernel, by decide +kernel, (by decide +kernel), by decide +kernel, fun i hi => ⟨(store_plain _ 3 0x40006000000 128 (by decide) (by decide) (by decide +kernel) i hi).2, (congrArg Region.isStore (store_plain _ 3 0x40006000000 128 (by decide) (by decide) (by decide +kernel) i hi).1).trans rfl⟩⟩

theorem meets_copyRemote : ∃ (s : State) (n : Wing) (k : Fin 8) (j : DmaJob) (phys a b : Nat), s.chip.MayCopy n k j ∧ s.chip.sideOf (dSrc j.cmd.words) = .far phys a ∧ s.chip.sideOf (dDst j.cmd.words) = .own b ∧ s.chip.flag (Reg.linkRoute phys) 16 = true ∧ phys < 4096 ∧ j.xfer < 2 ^ 24 :=
  ⟨st ((((up.setFlag (Reg.linkRoute 9) 16 true).setFlag (Reg.linkXlate 2) 16 true |>.setFld (Reg.linkXlate 2) 11 0 9).modWing 3 fun x => { x with dma := [(5, { cmd := ucmd [0x80ffff0001, 0x240006000000, 0x40006000000, 0x1000000000000], xfer := 0, begun := false, moved := 0, written := false, waiting := false, held := none })] })), 3, 5, { cmd := ucmd [0x80ffff0001, 0x240006000000, 0x40006000000, 0x1000000000000], xfer := 0, begun := false, moved := 0, written := false, waiting := false, held := none }, 9, 0x40006000000, 0x40006000000, by constructor <;> decide +kernel, by decide +kernel⟩

theorem meets_copyContribution : ∃ (s : State) (n : Wing) (k : Fin 8) (j : DmaJob) (a b : Nat) (e : GradEntry), s.chip.MayCopy n k j ∧ s.chip.isContrib j.cmd.words = true ∧ s.chip.sideOf (dSrc j.cmd.words) = .own a ∧ s.chip.sideOf (dDst j.cmd.words) = .own b ∧ dFill j.cmd.words = false ∧ s.chip.gradFor a (dLen j.cmd.words) = some e :=
  ⟨st ((((((up.setFld (Reg.memAnnex 3) 43 16 0x300000).setFld (Reg.memAnnexSize 3) 18 0 1).setFld Reg.stepGtab 43 4 0x4000600000 |>.setFld Reg.stepGtabLen 23 0 1 |>.setWord 0x40006000000 (w64 (0x300000 + 2 ^ 56)))).modWing 3 fun x => { x with dma := [(5, { cmd := ucmd [0x80ffff0001, 0x3000000000, 0x40006001000, 0x1000000000000], xfer := 0, begun := false, moved := 0, written := false, waiting := false, held := none })] })), 3, 5, { cmd := ucmd [0x80ffff0001, 0x3000000000, 0x40006001000, 0x1000000000000], xfer := 0, begun := false, moved := 0, written := false, waiting := false, held := none }, 0x3000000000, 0x40006001000, { start := 0x3000000000, blocks := 1, round := 0, tensor := 0, elem0 := 0 }, by constructor <;> decide +kernel, by decide +kernel⟩

theorem meets_copyBad : ∃ (s : State) (n : Wing) (k : Fin 8) (j : DmaJob), NMap.find (s.chip.wing n).dma k = some j ∧ s.chip.halted = false ∧ j.waiting = false ∧ j.written = false ∧ j.begun = false ∧ s.chip.jobTurn n j = true ∧ s.chip.dmaOk j.cmd.words = false :=
  ⟨st (((up).modWing 3 fun x => { x with dma := [(5, { cmd := ucmd [0xFFFF0002, 0, 0, 0], xfer := 0, begun := false, moved := 0, written := false, waiting := false, held := none })] })), 3, 5, { cmd := ucmd [0xFFFF0002, 0, 0, 0], xfer := 0, begun := false, moved := 0, written := false, waiting := false, held := none }, by decide +kernel⟩

theorem meets_copyTurn : ∃ (s : State) (n : Wing) (k : Fin 8) (j : DmaJob), NMap.find (s.chip.wing n).dma k = some j ∧ j.begun = false ∧ s.chip.jobTurn n j = false :=
  ⟨st (((up).modWing 3 fun x => { x with dma := [(5, { cmd := ucmd [0x80ffff0001, 0x40006000000, 0x40006001000, 0x1000000000000], xfer := 1, begun := false, moved := 0, written := false, waiting := false, held := none }), (6, { cmd := ucmd [0x80ffff0001, 0x40006000000, 0x40006001000, 0x1000000000000], xfer := 0, begun := false, moved := 0, written := false, waiting := false, held := none })] })), 3, 5, { cmd := ucmd [0x80ffff0001, 0x40006000000, 0x40006001000, 0x1000000000000], xfer := 1, begun := false, moved := 0, written := false, waiting := false, held := none }, by decide +kernel⟩

theorem meets_transferSignal : ∃ (s : State) (n : Wing) (k : Fin 8) (j : DmaJob), NMap.find (s.chip.wing n).dma k = some j ∧ j.written = true ∧ s.chip.halted = false ∧ s.chip.fillsWait j.cmd.words = false :=
  ⟨st (((up).modWing 3 fun x => { x with dma := [(5, { cmd := ucmd [0x80ffff0001, 0x40006000000, 0x40006001000, 0x1000000000000], xfer := 0, begun := true, moved := 0, written := true, waiting := false, held := none })] })), 3, 5, { cmd := ucmd [0x80ffff0001, 0x40006000000, 0x40006001000, 0x1000000000000], xfer := 0, begun := true, moved := 0, written := true, waiting := false, held := none }, by decide +kernel⟩

theorem meets_transferSignal_signal : ∃ (s : State) (n : Wing) (k : Fin 8) (j : DmaJob), NMap.find (s.chip.wing n).dma k = some j ∧ j.written = true ∧ s.chip.halted = false ∧ s.chip.fillsWait j.cmd.words = false :=
  ⟨st (((run.setPair 3 9 { Pair.reset with en := true, task := some 2, buf := 4, word := 0x4100607000 }).modWing 3 fun x => { x with dma := [(5, { cmd := ucmd [0x8030090001, 0x40006000000, 0x40006001000, 0x1000000000000], xfer := 0, begun := true, moved := 0, written := true, waiting := false, held := none })] })), 3, 5, { cmd := ucmd [0x8030090001, 0x40006000000, 0x40006001000, 0x1000000000000], xfer := 0, begun := true, moved := 0, written := true, waiting := false, held := none }, by decide +kernel⟩

theorem meets_consume : ∃ (s : State) (w : Writer) (n : Wing) (v : Word) (i : Nat), s.chip.up = true ∧ s.chip.mayWrite w (Reg.ledgerOp n) = true ∧ s.chip.selPair n = i ∧ i ≠ 4095 ∧ wbits v 15 0 ≠ 0 ∧ s.chip.PairAt n i :=
  ⟨st ((run.setFld (Reg.ledgerIndex 3) 11 0 9).setPair 3 9 { Pair.reset with en := true, task := some 2, buf := 4, p := 3, c := 1, word := 0x4100607000 }), .host .A, 3, 5, 9, by decide +kernel, by decide +kernel, (by decide +kernel), by decide +kernel, by decide +kernel, by constructor <;> decide +kernel⟩

theorem meets_tagWaitResend : ∃ (s : State) (w : Wait) (n g th rd : Nat), s.chip.resends = [w] ∧ w.issuer = .thread n g th rd ∧ w.kind = .read ∧ s.chip.isFull w.addr = true :=
  ⟨st { (up.setFull 0x41006070000 true) with resends := [{ addr := 0x41006070000, issuer := .thread 3 7 4 5, kind := .read, value := 0, pars := [], since := 0, task := none }] }, { addr := 0x41006070000, issuer := .thread 3 7 4 5, kind := .read, value := 0, pars := [], since := 0, task := none }, 3, 7, 4, 5, by decide +kernel⟩

theorem meets_tagWaitResend_empty : ∃ (s : State) (w : Wait), s.chip.resends = [w] ∧ w.kind = .read ∧ s.chip.isFull w.addr = false :=
  ⟨st { up with resends := [{ addr := 0x41006070000, issuer := .thread 3 7 4 5, kind := .read, value := 0, pars := [], since := 0, task := none }] }, { addr := 0x41006070000, issuer := .thread 3 7 4 5, kind := .read, value := 0, pars := [], since := 0, task := none }, by decide +kernel⟩

theorem meets_fillOverrun : ∃ (s : State) (word : Nat) (w : Wait), s.chip.isFull (s.chip.home word) = true ∧ (((s.chip.waits ++ s.chip.resends).find? fun x => decide (x.kind = .fill ∧ x.addr / 8 = s.chip.home word / 8 ∧ x.since + 2 ≤ s.chip.tick.edges)) = some w) :=
  ⟨st { (up.setFull 0x41006070000 true) with waits := [{ addr := 0x41006070000, issuer := .thread 3 7 4 5, kind := .fill, value := 0, pars := [], since := 0, task := none }], tick := { up.tick with edges := 2 } }, 0x41006070000, { addr := 0x41006070000, issuer := .thread 3 7 4 5, kind := .fill, value := 0, pars := [], since := 0, task := none }, by decide +kernel⟩

theorem meets_queueTake : ∃ (s : State) (q : Fin 64), s.chip.up = true ∧ (s.chip.queue q).length ≤ 256 :=
  ⟨st up, 16, by decide +kernel⟩

theorem meets_queueTake_held : ∃ (s : State) (q : Fin 64), s.chip.up = true ∧ (s.chip.queue q).length ≤ 256 :=
  ⟨st { up.setQueue 16 [7, 8] with putWait := [(16, 9)] }, 16, by decide +kernel⟩

theorem meets_allocation : ∃ (s : State) (r : AllocReq), s.chip.running r.task = true ∧ (s.chip.tryAlloc r).isSome = true ∧ r.qclass < 8 ∧ (∀ i ∈ (s.chip.vacantIx r.task).take r.blocks, validIx i = true) :=
  ⟨st (run.setFld (Reg.quota 16) 23 0 1), { task := 2, qclass := 0, blocks := 1, kind := 3, owner := 3, askWing := 3, askGal := 7, askThread := 4 }, by decide +kernel⟩

theorem meets_allocation_local : ∃ (s : State) (r : AllocReq), s.chip.running r.task = true ∧ (s.chip.tryAlloc r).isSome = true ∧ r.qclass < 8 ∧ (∀ i ∈ (s.chip.vacantIx r.task).take r.blocks, validIx i = true) :=
  ⟨st (run.setFld (Reg.quota 16) 23 0 1), { task := 2, qclass := 0, blocks := 1, kind := 4, owner := 3, askWing := 3, askGal := 7, askThread := 4 }, by decide +kernel⟩

theorem meets_allocationWaits : ∃ (s : State) (r : AllocReq), s.chip.running r.task = true ∧ s.chip.tryAlloc r = none :=
  ⟨st run, { task := 2, qclass := 0, blocks := 1, kind := 3, owner := 3, askWing := 3, askGal := 7, askThread := 4 }, by decide +kernel⟩

theorem meets_pendingAdmit : ∃ (s : State) (x : TaskSt) (r : AllocReq), s.chip.tasks = [(r.task.val, x)] ∧ x.pendAlloc = [r] ∧ (s.chip.tryAlloc r).isSome = true ∧ r.qclass < 8 ∧ (∀ i ∈ (s.chip.vacantIx r.task).take r.blocks, validIx i = true) :=
  ⟨st ((up.setTask 2 { job .running with pendAlloc := [{ task := 2, qclass := 0, blocks := 1, kind := 3, owner := 3, askWing := 3, askGal := 7, askThread := 4 }] }).setFld (Reg.quota 16) 23 0 1), { job .running with pendAlloc := [{ task := 2, qclass := 0, blocks := 1, kind := 3, owner := 3, askWing := 3, askGal := 7, askThread := 4 }] }, { task := 2, qclass := 0, blocks := 1, kind := 3, owner := 3, askWing := 3, askGal := 7, askThread := 4 }, by decide +kernel⟩

theorem meets_pendingAdmit_stays : ∃ (s : State) (x : TaskSt) (r : AllocReq), s.chip.tasks = [(r.task.val, x)] ∧ x.pendAlloc = [r] ∧ s.chip.tryAlloc r = none :=
  ⟨st (up.setTask 2 { job .running with pendAlloc := [{ task := 2, qclass := 0, blocks := 1, kind := 3, owner := 3, askWing := 3, askGal := 7, askThread := 4 }] }), { job .running with pendAlloc := [{ task := 2, qclass := 0, blocks := 1, kind := 3, owner := 3, askWing := 3, askGal := 7, askThread := 4 }] }, { task := 2, qclass := 0, blocks := 1, kind := 3, owner := 3, askWing := 3, askGal := 7, askThread := 4 }, by decide +kernel⟩

theorem meets_pinned : ∃ (s : State) (w : Writer) (i : Nat) (b : Bool), s.chip.up = true ∧ s.chip.mayWrite w Reg.regOp = true ∧ validIx i = true ∧ s.chip.opEntry i = true :=
  ⟨st { run with cat := [(100, { CatEntry.vacant with state := 1 })] }, .host .A, 100, true, by decide +kernel⟩

theorem meets_pinned_later : ∃ (s : State) (w : Writer) (i : Nat) (b : Bool), s.chip.up = true ∧ s.chip.mayWrite w Reg.regOp = true ∧ validIx i = true ∧ s.chip.opEntry i = true :=
  ⟨st { { run with cat := [(100, { CatEntry.vacant with state := 1 })] } with pinDue := [(100, true)] }, .host .A, 100, false, by decide +kernel⟩

theorem meets_bump : ∃ (s : State) (w : Writer) (i : Nat), s.chip.up = true ∧ s.chip.mayWrite w Reg.regOp = true ∧ validIx i = true ∧ s.chip.opEntry i = true :=
  ⟨st { run with cat := [(100, { CatEntry.vacant with state := 1 })] }, .host .A, 100, by decide +kernel⟩

theorem meets_conflictNotice : ∃ (s : State) (n : Wing) (g : GalIx) (w : Word) (rest : List Word), s.chip.queue n = w :: rest ∧ isNotice 0 g w = true ∧ (s.chip.gal n g).conflict = true ∧ (s.chip.queue n).length ≤ 256 :=
  ⟨st ((up.modGal 3 7 fun x => { x with conflict := true }).setQueue 3 [consNotice 0 7 0, 5]), 3, 7, consNotice 0 7 0, [5], rfl, by simp [isNotice], by decide +kernel⟩

theorem meets_conflictOver : ∃ (s : State) (n : Wing) (g : GalIx) (w : Word) (rest : List Word), s.chip.queue n = w :: rest ∧ isNotice 0 g w = true ∧ (s.chip.gal n g).conflict = false ∧ (s.chip.queue n).length ≤ 256 :=
  ⟨st (up.setQueue 3 [consNotice 0 7 0, 5]), 3, 7, consNotice 0 7 0, [5], rfl, by simp [isNotice], by decide +kernel⟩

theorem meets_galleryRedirect : ∃ (s : State) (n : Wing) (g : GalIx) (m : Move) (q k : Nat), s.chip.move = some m ∧ m.wing = n.val ∧ m.gal = g.val ∧ m.tile = none ∧ m.pausedAt.isSome = true ∧ s.chip.freeGallery n = some q ∧ q ≠ g.val ∧ s.chip.canMoveRole n g = true ∧ (((s.chip.gal n g).mvms.all fun v => v.ended) = true) ∧ k < 8 ∧ ((s.chip.flag (Reg.gredir n k) 32 = true ∧ s.chip.fld (Reg.gredir n k) 8 0 = s.chip.roleOf n g ∧ ∀ j < k, s.chip.flag (Reg.gredir n j) 32 = true → s.chip.fld (Reg.gredir n j) 8 0 ≠ s.chip.roleOf n g) ∨ (s.chip.freeRedirect n = some k ∧ ∀ j < 8, s.chip.flag (Reg.gredir n j) 32 = true → s.chip.fld (Reg.gredir n j) 8 0 ≠ s.chip.roleOf n g)) :=
  ⟨st { up with move := some { wing := 3, gal := 7, tile := none, blk := 0, pausedAt := some 0, conflict := true } }, 3, 7, { wing := 3, gal := 7, tile := none, blk := 0, pausedAt := some 0, conflict := true }, 0, 0, by decide +kernel, by decide +kernel, (by decide +kernel), by decide +kernel, by decide +kernel, (by decide +kernel), by decide +kernel, by decide +kernel, (by decide +kernel), by decide +kernel, .inr ⟨by decide +kernel, by decide +kernel⟩⟩

theorem meets_galleryRedirect_again : ∃ (s : State) (n : Wing) (g : GalIx) (m : Move) (q k : Nat), s.chip.move = some m ∧ m.wing = n.val ∧ m.gal = g.val ∧ m.tile = none ∧ m.pausedAt.isSome = true ∧ s.chip.freeGallery n = some q ∧ q ≠ g.val ∧ s.chip.canMoveRole n g = true ∧ (((s.chip.gal n g).mvms.all fun v => v.ended) = true) ∧ k < 8 ∧ ((s.chip.flag (Reg.gredir n k) 32 = true ∧ s.chip.fld (Reg.gredir n k) 8 0 = s.chip.roleOf n g ∧ ∀ j < k, s.chip.flag (Reg.gredir n j) 32 = true → s.chip.fld (Reg.gredir n j) 8 0 ≠ s.chip.roleOf n g) ∨ (s.chip.freeRedirect n = some k ∧ ∀ j < 8, s.chip.flag (Reg.gredir n j) 32 = true → s.chip.fld (Reg.gredir n j) 8 0 ≠ s.chip.roleOf n g)) :=
  ⟨st { up.wr (Reg.gredir 3 0) (w64 (7 + 9 * 2 ^ 16 + 2 ^ 32)) with move := some { wing := 3, gal := 9, tile := none, blk := 0, pausedAt := some 0, conflict := true } }, 3, 9, { wing := 3, gal := 9, tile := none, blk := 0, pausedAt := some 0, conflict := true }, 0, 0, by decide +kernel, by decide +kernel, (by decide +kernel), by decide +kernel, by decide +kernel, (by decide +kernel), by decide +kernel, by decide +kernel, (by decide +kernel), by decide +kernel, .inl ⟨by decide +kernel, by decide +kernel, by decide +kernel⟩⟩

theorem meets_blockRedirect : ∃ (s : State) (i : Nat) (m : Move) (k b : Nat), s.chip.move = some m ∧ m.tile = some i ∧ m.pausedAt.isSome = true ∧ s.chip.redirectFor (s.chip.region m.blk).wing (m.blk / 0x10000) = some k ∧ s.chip.freeBlock (s.chip.catNow i).lkind (s.chip.catNow i).owner = some b ∧ s.chip.canMoveBlock i m.blk = true ∧ (∀ v, s.chip.taskOfTile i = some v → s.chip.inFlight v = false) ∧ validIx i = true :=
  ⟨st { up with move := some { wing := 3, gal := 7, tile := some 100, blk := 0x40006000000, pausedAt := some 0, conflict := false }, cat := [(100, { CatEntry.vacant with state := 1, lkind := 3, owner := 3, loc := 0x40006000000 })] }, 100, { wing := 3, gal := 7, tile := some 100, blk := 0x40006000000, pausedAt := some 0, conflict := false }, 0, 0x40006010000, by decide +kernel, by decide +kernel, (by decide +kernel), by decide +kernel, by decide +kernel, (by decide +kernel), fun v h => by revert h; exact (fun h : (none : Option Nat) = some v => nomatch h), by decide +kernel⟩

theorem meets_lend : ∃ (s : State) (k : Slot) (i : Nat) (e : PlanEntry), s.chip.PlanAt k i 1 e ∧ (¬ s.chip.planBars 1 e.tile) :=
  ⟨st (planned 1 ({ CatEntry.vacant with state := 1, lkind := 3, owner := 3, loc := 0x40006010000 })), 2, 0, { tick := 0, act := 1, tile := 100, addr := 0x40006000000, lead := 0 }, by constructor <;> decide +kernel, by unfold Chip.planBars; decide +kernel⟩

theorem meets_lend_gallery : ∃ (s : State) (k : Slot) (i : Nat) (e : PlanEntry), s.chip.PlanAt k i 1 e ∧ (¬ s.chip.planBars 1 e.tile) :=
  ⟨st (planned 1 ({ CatEntry.vacant with state := 1, lkind := 2, owner := 3, loc := 0x41006070000 })), 2, 0, { tick := 0, act := 1, tile := 100, addr := 0x40006000000, lead := 0 }, by constructor <;> decide +kernel, by unfold Chip.planBars; decide +kernel⟩

theorem meets_planSkipped_1 : ∃ (s : State) (k : Slot) (i act : Nat) (e : PlanEntry) (x : Instr), s.chip.PlanAt k i act e ∧ s.chip.planBars act e.tile ∧ (act = 1 ∧ x = .lend k i ∨ act = 2 ∧ x = .returnTile k i ∨ act = 3 ∧ x = .prefetch k i) :=
  ⟨st (planned 1 ({ CatEntry.vacant with state := 1, lkind := 3, owner := 3, loc := 0x40006010000, pinned := true })), 2, 0, 1, { tick := 0, act := 1, tile := 100, addr := 0x40006000000, lead := 0 }, .lend 2 0, by constructor <;> decide +kernel, by unfold Chip.planBars; decide +kernel, .inl ⟨rfl, rfl⟩⟩

theorem meets_planSkipped_2 : ∃ (s : State) (k : Slot) (i act : Nat) (e : PlanEntry) (x : Instr), s.chip.PlanAt k i act e ∧ s.chip.planBars act e.tile ∧ (act = 1 ∧ x = .lend k i ∨ act = 2 ∧ x = .returnTile k i ∨ act = 3 ∧ x = .prefetch k i) :=
  ⟨st (planned 2 ({ CatEntry.vacant with state := 1, lkind := 1, owner := 3, loc := 0x40006010000 })), 2, 0, 2, { tick := 0, act := 2, tile := 100, addr := 0x40006000000, lead := 0 }, .returnTile 2 0, by constructor <;> decide +kernel, by unfold Chip.planBars; decide +kernel, .inr (.inl ⟨rfl, rfl⟩)⟩

theorem meets_planSkipped_3 : ∃ (s : State) (k : Slot) (i act : Nat) (e : PlanEntry) (x : Instr), s.chip.PlanAt k i act e ∧ s.chip.planBars act e.tile ∧ (act = 1 ∧ x = .lend k i ∨ act = 2 ∧ x = .returnTile k i ∨ act = 3 ∧ x = .prefetch k i) :=
  ⟨st (planned 3 ({ CatEntry.vacant with state := 1, lkind := 1, owner := 3, loc := 0x40006010000 })), 2, 0, 3, { tick := 0, act := 3, tile := 100, addr := 0x40006000000, lead := 0 }, .prefetch 2 0, by constructor <;> decide +kernel, by unfold Chip.planBars; decide +kernel, .inr (.inr ⟨rfl, rfl⟩)⟩

theorem meets_lendStale_first : ∃ (s : State) (k : Slot) (i : Nat) (e : PlanEntry) (r : PlanRun), s.chip.planEntry k i = some e ∧ NMap.find (s.chip.task k).plans i = some r ∧ r.act = 1 ∧ r.complete = false ∧ s.chip.planMoved r = true :=
  ⟨st ((planned 1 ({ CatEntry.vacant with state := 1, lkind := 3, owner := 3, loc := 0x40006010000 })).modTask 2 fun x => { x with plans := [(0, { act := 1, tile := 100, gen := 1, retried := false, complete := false, watched := false, late := false })] }), 2, 0, { tick := 0, act := 1, tile := 100, addr := 0x40006000000, lead := 0 }, { act := 1, tile := 100, gen := 1, retried := false, complete := false, watched := false, late := false }, by decide +kernel⟩

theorem meets_lendStale : ∃ (s : State) (k : Slot) (i : Nat) (e : PlanEntry) (r : PlanRun), s.chip.planEntry k i = some e ∧ NMap.find (s.chip.task k).plans i = some r ∧ r.act = 1 ∧ r.complete = false ∧ s.chip.planMoved r = true :=
  ⟨st ((planned 1 ({ CatEntry.vacant with state := 1, lkind := 3, owner := 3, loc := 0x40006010000 })).modTask 2 fun x => { x with plans := [(0, { act := 1, tile := 100, gen := 1, retried := true, complete := false, watched := false, late := false })] }), 2, 0, { tick := 0, act := 1, tile := 100, addr := 0x40006000000, lead := 0 }, { act := 1, tile := 100, gen := 1, retried := true, complete := false, watched := false, late := false }, by decide +kernel⟩

theorem meets_returnTile : ∃ (s : State) (k : Slot) (i : Nat) (e : PlanEntry), s.chip.PlanAt k i 2 e ∧ (¬ s.chip.planBars 2 e.tile) :=
  ⟨st (planned 2 ({ CatEntry.vacant with state := 1, lkind := 3, owner := 3, loc := 0x40006010000 })), 2, 0, { tick := 0, act := 2, tile := 100, addr := 0x40006000000, lead := 0 }, by constructor <;> decide +kernel, by unfold Chip.planBars; decide +kernel⟩

theorem meets_returnCopyDone : ∃ (s : State) (k : Slot) (i : Nat) (e : PlanEntry) (r : PlanRun), s.chip.planEntry k i = some e ∧ NMap.find (s.chip.task k).plans i = some r ∧ r.act = 2 ∧ r.complete = false :=
  ⟨st ((planned 2 ({ CatEntry.vacant with state := 1, lkind := 3, owner := 3, loc := 0x40006010000 })).modTask 2 fun x => { x with plans := [(0, { act := 2, tile := 100, gen := 0, retried := false, complete := false, watched := false, late := false })] }), 2, 0, { tick := 0, act := 2, tile := 100, addr := 0x40006000000, lead := 0 }, { act := 2, tile := 100, gen := 0, retried := false, complete := false, watched := false, late := false }, by decide +kernel⟩

theorem meets_returnCopyDone_late : ∃ (s : State) (k : Slot) (i : Nat) (e : PlanEntry) (r : PlanRun), s.chip.planEntry k i = some e ∧ NMap.find (s.chip.task k).plans i = some r ∧ r.act = 2 ∧ r.complete = false ∧ r.late = true ∧ validIx r.tile = true ∧ (s.chip.catNow r.tile).state = 4 ∧ (s.chip.catNow r.tile).lkind = 5 :=
  ⟨st ((planned 2 { CatEntry.vacant with state := 4, lkind := 5, owner := 3, loc := 0x80000000000 }).modTask 2 fun x => { x with plans := [(0, { act := 2, tile := 100, gen := 0, retried := false, complete := false, watched := false, late := true })] }), 2, 0, { tick := 0, act := 2, tile := 100, addr := 0x40006000000, lead := 0 }, { act := 2, tile := 100, gen := 0, retried := false, complete := false, watched := false, late := true }, by decide +kernel⟩

theorem meets_prefetch : ∃ (s : State) (k : Slot) (i : Nat) (e : PlanEntry), s.chip.PlanAt k i 3 e ∧ (¬ s.chip.planBars 3 e.tile) :=
  ⟨st (planned 3 ({ CatEntry.vacant with state := 1, lkind := 3, owner := 3, loc := 0x40006010000 })), 2, 0, { tick := 0, act := 3, tile := 100, addr := 0x40006000000, lead := 0 }, by constructor <;> decide +kernel, by unfold Chip.planBars; decide +kernel⟩

theorem meets_prefetchCheck : ∃ (s : State) (k : Slot) (i : Nat) (e : PlanEntry) (r : PlanRun), s.chip.planEntry k i = some e ∧ NMap.find (s.chip.task k).plans i = some r ∧ r.act = 3 ∧ r.late = false ∧ s.chip.elapsed k % s.chip.cycle k = e.tick ∧ s.chip.planMoved r = false :=
  ⟨st ((planned 3 ({ CatEntry.vacant with state := 1, lkind := 3, owner := 3, loc := 0x40006010000 })).modTask 2 fun x => { x with plans := [(0, { act := 3, tile := 100, gen := 0, retried := false, complete := true, watched := false, late := false })] }), 2, 0, { tick := 0, act := 3, tile := 100, addr := 0x40006000000, lead := 0 }, { act := 3, tile := 100, gen := 0, retried := false, complete := true, watched := false, late := false }, by decide +kernel⟩

theorem meets_prefetchCheck_open : ∃ (s : State) (k : Slot) (i : Nat) (e : PlanEntry) (r : PlanRun), s.chip.planEntry k i = some e ∧ NMap.find (s.chip.task k).plans i = some r ∧ r.act = 3 ∧ r.late = false ∧ s.chip.elapsed k % s.chip.cycle k = e.tick ∧ s.chip.planMoved r = false :=
  ⟨st ((planned 3 ({ CatEntry.vacant with state := 1, lkind := 3, owner := 3, loc := 0x40006010000 })).modTask 2 fun x => { x with plans := [(0, { act := 3, tile := 100, gen := 0, retried := false, complete := false, watched := false, late := false })] }), 2, 0, { tick := 0, act := 3, tile := 100, addr := 0x40006000000, lead := 0 }, { act := 3, tile := 100, gen := 0, retried := false, complete := false, watched := false, late := false }, by decide +kernel⟩

theorem meets_prefetchCopyDone : ∃ (s : State) (k : Slot) (i : Nat) (e : PlanEntry) (r : PlanRun), s.chip.planEntry k i = some e ∧ NMap.find (s.chip.task k).plans i = some r ∧ r.act = 3 ∧ r.complete = false :=
  ⟨st ((planned 3 ({ CatEntry.vacant with state := 1, lkind := 3, owner := 3, loc := 0x40006010000 })).modTask 2 fun x => { x with plans := [(0, { act := 3, tile := 100, gen := 0, retried := false, complete := false, watched := false, late := false })] }), 2, 0, { tick := 0, act := 3, tile := 100, addr := 0x40006000000, lead := 0 }, { act := 3, tile := 100, gen := 0, retried := false, complete := false, watched := false, late := false }, by decide +kernel⟩

theorem meets_prefetchCopyDone_late : ∃ (s : State) (k : Slot) (i : Nat) (e : PlanEntry) (r : PlanRun), s.chip.planEntry k i = some e ∧ NMap.find (s.chip.task k).plans i = some r ∧ r.act = 3 ∧ r.complete = false ∧ r.late = true ∧ (r.retried && s.chip.planMoved r) = false :=
  ⟨st ((planned 3 ({ CatEntry.vacant with state := 1, lkind := 3, owner := 3, loc := 0x40006010000 })).modTask 2 fun x => { x with plans := [(0, { act := 3, tile := 100, gen := 0, retried := false, complete := false, watched := false, late := true })] }), 2, 0, { tick := 0, act := 3, tile := 100, addr := 0x40006000000, lead := 0 }, { act := 3, tile := 100, gen := 0, retried := false, complete := false, watched := false, late := true }, by decide +kernel⟩

theorem meets_prefetchCopyDone_stale : ∃ (s : State) (k : Slot) (i : Nat) (e : PlanEntry) (r : PlanRun), s.chip.planEntry k i = some e ∧ NMap.find (s.chip.task k).plans i = some r ∧ r.act = 3 ∧ r.complete = false ∧ r.late = true ∧ (r.retried && s.chip.planMoved r) = true :=
  ⟨st ((planned 3 ({ CatEntry.vacant with state := 1, lkind := 3, owner := 3, loc := 0x40006010000 })).modTask 2 fun x => { x with plans := [(0, { act := 3, tile := 100, gen := 1, retried := true, complete := false, watched := false, late := true })] }), 2, 0, { tick := 0, act := 3, tile := 100, addr := 0x40006000000, lead := 0 }, { act := 3, tile := 100, gen := 1, retried := true, complete := false, watched := false, late := true }, by decide +kernel⟩

theorem meets_memSlotGrant : ∃ (s : State) (n : Wing) (arrivals : List MemReq), s.chip.up = true :=
  ⟨wing fun x => { x with memSlots := (List.range 63).map fun k => { cls := 1, due := 0, line := 8 * k, kind := .read } }, 3, [{ cls := 1, due := 5, line := 0, kind := .read }, { cls := 1, due := 4, line := 1, kind := .read }], by decide +kernel⟩

theorem meets_memRead : ∃ (s : State) (n : Wing) (l l' : Nat) (us : List Upset), s.chip.up = true ∧ lineOk l = true ∧ lineOk l' = true :=
  ⟨st up, 3, 5, 5, [], by decide +kernel⟩

theorem meets_memRead_upset : ∃ (s : State) (n : Wing) (l l' : Nat) (us : List Upset), s.chip.up = true ∧ lineOk l = true ∧ lineOk l' = true :=
  ⟨st up, 3, 5, 4, [{ symbol := 3, diff := 1 }, { symbol := 9, diff := 7 }], by decide +kernel⟩

theorem meets_memReadCorrected : ∃ (s : State) (n : Wing) (l : Nat) (u : Upset), s.chip.up = true ∧ lineOk l = true ∧ s.chip.lineBad n l = false ∧ u.symbol < 34 ∧ u.diff ≠ 0 :=
  ⟨st up, 3, 5, { symbol := 33, diff := 1 }, by decide +kernel⟩

theorem meets_memReadCorrected_wb : ∃ (s : State) (n : Wing) (l : Nat) (u : Upset), s.chip.up = true ∧ lineOk l = true ∧ s.chip.lineBad n l = false ∧ u.symbol < 34 ∧ u.diff ≠ 0 :=
  ⟨st (up.setFlag (Reg.memCfg 3) 8 true), 3, 5, { symbol := 0, diff := 0x8000 }, by decide +kernel⟩

theorem meets_memWrite : ∃ (s : State) (n : Wing) (l off : Nat) (data : List Byte), s.chip.up = true ∧ lineOk l = true ∧ 0 < data.length ∧ off + data.length ≤ 64 ∧ s.chip.inAnnex n (stackBase n + l * 64) = false :=
  ⟨st up, 3, 5, 63, [1], by decide +kernel⟩

theorem meets_memWrite_line : ∃ (s : State) (n : Wing) (l off : Nat) (data : List Byte), s.chip.up = true ∧ lineOk l = true ∧ 0 < data.length ∧ off + data.length ≤ 64 ∧ s.chip.inAnnex n (stackBase n + l * 64) = false :=
  ⟨st up, 3, 5, 0, List.replicate 64 7, by decide +kernel⟩

theorem meets_memWrite_bad : ∃ (s : State) (n : Wing) (l off : Nat) (data : List Byte), s.chip.up = true ∧ lineOk l = true ∧ 0 < data.length ∧ off + data.length ≤ 64 ∧ s.chip.inAnnex n (stackBase n + l * 64) = false :=
  ⟨st { up with recErr := [(64 * (3 * 2 ^ 30 + 5) + 1, 1), (64 * (3 * 2 ^ 30 + 5) + 2, 5)] }, 3, 5, 63, [1], by decide +kernel⟩

theorem meets_accumulateStore : ∃ (s : State) (n : Wing) (l tensor : Nat) (adds : List (Option Lane)), s.chip.up = true ∧ lineOk l = true ∧ s.chip.inAnnex n (stackBase n + l * 64) = true ∧ ((s.chip.wing n).drops n { cls := 1, due := 0, line := l, kind := .accumulate } = false ∨ ((s.chip.wing n).memSlots.any fun r => decide (r.line = l ∧ r.kind = .accumulate)) = true) :=
  ⟨st ((up.setFld (Reg.memAnnex 3) 43 16 0x300000).setFld (Reg.memAnnexSize 3) 18 0 1), 3, 0, noTensor, [some 5, none, some 0xFFFFFFFF], by decide +kernel, by decide +kernel, (by decide +kernel), .inl (by decide +kernel)⟩

theorem meets_accumulateStore_slot : ∃ (s : State) (n : Wing) (l tensor : Nat) (adds : List (Option Lane)), s.chip.up = true ∧ lineOk l = true ∧ s.chip.inAnnex n (stackBase n + l * 64) = true ∧ ((s.chip.wing n).drops n { cls := 1, due := 0, line := l, kind := .accumulate } = false ∨ ((s.chip.wing n).memSlots.any fun r => decide (r.line = l ∧ r.kind = .accumulate)) = true) :=
  ⟨st (((up.setFld (Reg.memAnnex 3) 43 16 0x300000).setFld (Reg.memAnnexSize 3) 18 0 1).modWing 3 fun x => { x with frozen := [(0x300000, true)], memSlots := [{ cls := 1, due := 0, line := 0, kind := .accumulate }] }), 3, 0, noTensor, [some 5], by decide +kernel, by decide +kernel, (by decide +kernel), .inr (by decide +kernel)⟩

theorem meets_accumulateFrozen : ∃ (s : State) (n : Wing) (l tensor : Nat) (adds : List (Option Lane)), s.chip.up = true ∧ lineOk l = true ∧ s.chip.inAnnex n (stackBase n + l * 64) = true ∧ (s.chip.wing n).drops n { cls := 1, due := 0, line := l, kind := .accumulate } = true ∧ (((s.chip.wing n).memSlots.any fun r => decide (r.line = l ∧ r.kind = .accumulate)) = false) :=
  ⟨st (((up.setFld (Reg.memAnnex 3) 43 16 0x300000).setFld (Reg.memAnnexSize 3) 18 0 1).modWing 3 fun x => { x with frozen := [(0x300000, true)] }), 3, 0, 6, [], by decide +kernel⟩

theorem meets_drainingRead : ∃ (s : State) (n : Wing) (l : Nat), s.chip.up = true ∧ lineOk l = true ∧ s.chip.inAnnex n (stackBase n + l * 64) = true :=
  ⟨st ((up.setFld (Reg.memAnnex 3) 43 16 0x300000).setFld (Reg.memAnnexSize 3) 18 0 1), 3, 1023, by decide +kernel⟩

theorem meets_scrubRead : ∃ (s : State) (n : Wing) (l : Nat) (us : List Upset), s.chip.up = true ∧ lineOk l = true ∧ s.chip.fld (Reg.memCfg n) 7 0 ≠ 0 :=
  ⟨st (up.setFld (Reg.memCfg 3) 7 0 24), 3, 5, [{ symbol := 0, diff := 0x8000 }], by decide +kernel⟩

theorem meets_scrubRead_ue : ∃ (s : State) (n : Wing) (l : Nat) (us : List Upset), s.chip.up = true ∧ lineOk l = true ∧ s.chip.fld (Reg.memCfg n) 7 0 ≠ 0 ∧ (s.chip.layUpsets n l us).lineFails n l l ∧ s.chip.tileAt (s.chip.nameOf (stackBase n + l * 64)) = none :=
  ⟨st (up.setFld (Reg.memCfg 3) 7 0 24), 3, 5, [{ symbol := 0, diff := 1 }, { symbol := 4, diff := 6 }], by decide +kernel, by decide +kernel, (by decide +kernel), .inl (by decide +kernel), by decide +kernel⟩

theorem meets_annexClearWrite : ∃ (s : State) (w : Writer) (n : Wing) (v : Word), s.chip.up = true ∧ s.chip.mayWrite w (Reg.memAnnexCtrl n) = true :=
  ⟨st up, .host .A, 3, 1, by decide +kernel⟩

theorem meets_annexClearWrite_loaded : ∃ (s : State) (w : Writer) (n : Wing) (v : Word), s.chip.up = true ∧ s.chip.mayWrite w (Reg.memAnnexCtrl n) = true :=
  ⟨st run, .host .A, 3, 1, by decide +kernel⟩

theorem meets_contributionHeader : ∃ (s : State) (a m : Nat) (hdr : List Word), s.chip.up = true ∧ s.chip.region a = .wingStore m ∧ a % 64 = 0 ∧ hdr.length = 8 :=
  ⟨st up, 0x40006000000, 3, [0x1000000000000, 0, 0, 0, 0, 0, 0, 0], by decide +kernel⟩

theorem meets_contributionHeader_bad : ∃ (s : State) (a m : Nat) (hdr : List Word), s.chip.up = true ∧ s.chip.region a = .wingStore m ∧ a % 64 = 0 ∧ hdr.length = 8 :=
  ⟨st up, 0x40006000000, 3, [0x102000000000001, 0, 0, 0, 0, 0, 0, 0], by decide +kernel⟩

theorem meets_voteSubmit : ∃ (s : State), s.chip.trainTask.isSome = true ∧ s.chip.step.voted = false ∧ s.chip.halted = false ∧ s.chip.fld Reg.stepCount 31 0 = s.chip.fld Reg.stepExpect 31 0 ∧ s.chip.fld Reg.stepCount 63 32 = s.chip.fld Reg.stepExpect 63 32 :=
  ⟨st { (up.setTask 2 { job .running with img := some { img with training := true, parts := 1 } }) with step := { up.step with censusTask := some 2 } }, by decide +kernel⟩

theorem meets_outcomeDecide_0 : ∃ (s : State) (v : VoteRec), s.chip.step.combined = some v :=
  ⟨st { up with step := { up.step with combined := some { least := 4, greatest := 5, poison := false, refuse := false } } }, { least := 4, greatest := 5, poison := false, refuse := false }, by decide +kernel⟩

theorem meets_outcomeDecide_1 : ∃ (s : State) (v : VoteRec), s.chip.step.combined = some v :=
  ⟨st { up with step := { up.step with combined := some { least := 4, greatest := 4, poison := true, refuse := false } } }, { least := 4, greatest := 4, poison := true, refuse := false }, by decide +kernel⟩

theorem meets_outcomeDecide_2 : ∃ (s : State) (v : VoteRec), s.chip.step.combined = some v :=
  ⟨st { up with step := { up.step with combined := some { least := 4, greatest := 4, poison := false, refuse := false } } }, { least := 4, greatest := 4, poison := false, refuse := false }, by decide +kernel⟩

theorem meets_outcomeDecide_3 : ∃ (s : State) (v : VoteRec), s.chip.step.combined = some v :=
  ⟨st { up with step := { up.step with combined := some { least := 4, greatest := 4, poison := true, refuse := true } } }, { least := 4, greatest := 4, poison := true, refuse := true }, by decide +kernel⟩

theorem meets_frameReceive : ∃ (s : State) (n : Wing) (a : Fin 2) (x : PortSt) (bytes : List Byte) (w : Nat → List Nat × Nat) (h : Nat), (s.chip.wing n).port a = x ∧ 1 ≤ s.chip.portState n a ∧ s.chip.portState n a ≤ 3 ∧ x.locked = true ∧ frameDecodes bytes w ∧ frameCrc (frameInfo w) ∧ h = ofLeBytes (((frameInfo w).drop 1024).take 12) ∧ bits h 11 0 = x.rxSeq ∧ x.credits.length = 7 ∧ x.lastCred.length = 7 ∧ (bit h 24 = true → ∀ f ∈ ackFrames (bits h 23 12) x.replay, f.resends < 8) :=
  ⟨port lock, 3, 1, lock, buildFrame (List.replicate 1024 0) (List.replicate 12 0), fun k => (codeword (buildFrame (List.replicate 1024 0) (List.replicate 12 0)) k, 0), 0, by decide +kernel, by decide +kernel, (by decide +kernel), by decide +kernel, ⟨by decide +kernel, by decide +kernel⟩, by unfold frameCrc; decide +kernel, by decide +kernel, by decide +kernel, (by decide +kernel), by decide +kernel, fun h => nomatch h⟩

theorem meets_frameBad : ∃ (s : State) (n : Wing) (a : Fin 2) (x : PortSt) (bytes : List Byte), (s.chip.wing n).port a = x ∧ 1 ≤ s.chip.portState n a ∧ s.chip.portState n a ≤ 3 ∧ x.locked = true ∧ bytes.length = 1088 ∧ (∃ k < 8, rsDecode (codeword bytes k) = none) :=
  ⟨port lock, 3, 1, lock, ((List.range 1088).map fun i => if codewordOf i = 0 ∧ i < 64 then 1 else 0), by decide +kernel, by decide +kernel, (by decide +kernel), by decide +kernel, by decide +kernel, ⟨0, by decide, by decide +kernel⟩⟩

theorem meets_frameDropped : ∃ (s : State) (n : Wing) (a : Fin 2) (x : PortSt) (bytes : List Byte) (w : Nat → List Nat × Nat), (s.chip.wing n).port a = x ∧ 1 ≤ s.chip.portState n a ∧ s.chip.portState n a ≤ 3 ∧ x.locked = true ∧ frameDecodes bytes w ∧ (frameCrc (frameInfo w) → bits (ofLeBytes (((frameInfo w).drop 1024).take 12)) 11 0 ≠ x.rxSeq) :=
  ⟨port { lock with rxSeq := 5 }, 3, 1, { lock with rxSeq := 5 }, buildFrame (List.replicate 1024 0) (List.replicate 12 0), fun k => (codeword (buildFrame (List.replicate 1024 0) (List.replicate 12 0)) k, 0), by decide +kernel, by decide +kernel, (by decide +kernel), by decide +kernel, ⟨by decide +kernel, by decide +kernel⟩, fun _ => by decide +kernel⟩

theorem meets_frameDropped_crc : ∃ (s : State) (n : Wing) (a : Fin 2) (x : PortSt) (bytes : List Byte) (w : Nat → List Nat × Nat), (s.chip.wing n).port a = x ∧ 1 ≤ s.chip.portState n a ∧ s.chip.portState n a ≤ 3 ∧ x.locked = true ∧ frameDecodes bytes w ∧ (frameCrc (frameInfo w) → bits (ofLeBytes (((frameInfo w).drop 1024).take 12)) 11 0 ≠ x.rxSeq) :=
  ⟨port lock, 3, 1, lock, List.replicate 1088 0, fun _ => (List.replicate 136 0, 0), by decide +kernel, by decide +kernel, (by decide +kernel), by decide +kernel, ⟨by decide +kernel, by decide +kernel⟩, by unfold frameCrc; decide +kernel⟩

theorem meets_linkFault : ∃ (s : State) (n : Wing) (a : Fin 2) (i : Instr), ((s.chip.wing n).port a).faults (s.chip.portState n a) n a i :=
  ⟨port { lock with replay := [{ seq := 7, units := [], credit := [], resends := 8 }] }, 3, 1, .replayTimeout 3 1, .inl ⟨rfl, by decide +kernel, _, List.mem_singleton_self _, by decide⟩⟩

theorem meets_linkFault_frame : ∃ (s : State) (n : Wing) (a : Fin 2) (i : Instr), ((s.chip.wing n).port a).faults (s.chip.portState n a) n a i :=
  ⟨port { lock with resend := [7], replay := [{ seq := 7, units := [], credit := [], resends := 8 }] }, 3, 1, .frameSend 3 1, .inr (.inl ⟨rfl, by decide +kernel, rfl, rfl, 7, [], _, rfl, rfl, by decide⟩)⟩

theorem meets_linkFault_retrain : ∃ (s : State) (n : Wing) (a : Fin 2) (i : Instr), ((s.chip.wing n).port a).faults (s.chip.portState n a) n a i :=
  ⟨port { lock with retrain := 2 }, 3, 1, .portRetrainDone 3 1 false, .inr (.inr (.inl ⟨rfl, by decide +kernel⟩))⟩

theorem meets_linkFault_resend : ∃ (s : State) (n : Wing) (a : Fin 2) (i : Instr), ((s.chip.wing n).port a).faults (s.chip.portState n a) n a i :=
  ⟨port { lock with retrain := 1, replay := [{ seq := 7, units := [], credit := [], resends := 8 }] }, 3, 1, .portRetrainDone 3 1 true, .inr (.inr (.inr ⟨rfl, by decide, _, List.mem_singleton_self _, by decide⟩))⟩

theorem meets_portRetrainDone : ∃ (s : State) (n : Wing) (a : Fin 2) (ok : Bool) (x : PortSt), (s.chip.wing n).port a = x ∧ x.retrain ≠ 0 ∧ (ok = true → ∀ h ∈ x.replay, h.resends < 8) ∧ (ok = false → x.retrain = 1) :=
  ⟨port { lock with retrain := 1, replay := [{ seq := 7, units := [], credit := [], resends := 7 }] }, 3, 1, true, { lock with retrain := 1, replay := [{ seq := 7, units := [], credit := [], resends := 7 }] }, by decide +kernel⟩

theorem meets_portRetrainDone_first : ∃ (s : State) (n : Wing) (a : Fin 2) (ok : Bool) (x : PortSt), (s.chip.wing n).port a = x ∧ x.retrain ≠ 0 ∧ (ok = true → ∀ h ∈ x.replay, h.resends < 8) ∧ (ok = false → x.retrain = 1) :=
  ⟨port { lock with retrain := 1, replay := [{ seq := 7, units := [], credit := [], resends := 7 }] }, 3, 1, false, { lock with retrain := 1, replay := [{ seq := 7, units := [], credit := [], resends := 7 }] }, by decide +kernel⟩

theorem meets_portBringup : ∃ (s : State) (n : Wing) (a : Fin 2) (lanes : BitVec 8), s.chip.up = true ∧ s.chip.flag (Reg.bxCfg n a) 0 = true ∧ (s.chip.portState n a = 0 ∨ (s.chip.portState n a = 4 ∧ s.chip.anyLoaded = false)) :=
  ⟨st ((up.setFlag (Reg.bxCfg 3 1) 0 true).setFlag (Reg.bxCfg 3 1) 4 true), 3, 1, 0xFF, by decide +kernel, by decide +kernel, .inl (by decide +kernel)⟩

theorem meets_portBringup_lower : ∃ (s : State) (n : Wing) (a : Fin 2) (lanes : BitVec 8), s.chip.up = true ∧ s.chip.flag (Reg.bxCfg n a) 0 = true ∧ (s.chip.portState n a = 0 ∨ (s.chip.portState n a = 4 ∧ s.chip.anyLoaded = false)) :=
  ⟨st ((up.setFlag (Reg.bxCfg 3 1) 0 true).setFlag (Reg.bxCfg 3 1) 4 true), 3, 1, 0x0F, by decide +kernel, by decide +kernel, .inl (by decide +kernel)⟩

theorem meets_portBringup_upper : ∃ (s : State) (n : Wing) (a : Fin 2) (lanes : BitVec 8), s.chip.up = true ∧ s.chip.flag (Reg.bxCfg n a) 0 = true ∧ (s.chip.portState n a = 0 ∨ (s.chip.portState n a = 4 ∧ s.chip.anyLoaded = false)) :=
  ⟨st ((up.setFlag (Reg.bxCfg 3 1) 0 true).setFlag (Reg.bxCfg 3 1) 4 true), 3, 1, 0xF7, by decide +kernel, by decide +kernel, .inl (by decide +kernel)⟩

theorem meets_portBringup_fault : ∃ (s : State) (n : Wing) (a : Fin 2) (lanes : BitVec 8), s.chip.up = true ∧ s.chip.flag (Reg.bxCfg n a) 0 = true ∧ (s.chip.portState n a = 0 ∨ (s.chip.portState n a = 4 ∧ s.chip.anyLoaded = false)) :=
  ⟨st ((up.setFlag (Reg.bxCfg 3 1) 0 true).setPortState 3 1 4), 3, 1, 0xFF, by decide +kernel, by decide +kernel, .inr (by decide +kernel)⟩

theorem meets_portWake : ∃ (s : State) (n : Wing) (a : Fin 2) (x : PortSt), (s.chip.wing n).port a = x ∧ s.chip.portState n a = 3 ∧ x.txq ≠ [] ∧ x.waking = false :=
  ⟨st ((port { lock with txq := [{ vl := 0, dclass := 0, pkt := idleUnitPkt }] }).chip.setPortState 3 1 3), 3, 1, { lock with txq := [{ vl := 0, dclass := 0, pkt := idleUnitPkt }] }, by decide +kernel⟩

theorem meets_portWake_far : ∃ (s : State) (n : Wing) (a : Fin 2) (x : PortSt), (s.chip.wing n).port a = x ∧ s.chip.portState n a = 2 ∧ x.farLp = true ∧ x.txq ≠ [] ∧ x.waking = false :=
  ⟨port { lock with farLp := true, txq := [{ vl := 0, dclass := 0, pkt := idleUnitPkt }] }, 3, 1, { lock with farLp := true, txq := [{ vl := 0, dclass := 0, pkt := idleUnitPkt }] }, by decide +kernel⟩

theorem meets_portWake_done : ∃ (s : State) (n : Wing) (a : Fin 2) (x : PortSt), (s.chip.wing n).port a = x ∧ x.waking = true :=
  ⟨port { lock with waking := true }, 3, 1, { lock with waking := true }, by decide +kernel⟩

theorem meets_writePacket : ∃ (s : State) (n : Wing) (a : Fin 2) (p : Packet), s.chip.Arrived n a p 1 ∧ pDst p = s.chip.phys ∧ s.chip.packetOk (pAddr p) (pUnits p) = true ∧ (pSrc p, pXfer p) ∉ ((s.chip.wing n).port a).rxBad :=
  ⟨st ((port { lock with rxPkts := [mkPacket 1 0 false 0 0 5 2 false false false 0xFFFF 0x40006000000 0 0 (List.replicate 128 1)] }).chip), 3, 1, mkPacket 1 0 false 0 0 5 2 false false false 0xFFFF 0x40006000000 0 0 (List.replicate 128 1), by constructor <;> decide +kernel, by decide +kernel⟩

theorem meets_writePacket_signal : ∃ (s : State) (n : Wing) (a : Fin 2) (p : Packet), s.chip.Arrived n a p 1 ∧ pDst p = s.chip.phys ∧ s.chip.packetOk (pAddr p) (pUnits p) = true ∧ (pSrc p, pXfer p) ∉ ((s.chip.wing n).port a).rxBad :=
  ⟨st ((port { lock with rxPkts := [mkPacket 1 0 true 0 0 5 2 false false false (3 * 4096 + 9) 0x40006000000 0 0 (List.replicate 128 1)] }).chip.setTask 2 (job .running) |>.setPair 3 9 { Pair.reset with en := true, task := some 2, buf := 4, p := 3, c := 1, word := 0x4100607000 }), 3, 1, mkPacket 1 0 true 0 0 5 2 false false false (3 * 4096 + 9) 0x40006000000 0 0 (List.replicate 128 1), by constructor <;> decide +kernel, by decide +kernel⟩

theorem meets_writePacket_fill : ∃ (s : State) (n : Wing) (a : Fin 2) (p : Packet), s.chip.Arrived n a p 1 ∧ pDst p = s.chip.phys ∧ s.chip.packetOk (pAddr p) (pUnits p) = true ∧ (pSrc p, pXfer p) ∉ ((s.chip.wing n).port a).rxBad :=
  ⟨st ((port { lock with rxPkts := [mkPacket 1 0 false 0 0 5 1 true false false 0xFFFF 0x40006000000 0 0 (List.replicate 64 1)] }).chip), 3, 1, mkPacket 1 0 false 0 0 5 1 true false false 0xFFFF 0x40006000000 0 0 (List.replicate 64 1), by constructor <;> decide +kernel, by decide +kernel⟩

theorem meets_writePacketWaits : ∃ (s : State) (n : Wing) (a : Fin 2) (p : Packet), s.chip.Arrived n a p 1 ∧ pDst p = s.chip.phys ∧ s.chip.packetOk (pAddr p) (pUnits p) = true ∧ (pSrc p, pXfer p) ∉ ((s.chip.wing n).port a).rxBad ∧ s.chip.toTags p ∧ pUnits p = 1 ∧ pContrib p = false ∧ s.chip.waits = [] ∧ (∀ i < 8, s.chip.isFull (s.chip.home (pAddr p + 8 * i)) = true ∧ s.chip.pairAt (s.chip.home (pAddr p + 8 * i)) = none) ∧ ((s.chip.wing n).port a).sigWait = [] :=
  ⟨st { (port { lock with rxPkts := [mkPacket 1 0 true 0 0 5 1 true false false (3 * 4096 + 9) 0x40006000000 0 0 (List.replicate 64 1)] }).chip with full := (List.range 8).map fun k => (0x8000C00000 + k, true) }, 3, 1, mkPacket 1 0 true 0 0 5 1 true false false (3 * 4096 + 9) 0x40006000000 0 0 (List.replicate 64 1), by constructor <;> decide +kernel, by decide +kernel, by decide +kernel, (by decide +kernel), ⟨by decide +kernel, by decide +kernel⟩, by decide +kernel⟩

theorem meets_packetBad : ∃ (s : State) (n : Wing) (a : Fin 2) (p : Packet) (k : Nat) (i : Instr), s.chip.Arrived n a p k ∧ pDst p = s.chip.phys ∧ (s.chip.packetOk (pAddr p) (pUnits p) = false ∨ (k = 2 ∧ pUnits p = 0)) ∧ ((k = 1 ∧ i = .writePacket n a p ∧ (pSrc p, pXfer p) ∉ ((s.chip.wing n).port a).rxBad) ∨ (k = 2 ∧ i = .readPacket n a p ∧ NMap.find ((s.chip.wing n).port a).reads (readKey p) = none) ∨ (k = 3 ∧ i = .rdata n a p)) :=
  ⟨st ((port { lock with rxPkts := [mkPacket 1 0 false 0 0 5 2 false false false 0xFFFF 0x40006000020 0 0 (List.replicate 128 1)] }).chip), 3, 1, mkPacket 1 0 false 0 0 5 2 false false false 0xFFFF 0x40006000020 0 0 (List.replicate 128 1), 1, .writePacket 3 1 (mkPacket 1 0 false 0 0 5 2 false false false 0xFFFF 0x40006000020 0 0 (List.replicate 128 1)), by constructor <;> decide +kernel, by decide +kernel, .inl (by decide +kernel), .inl ⟨rfl, rfl, by decide +kernel⟩⟩

theorem meets_packetBad_read : ∃ (s : State) (n : Wing) (a : Fin 2) (p : Packet) (k : Nat) (i : Instr), s.chip.Arrived n a p k ∧ pDst p = s.chip.phys ∧ (s.chip.packetOk (pAddr p) (pUnits p) = false ∨ (k = 2 ∧ pUnits p = 0)) ∧ ((k = 1 ∧ i = .writePacket n a p ∧ (pSrc p, pXfer p) ∉ ((s.chip.wing n).port a).rxBad) ∨ (k = 2 ∧ i = .readPacket n a p ∧ NMap.find ((s.chip.wing n).port a).reads (readKey p) = none) ∨ (k = 3 ∧ i = .rdata n a p)) :=
  ⟨st ((port { lock with rxPkts := [mkPacket 2 0 false 0 0 5 0 false false false 0xFFFF 0x40006000000 0 0 (List.replicate 0 1)] }).chip), 3, 1, mkPacket 2 0 false 0 0 5 0 false false false 0xFFFF 0x40006000000 0 0 (List.replicate 0 1), 2, .readPacket 3 1 (mkPacket 2 0 false 0 0 5 0 false false false 0xFFFF 0x40006000000 0 0 (List.replicate 0 1)), by constructor <;> decide +kernel, by decide +kernel, .inr ⟨rfl, by decide +kernel⟩, .inr (.inl ⟨rfl, rfl, by decide +kernel⟩)⟩

theorem meets_packetBad_rdata : ∃ (s : State) (n : Wing) (a : Fin 2) (p : Packet) (k : Nat) (i : Instr), s.chip.Arrived n a p k ∧ pDst p = s.chip.phys ∧ (s.chip.packetOk (pAddr p) (pUnits p) = false ∨ (k = 2 ∧ pUnits p = 0)) ∧ ((k = 1 ∧ i = .writePacket n a p ∧ (pSrc p, pXfer p) ∉ ((s.chip.wing n).port a).rxBad) ∨ (k = 2 ∧ i = .readPacket n a p ∧ NMap.find ((s.chip.wing n).port a).reads (readKey p) = none) ∨ (k = 3 ∧ i = .rdata n a p)) :=
  ⟨st ((port { lock with rxPkts := [mkPacket 3 0 false 0 0 5 2 false false false 0xFFFF 0x40006000020 0 0 (List.replicate 128 1)] }).chip), 3, 1, mkPacket 3 0 false 0 0 5 2 false false false 0xFFFF 0x40006000020 0 0 (List.replicate 128 1), 3, .rdata 3 1 (mkPacket 3 0 false 0 0 5 2 false false false 0xFFFF 0x40006000020 0 0 (List.replicate 128 1)), by constructor <;> decide +kernel, by decide +kernel, .inl (by decide +kernel), .inr (.inr ⟨rfl, rfl⟩)⟩

theorem meets_packetPassed_more : ∃ (s : State) (n : Wing) (a : Fin 2) (p : Packet), s.chip.Arrived n a p 1 ∧ pDst p = s.chip.phys ∧ (pSrc p, pXfer p) ∈ ((s.chip.wing n).port a).rxBad :=
  ⟨st ((port { lock with rxPkts := [mkPacket 1 0 false 0 0 5 2 false false false 0xFFFF 0x40006000000 6 0 (List.replicate 128 1)], rxBad := [(5, 6)] }).chip), 3, 1, mkPacket 1 0 false 0 0 5 2 false false false 0xFFFF 0x40006000000 6 0 (List.replicate 128 1), by constructor <;> decide +kernel, by decide +kernel⟩

theorem meets_packetPassed : ∃ (s : State) (n : Wing) (a : Fin 2) (p : Packet), s.chip.Arrived n a p 1 ∧ pDst p = s.chip.phys ∧ (pSrc p, pXfer p) ∈ ((s.chip.wing n).port a).rxBad :=
  ⟨st ((port { lock with rxPkts := [mkPacket 1 0 true 0 0 5 2 false false false 0xFFFF 0x40006000000 6 0 (List.replicate 128 1)], rxBad := [(5, 6)] }).chip), 3, 1, mkPacket 1 0 true 0 0 5 2 false false false 0xFFFF 0x40006000000 6 0 (List.replicate 128 1), by constructor <;> decide +kernel, by decide +kernel⟩

theorem meets_readPacket : ∃ (s : State) (n : Wing) (a : Fin 2) (p : Packet), s.chip.Arrived n a p 2 ∧ pDst p = s.chip.phys ∧ s.chip.packetOk (pAddr p) (pUnits p) = true ∧ pUnits p ≠ 0 ∧ NMap.find ((s.chip.wing n).port a).reads (readKey p) = none ∧ (pWait p = false ∨ (s.chip.region (pAddr p)).isStore = false) ∧ s.chip.flag (Reg.linkRoute (pSrc p)) 16 = true :=
  ⟨st ((port { lock with rxPkts := [mkPacket 2 0 false 0 0 5 2 false false false 0xFFFF 0x40006000000 0 0 (List.replicate 0 1)] }).chip.setFlag (Reg.linkRoute 5) 16 true), 3, 1, mkPacket 2 0 false 0 0 5 2 false false false 0xFFFF 0x40006000000 0 0 (List.replicate 0 1), by constructor <;> decide +kernel, by decide +kernel, by decide +kernel, (by decide +kernel), by decide +kernel, .inl (by decide +kernel), by decide +kernel⟩

theorem meets_readTagged : ∃ (s : State) (n : Wing) (a : Fin 2) (p : Packet) (j : Nat) (got : List Byte), s.chip.readAt n a p j got ∧ got.length = 8 * j ∧ pUnits p ≠ 0 ∧ j ≤ 8 * pUnits p ∧ (∀ i < 8 * pUnits p - j, s.chip.isFull (s.chip.home (pAddr p + 8 * (j + i))) = true) ∧ s.chip.flag (Reg.linkRoute (pSrc p)) 16 = true :=
  ⟨st { (st ((port { lock with rxPkts := [mkPacket 2 0 false 0 0 5 1 false true false 0xFFFF 0x40006000000 0 0 (List.replicate 0 1)] }).chip.setFlag (Reg.linkRoute 5) 16 true)).chip with full := (List.range 8).map fun k => (0x8000C00000 + k, true) }, 3, 1, mkPacket 2 0 false 0 0 5 1 false true false 0xFFFF 0x40006000000 0 0 (List.replicate 0 1), 0, [], .inl ⟨rfl, rfl, (by constructor <;> decide +kernel), by decide +kernel⟩, by decide +kernel⟩

theorem meets_readTagged_on : ∃ (s : State) (n : Wing) (a : Fin 2) (p : Packet) (j : Nat) (got : List Byte), s.chip.readAt n a p j got ∧ got.length = 8 * j ∧ pUnits p ≠ 0 ∧ j ≤ 8 * pUnits p ∧ (∀ i < 8 * pUnits p - j, s.chip.isFull (s.chip.home (pAddr p + 8 * (j + i))) = true) ∧ s.chip.flag (Reg.linkRoute (pSrc p)) 16 = true :=
  ⟨st { (st ((port { lock with rxPkts := [mkPacket 2 0 false 0 0 5 1 false true false 0xFFFF 0x40006000000 0 0 (List.replicate 0 1)], reads := [(readKey (mkPacket 2 0 false 0 0 5 1 false true false 0xFFFF 0x40006000000 0 0 (List.replicate 0 1)), { got := List.replicate 8 7, waiting := false })] }).chip.setFlag (Reg.linkRoute 5) 16 true)).chip with full := (List.range 8).map fun k => (0x8000C00000 + k, true) }, 3, 1, mkPacket 2 0 false 0 0 5 1 false true false 0xFFFF 0x40006000000 0 0 (List.replicate 0 1), 1, List.replicate 8 7, .inr (by decide +kernel), by decide +kernel⟩

theorem meets_readWaits : ∃ (s : State) (n : Wing) (a : Fin 2) (p : Packet) (j k : Nat) (got : List Byte), s.chip.readAt n a p j got ∧ got.length = 8 * j ∧ pUnits p ≠ 0 ∧ j + k < 8 * pUnits p ∧ (∀ i < k, s.chip.isFull (s.chip.home (pAddr p + 8 * (j + i))) = true) ∧ s.chip.isFull (s.chip.home (pAddr p + 8 * (j + k))) = false :=
  ⟨st { (st ((port { lock with rxPkts := [mkPacket 2 0 false 0 0 5 1 false true false 0xFFFF 0x40006000000 0 0 (List.replicate 0 1)] }).chip.setFlag (Reg.linkRoute 5) 16 true)).chip with full := [(0x8000C00000, true)] }, 3, 1, mkPacket 2 0 false 0 0 5 1 false true false 0xFFFF 0x40006000000 0 0 (List.replicate 0 1), 0, 1, [], .inl ⟨rfl, rfl, (by constructor <;> decide +kernel), by decide +kernel⟩, by decide +kernel⟩

theorem meets_rdata : ∃ (s : State) (n : Wing) (a : Fin 2) (p : Packet), s.chip.Arrived n a p 3 ∧ pDst p = s.chip.phys ∧ s.chip.packetOk (pAddr p) (pUnits p) = true :=
  ⟨st ((port { lock with rxPkts := [mkPacket 3 0 false 0 0 5 2 false false false 0xFFFF 0x40006000000 0 0 (List.replicate 128 1)] }).chip), 3, 1, mkPacket 3 0 false 0 0 5 2 false false false 0xFFFF 0x40006000000 0 0 (List.replicate 128 1), by constructor <;> decide +kernel, by decide +kernel⟩

theorem meets_rdata_job : ∃ (s : State) (n : Wing) (a : Fin 2) (p : Packet), s.chip.Arrived n a p 3 ∧ pDst p = s.chip.phys ∧ s.chip.packetOk (pAddr p) (pUnits p) = true :=
  ⟨st ((port { lock with rxPkts := [mkPacket 3 0 false 0 0 5 2 false false false 0xFFFF 0x40006000000 0 0 (List.replicate 128 1)] }).chip.modWing 3 fun x => { x with dma := [(5, { cmd := ucmd [0x80FFFF0001, 0x240006000000, 0x40006000000, 0x1000000000000], xfer := 0, begun := true, moved := 0, written := false, waiting := false, held := none })] }), 3, 1, mkPacket 3 0 false 0 0 5 2 false false false 0xFFFF 0x40006000000 0 0 (List.replicate 128 1), by constructor <;> decide +kernel, by decide +kernel⟩

theorem meets_consumePacket_stray : ∃ (s : State) (n : Wing) (a : Fin 2) (p : Packet), s.chip.Arrived n a p 4 ∧ pDst p = s.chip.phys ∧ s.chip.pairLive (pSig p / 4096) (pSig p % 4096) = false :=
  ⟨st ((port { lock with rxPkts := [mkPacket 4 0 false 0 0 5 0 false false false (3 * 4096 + 9) 0 0 2 (List.replicate 0 1)] }).chip), 3, 1, mkPacket 4 0 false 0 0 5 0 false false false (3 * 4096 + 9) 0 0 2 (List.replicate 0 1), by constructor <;> decide +kernel, by decide +kernel⟩

theorem meets_consumePacket : ∃ (s : State) (n : Wing) (a : Fin 2) (p : Packet), s.chip.Arrived n a p 4 ∧ pDst p = s.chip.phys ∧ s.chip.PairAt (pSig p / 4096) (pSig p % 4096) :=
  ⟨st ((port { lock with rxPkts := [mkPacket 4 0 false 0 0 5 0 false false false (3 * 4096 + 9) 0 0 2 (List.replicate 0 1)] }).chip.setTask 2 (job .running) |>.setPair 3 9 { Pair.reset with en := true, task := some 2, buf := 4, p := 3, c := 1, word := 0x4100607000 }), 3, 1, mkPacket 4 0 false 0 0 5 0 false false false (3 * 4096 + 9) 0 0 2 (List.replicate 0 1), by constructor <;> decide +kernel, by decide +kernel, by constructor <;> decide +kernel⟩

theorem meets_mgmt : ∃ (s : State) (n : Wing) (a : Fin 2) (p : Packet), s.chip.Arrived n a p 5 :=
  ⟨st ((port { lock with rxPkts := [mkPacket 5 0 false 0 0 5 0 false false false 0xFFFF 0 0 77 (List.replicate 0 1)] }).chip), 3, 1, mkPacket 5 0 false 0 0 5 0 false false false 0xFFFF 0 0 77 (List.replicate 0 1), by constructor <;> decide +kernel⟩

theorem meets_packetVersion_1 : ∃ (s : State) (n : Wing) (a : Fin 2) (p : Packet) (i : Instr), s.chip.up = true ∧ s.chip.halted = false ∧ pVer p ≠ s.chip.cver ∧ ((p.data.length = 64 * dataUnits p ∧ s.chip.packetTurn n a p = true ∧ (i = .writePacket n a p ∧ pKind p = 1 ∨ i = .readPacket n a p ∧ pKind p = 2 ∧ NMap.find ((s.chip.wing n).port a).reads (readKey p) = none ∨ i = .rdata n a p ∧ pKind p = 3 ∨ i = .consumePacket n a p ∧ pKind p = 4 ∨ i = .mgmt n a p ∧ pKind p = 5)) ∨ (i = .packetForward n a p ∧ 1 ≤ pKind p ∧ pKind p ≤ 4 ∧ pDst p ≠ s.chip.phys ∧ s.chip.forwardTurn n a p = true)) :=
  ⟨st ((port { lock with rxPkts := [mkPacket 1 0 false 1 0 5 0 false false false 0xFFFF 0 0 0 (List.replicate 0 1)] }).chip), 3, 1, mkPacket 1 0 false 1 0 5 0 false false false 0xFFFF 0 0 0 (List.replicate 0 1), .writePacket 3 1 (mkPacket 1 0 false 1 0 5 0 false false false 0xFFFF 0 0 0 (List.replicate 0 1)), by decide +kernel, by decide +kernel, (by decide +kernel), .inl ⟨by decide +kernel, by decide +kernel, .inl ⟨rfl, by decide +kernel⟩⟩⟩

theorem meets_packetVersion_2 : ∃ (s : State) (n : Wing) (a : Fin 2) (p : Packet) (i : Instr), s.chip.up = true ∧ s.chip.halted = false ∧ pVer p ≠ s.chip.cver ∧ ((p.data.length = 64 * dataUnits p ∧ s.chip.packetTurn n a p = true ∧ (i = .writePacket n a p ∧ pKind p = 1 ∨ i = .readPacket n a p ∧ pKind p = 2 ∧ NMap.find ((s.chip.wing n).port a).reads (readKey p) = none ∨ i = .rdata n a p ∧ pKind p = 3 ∨ i = .consumePacket n a p ∧ pKind p = 4 ∨ i = .mgmt n a p ∧ pKind p = 5)) ∨ (i = .packetForward n a p ∧ 1 ≤ pKind p ∧ pKind p ≤ 4 ∧ pDst p ≠ s.chip.phys ∧ s.chip.forwardTurn n a p = true)) :=
  ⟨st ((port { lock with rxPkts := [mkPacket 2 0 false 1 0 5 0 false false false 0xFFFF 0 0 0 (List.replicate 0 1)] }).chip), 3, 1, mkPacket 2 0 false 1 0 5 0 false false false 0xFFFF 0 0 0 (List.replicate 0 1), .readPacket 3 1 (mkPacket 2 0 false 1 0 5 0 false false false 0xFFFF 0 0 0 (List.replicate 0 1)), by decide +kernel, by decide +kernel, (by decide +kernel), .inl ⟨by decide +kernel, by decide +kernel, .inr (.inl ⟨rfl, by decide +kernel⟩)⟩⟩

theorem meets_packetVersion_3 : ∃ (s : State) (n : Wing) (a : Fin 2) (p : Packet) (i : Instr), s.chip.up = true ∧ s.chip.halted = false ∧ pVer p ≠ s.chip.cver ∧ ((p.data.length = 64 * dataUnits p ∧ s.chip.packetTurn n a p = true ∧ (i = .writePacket n a p ∧ pKind p = 1 ∨ i = .readPacket n a p ∧ pKind p = 2 ∧ NMap.find ((s.chip.wing n).port a).reads (readKey p) = none ∨ i = .rdata n a p ∧ pKind p = 3 ∨ i = .consumePacket n a p ∧ pKind p = 4 ∨ i = .mgmt n a p ∧ pKind p = 5)) ∨ (i = .packetForward n a p ∧ 1 ≤ pKind p ∧ pKind p ≤ 4 ∧ pDst p ≠ s.chip.phys ∧ s.chip.forwardTurn n a p = true)) :=
  ⟨st ((port { lock with rxPkts := [mkPacket 3 0 false 1 0 5 0 false false false 0xFFFF 0 0 0 (List.replicate 0 1)] }).chip), 3, 1, mkPacket 3 0 false 1 0 5 0 false false false 0xFFFF 0 0 0 (List.replicate 0 1), .rdata 3 1 (mkPacket 3 0 false 1 0 5 0 false false false 0xFFFF 0 0 0 (List.replicate 0 1)), by decide +kernel, by decide +kernel, (by decide +kernel), .inl ⟨by decide +kernel, by decide +kernel, .inr (.inr (.inl ⟨rfl, by decide +kernel⟩))⟩⟩

theorem meets_packetVersion_4 : ∃ (s : State) (n : Wing) (a : Fin 2) (p : Packet) (i : Instr), s.chip.up = true ∧ s.chip.halted = false ∧ pVer p ≠ s.chip.cver ∧ ((p.data.length = 64 * dataUnits p ∧ s.chip.packetTurn n a p = true ∧ (i = .writePacket n a p ∧ pKind p = 1 ∨ i = .readPacket n a p ∧ pKind p = 2 ∧ NMap.find ((s.chip.wing n).port a).reads (readKey p) = none ∨ i = .rdata n a p ∧ pKind p = 3 ∨ i = .consumePacket n a p ∧ pKind p = 4 ∨ i = .mgmt n a p ∧ pKind p = 5)) ∨ (i = .packetForward n a p ∧ 1 ≤ pKind p ∧ pKind p ≤ 4 ∧ pDst p ≠ s.chip.phys ∧ s.chip.forwardTurn n a p = true)) :=
  ⟨st ((port { lock with rxPkts := [mkPacket 4 0 false 1 0 5 0 false false false 0xFFFF 0 0 0 (List.replicate 0 1)] }).chip), 3, 1, mkPacket 4 0 false 1 0 5 0 false false false 0xFFFF 0 0 0 (List.replicate 0 1), .consumePacket 3 1 (mkPacket 4 0 false 1 0 5 0 false false false 0xFFFF 0 0 0 (List.replicate 0 1)), by decide +kernel, by decide +kernel, (by decide +kernel), .inl ⟨by decide +kernel, by decide +kernel, .inr (.inr (.inr (.inl ⟨rfl, by decide +kernel⟩)))⟩⟩

theorem meets_packetVersion_5 : ∃ (s : State) (n : Wing) (a : Fin 2) (p : Packet) (i : Instr), s.chip.up = true ∧ s.chip.halted = false ∧ pVer p ≠ s.chip.cver ∧ ((p.data.length = 64 * dataUnits p ∧ s.chip.packetTurn n a p = true ∧ (i = .writePacket n a p ∧ pKind p = 1 ∨ i = .readPacket n a p ∧ pKind p = 2 ∧ NMap.find ((s.chip.wing n).port a).reads (readKey p) = none ∨ i = .rdata n a p ∧ pKind p = 3 ∨ i = .consumePacket n a p ∧ pKind p = 4 ∨ i = .mgmt n a p ∧ pKind p = 5)) ∨ (i = .packetForward n a p ∧ 1 ≤ pKind p ∧ pKind p ≤ 4 ∧ pDst p ≠ s.chip.phys ∧ s.chip.forwardTurn n a p = true)) :=
  ⟨st ((port { lock with rxPkts := [mkPacket 5 0 false 1 0 5 0 false false false 0xFFFF 0 0 0 (List.replicate 0 1)] }).chip), 3, 1, mkPacket 5 0 false 1 0 5 0 false false false 0xFFFF 0 0 0 (List.replicate 0 1), .mgmt 3 1 (mkPacket 5 0 false 1 0 5 0 false false false 0xFFFF 0 0 0 (List.replicate 0 1)), by decide +kernel, by decide +kernel, (by decide +kernel), .inl ⟨by decide +kernel, by decide +kernel, .inr (.inr (.inr (.inr (⟨rfl, by decide +kernel⟩))))⟩⟩

theorem meets_packetVersion_on : ∃ (s : State) (n : Wing) (a : Fin 2) (p : Packet) (i : Instr), s.chip.up = true ∧ s.chip.halted = false ∧ pVer p ≠ s.chip.cver ∧ ((p.data.length = 64 * dataUnits p ∧ s.chip.packetTurn n a p = true ∧ (i = .writePacket n a p ∧ pKind p = 1 ∨ i = .readPacket n a p ∧ pKind p = 2 ∧ NMap.find ((s.chip.wing n).port a).reads (readKey p) = none ∨ i = .rdata n a p ∧ pKind p = 3 ∨ i = .consumePacket n a p ∧ pKind p = 4 ∨ i = .mgmt n a p ∧ pKind p = 5)) ∨ (i = .packetForward n a p ∧ 1 ≤ pKind p ∧ pKind p ≤ 4 ∧ pDst p ≠ s.chip.phys ∧ s.chip.forwardTurn n a p = true)) :=
  ⟨st ((port { lock with rxPkts := [mkPacket 1 0 false 1 9 5 0 false false false 0xFFFF 0 0 0 (List.replicate 0 1)] }).chip), 3, 1, mkPacket 1 0 false 1 9 5 0 false false false 0xFFFF 0 0 0 (List.replicate 0 1), .packetForward 3 1 (mkPacket 1 0 false 1 9 5 0 false false false 0xFFFF 0 0 0 (List.replicate 0 1)), by decide +kernel, by decide +kernel, (by decide +kernel), .inr ⟨rfl, by decide +kernel⟩⟩

theorem meets_packetForward : ∃ (s : State) (n : Wing) (a : Fin 2) (p : Packet), s.chip.up = true ∧ s.chip.halted = false ∧ 1 ≤ pKind p ∧ pKind p ≤ 4 ∧ pDst p ≠ s.chip.phys ∧ pVer p = s.chip.cver ∧ s.chip.forwardTurn n a p = true :=
  ⟨st ((port { lock with rxPkts := [mkPacket 1 0 false 0 9 5 2 false false false 0xFFFF 0x40006000000 0 0 (List.replicate 128 1)] }).chip), 3, 1, mkPacket 1 0 false 0 9 5 2 false false false 0xFFFF 0x40006000000 0 0 (List.replicate 128 1), by decide +kernel⟩

theorem meets_packetForward_route : ∃ (s : State) (n : Wing) (a : Fin 2) (p : Packet), s.chip.up = true ∧ s.chip.halted = false ∧ 1 ≤ pKind p ∧ pKind p ≤ 4 ∧ pDst p ≠ s.chip.phys ∧ pVer p = s.chip.cver ∧ s.chip.forwardTurn n a p = true :=
  ⟨st ((port { lock with rxPkts := [mkPacket 1 0 false 0 9 5 2 false false false 0xFFFF 0x40006000000 0 0 (List.replicate 128 1)] }).chip.setFlag (Reg.linkRoute 9) 16 true), 3, 1, mkPacket 1 0 false 0 9 5 2 false false false 0xFFFF 0x40006000000 0 0 (List.replicate 128 1), by decide +kernel⟩

theorem meets_timestampExchange : ∃ (s : State) (n : Wing) (a : Fin 2) (t1 t2 t3 t4 : Nat) (po : Int), s.chip.portState n a = 2 :=
  ⟨port lock, 3, 1, 0, 10, 10, 4, 0, by decide +kernel⟩

theorem meets_timestampExchange_parent : ∃ (s : State) (n : Wing) (a : Fin 2) (t1 t2 t3 t4 : Nat) (po : Int), s.chip.portState n a = 2 :=
  ⟨st ((port lock).chip.setFld Reg.linkTree 4 0 7), 3, 1, 0, 4000, 4000, 4, 0, by decide +kernel⟩

theorem meets_combineRecord : ∃ (s : State) (v : VoteRec) (p : Nat), s.chip.up = true ∧ p ∈ s.chip.children ∧ s.chip.step.voted = false :=
  ⟨st (up.setFlag Reg.linkTree 35 true), { least := 4, greatest := 5, poison := false, refuse := false }, 3, by decide +kernel⟩

theorem meets_combineRecord_last : ∃ (s : State) (v : VoteRec) (p : Nat), s.chip.up = true ∧ p ∈ s.chip.children ∧ s.chip.step.voted = true :=
  ⟨st { up.setFlag Reg.linkTree 35 true with step := { up.step with voted := true } }, { least := 4, greatest := 5, poison := false, refuse := false }, 3, by decide +kernel⟩

theorem meets_combineRecord_parent : ∃ (s : State) (v : VoteRec), s.chip.up = true ∧ s.chip.isRoot = false :=
  ⟨st up, { least := 4, greatest := 5, poison := false, refuse := false }, by decide +kernel⟩

theorem meets_combineAmax : ∃ (s : State) (k p : Nat), s.chip.up = true ∧ p ∈ s.chip.children ∧ s.chip.step.waitSteps.contains k = true ∧ s.chip.stepDrained k = true :=
  ⟨st { up.setFlag Reg.linkTree 35 true with step := { up.step with waitSteps := [4] } }, 4, 3, by decide +kernel⟩

theorem meets_combineAmax_parent : ∃ (s : State) (k : Nat), s.chip.up = true ∧ s.chip.isRoot = false ∧ s.chip.step.waitSteps.contains k = true ∧ s.chip.stepDrained k = true :=
  ⟨st { up with step := { up.step with waitSteps := [4] } }, 4, by decide +kernel⟩

theorem meets_guardRun : ∃ (s : State) (n : Wing) (g : GalIx) (results : List Int), s.chip.guardMayRun n g = true ∧ ((s.chip.gal n g).cls = none ∨ s.chip.recov.isSome = true) :=
  ⟨st ((run.modGal 3 7 fun x => { x with planeA := { x.planeA with written := true, watched := true, srcTile := 5 }, guardRow := 255 }).setFld (Reg.consSrc 3 7 0) 43 0 0x40006000000), 3, 7, [], by decide +kernel, .inl (by decide +kernel)⟩

theorem meets_guardClass : ∃ (s : State) (n : Wing) (g : GalIx) (results : List Int) (k : GalClass), s.chip.guardMayRun n g = true ∧ (s.chip.gal n g).cls = some k ∧ s.chip.recov = none :=
  ⟨st (((run.modGal 3 7 fun x => { x with planeA := { x.planeA with written := true, watched := true, srcTile := 5 }, guardRow := 255, cls := some ({ step := 1, todo := [], failed := [], checks := [], hard := [], gen := 0, live := 0, dval := 0, guardRow := 0 }) }).setFld (Reg.consSrc 3 7 0) 43 0 0x40006000000)), 3, 7, [], { step := 1, todo := [], failed := [], checks := [], hard := [], gen := 0, live := 0, dval := 0, guardRow := 0 }, by decide +kernel⟩

theorem meets_guardClass_band : ∃ (s : State) (n : Wing) (g : GalIx) (results : List Int) (k : GalClass), s.chip.guardMayRun n g = true ∧ (s.chip.gal n g).cls = some k ∧ s.chip.recov = none :=
  ⟨st (((run.modGal 3 7 fun x => { x with planeA := { x.planeA with written := true, watched := true, srcTile := 5 }, guardRow := 255, cls := some ({ step := 3, todo := [2], failed := [1], checks := [], hard := [], gen := 0, live := 0, dval := 0, guardRow := 0 }) }).setFld (Reg.consSrc 3 7 0) 43 0 0x40006000000)), 3, 7, [], { step := 3, todo := [2], failed := [1], checks := [], hard := [], gen := 0, live := 0, dval := 0, guardRow := 0 }, by decide +kernel⟩

theorem meets_guardClass_check : ∃ (s : State) (n : Wing) (g : GalIx) (results : List Int) (k : GalClass), s.chip.guardMayRun n g = true ∧ (s.chip.gal n g).cls = some k ∧ s.chip.recov = none :=
  ⟨st (((run.modGal 3 7 fun x => { x with planeA := { x.planeA with written := true, watched := true, srcTile := 5 }, guardRow := 255, cls := some ({ step := 4, todo := [], failed := [1], checks := [1], hard := [], gen := 0, live := 0, dval := 0, guardRow := 0 }) }).setFld (Reg.consSrc 3 7 0) 43 0 0x40006000000)), 3, 7, [], { step := 4, todo := [], failed := [1], checks := [1], hard := [], gen := 0, live := 0, dval := 0, guardRow := 0 }, by decide +kernel⟩

theorem meets_guardClass_none : ∃ (s : State) (n : Wing) (g : GalIx) (results : List Int) (k : GalClass), s.chip.guardMayRun n g = true ∧ (s.chip.gal n g).cls = some k ∧ s.chip.recov = none :=
  ⟨st (((run.modGal 3 7 fun x => { x with planeA := { x.planeA with written := true, watched := true, srcTile := 5 }, guardRow := 255, cls := some ({ step := 3, todo := [], failed := [], checks := [], hard := [], gen := 0, live := 0, dval := 0, guardRow := 0 }) }).setFld (Reg.consSrc 3 7 0) 43 0 0x40006000000)), 3, 7, [], { step := 3, todo := [], failed := [], checks := [], hard := [], gen := 0, live := 0, dval := 0, guardRow := 0 }, by decide +kernel⟩

theorem meets_guardClass_row : ∃ (s : State) (n : Wing) (g : GalIx) (results : List Int) (k : GalClass), s.chip.guardMayRun n g = true ∧ (s.chip.gal n g).cls = some k ∧ s.chip.recov = none :=
  ⟨st (((run.modGal 3 7 fun x => { x with planeA := { x.planeA with written := true, watched := true, srcTile := 5 }, guardRow := 255, cls := some ({ step := 1, todo := [], failed := [], checks := [], hard := [], gen := 0, live := 0, dval := 0, guardRow := 9 }) }).setFld (Reg.consSrc 3 7 0) 43 0 0x40006000000) |>.setFlag (Reg.galCapInfo 3 7) 24 true), 3, 7, [], { step := 1, todo := [], failed := [], checks := [], hard := [], gen := 0, live := 0, dval := 0, guardRow := 9 }, by decide +kernel⟩

theorem meets_arrayGuardWindow : ∃ (s : State) (n : Wing) (a : Fin 2) (r : GuardResult), s.chip.windowOpen n a ∧ (s.chip.recov.isSome = true ∨ (((s.chip.wing n).arr a).clsStep ≠ 1 ∧ s.chip.askedOf (2 * n + a) = none)) :=
  ⟨st (up.setFlag (Reg.mxIdent 3 1) 8 true), 3, 1, .fail 2, ⟨by decide +kernel, by decide +kernel, by decide +kernel⟩, .inr (by decide +kernel)⟩

theorem meets_arrayClassOwn : ∃ (s : State) (n : Wing) (a : Fin 2) (r : GuardResult), s.chip.windowOpen n a ∧ s.chip.recov = none ∧ ((s.chip.wing n).arr a).clsStep = 1 :=
  ⟨st ((up.setFlag (Reg.mxIdent 3 1) 8 true).modArr 3 1 fun x => { x with clsStep := 1 }), 3, 1, .pass, ⟨by decide +kernel, by decide +kernel, by decide +kernel⟩, by decide +kernel⟩

theorem meets_arrayClassOwn_fail : ∃ (s : State) (n : Wing) (a : Fin 2) (r : GuardResult), s.chip.windowOpen n a ∧ s.chip.recov = none ∧ ((s.chip.wing n).arr a).clsStep = 1 :=
  ⟨st ((up.setFlag (Reg.mxIdent 3 1) 8 true).modArr 3 1 fun x => { x with clsStep := 1 }), 3, 1, .fail 3, ⟨by decide +kernel, by decide +kernel, by decide +kernel⟩, by decide +kernel⟩

theorem meets_arrayClassOther : ∃ (s : State) (n : Wing) (a : Fin 2) (r : GuardResult) (k : Nat), s.chip.windowOpen n a ∧ s.chip.recov = none ∧ ((s.chip.wing n).arr a).clsStep ≠ 1 ∧ s.chip.askedOf (2 * n + a) = some k :=
  ⟨st (((up.setFlag (Reg.mxIdent 3 1) 8 true).setFlag (Reg.mxIdent 3 0) 8 true).modArr 3 0 fun x => { x with clsStep := 2 }), 3, 1, .pass, 6, ⟨by decide +kernel, by decide +kernel, by decide +kernel⟩, by decide +kernel⟩

theorem meets_arrayClassOther_fail : ∃ (s : State) (n : Wing) (a : Fin 2) (r : GuardResult) (k : Nat), s.chip.windowOpen n a ∧ s.chip.recov = none ∧ ((s.chip.wing n).arr a).clsStep ≠ 1 ∧ s.chip.askedOf (2 * n + a) = some k :=
  ⟨st (((up.setFlag (Reg.mxIdent 3 1) 8 true).setFlag (Reg.mxIdent 3 0) 8 true).modArr 3 0 fun x => { x with clsStep := 2 }), 3, 1, .fail 1, 6, ⟨by decide +kernel, by decide +kernel, by decide +kernel⟩, by decide +kernel⟩

theorem meets_vectorGuard_pass_false : ∃ (s : State) (n : Wing) (r : GuardResult), s.chip.halted = false :=
  ⟨st (up.modWing 3 fun x => { x with vec := { x.vec with guardFailed := false } }), 3, .pass, by decide +kernel⟩

theorem meets_vectorGuard_pass_true : ∃ (s : State) (n : Wing) (r : GuardResult), s.chip.halted = false :=
  ⟨st (up.modWing 3 fun x => { x with vec := { x.vec with guardFailed := true } }), 3, .pass, by decide +kernel⟩

theorem meets_vectorGuard_fail_false : ∃ (s : State) (n : Wing) (r : GuardResult), s.chip.halted = false :=
  ⟨st (up.modWing 3 fun x => { x with vec := { x.vec with guardFailed := false } }), 3, .fail 1, by decide +kernel⟩

theorem meets_vectorGuard_fail_true : ∃ (s : State) (n : Wing) (r : GuardResult), s.chip.halted = false :=
  ⟨st (up.modWing 3 fun x => { x with vec := { x.vec with guardFailed := true } }), 3, .fail 1, by decide +kernel⟩

theorem meets_hostLoad : ∃ (s : State) (h : HostPort) (im : Image) (w : Word), s.chip.TokenAt h w 1 ∧ (s.chip.task (tokSlot w)).phase = .empty ∧ (s.chip.task (tokSlot w)).owner = none ∧ s.chip.refuses (tokSlot w) im 0 :=
  ⟨tok 1 (((up.setFlag Reg.linkIdent 48 true).setFlag (Reg.mxIdent 3 1) 8 true)), .A, img, tokw 1, by constructor <;> decide +kernel, by decide +kernel, by decide +kernel, by unfold Chip.refuses; decide +kernel⟩

theorem meets_hostLoadRefused : ∃ (s : State) (h : HostPort) (im : Image) (w : Word) (reason : Nat), s.chip.TokenAt h w 1 ∧ reason ≠ 0 ∧ (if (s.chip.task (tokSlot w)).phase ≠ .empty ∨ (s.chip.task (tokSlot w)).owner.isSome = true then reason = 0x06 else s.chip.refuses (tokSlot w) im reason) :=
  ⟨tok 1 (run), .A, img, tokw 1, 0x06, by constructor <;> decide +kernel, by decide +kernel, by rw [if_pos (by decide +kernel)]⟩

theorem meets_hostLoadRefused_period : ∃ (s : State) (h : HostPort) (im : Image) (w : Word) (reason : Nat), s.chip.TokenAt h w 1 ∧ reason ≠ 0 ∧ (if (s.chip.task (tokSlot w)).phase ≠ .empty ∨ (s.chip.task (tokSlot w)).owner.isSome = true then reason = 0x06 else s.chip.refuses (tokSlot w) im reason) :=
  ⟨tok 1 (up), .A, { img with period := 16 }, tokw 1, 0x01, by constructor <;> decide +kernel, by decide +kernel, by rw [if_neg (by decide +kernel)]; unfold Chip.refuses; decide +kernel⟩

theorem meets_hostLoadRefused_shape : ∃ (s : State) (h : HostPort) (im : Image) (w : Word) (reason : Nat), s.chip.TokenAt h w 1 ∧ reason ≠ 0 ∧ (if (s.chip.task (tokSlot w)).phase ≠ .empty ∨ (s.chip.task (tokSlot w)).owner.isSome = true then reason = 0x06 else s.chip.refuses (tokSlot w) im reason) :=
  ⟨tok 1 (up), .A, img, tokw 1, 0x02, by constructor <;> decide +kernel, by decide +kernel, by rw [if_neg (by decide +kernel)]; unfold Chip.refuses; decide +kernel⟩

theorem meets_hostLoadRefused_arrays : ∃ (s : State) (h : HostPort) (im : Image) (w : Word) (reason : Nat), s.chip.TokenAt h w 1 ∧ reason ≠ 0 ∧ (if (s.chip.task (tokSlot w)).phase ≠ .empty ∨ (s.chip.task (tokSlot w)).owner.isSome = true then reason = 0x06 else s.chip.refuses (tokSlot w) im reason) :=
  ⟨tok 1 (noArray (up.setFlag Reg.linkIdent 48 true)), .A, img, tokw 1, 0x03, by constructor <;> decide +kernel, by decide +kernel, by rw [if_neg (by decide +kernel)]; unfold Chip.refuses; decide +kernel⟩

theorem meets_hostLoadRefused_vector : ∃ (s : State) (h : HostPort) (im : Image) (w : Word) (reason : Nat), s.chip.TokenAt h w 1 ∧ reason ≠ 0 ∧ (if (s.chip.task (tokSlot w)).phase ≠ .empty ∨ (s.chip.task (tokSlot w)).owner.isSome = true then reason = 0x06 else s.chip.refuses (tokSlot w) im reason) :=
  ⟨tok 1 (((up.setFlag Reg.linkIdent 48 true).setFlag (Reg.mxIdent 3 1) 8 true).setFlag (Reg.wingFlt 3) 2 true), .A, img, tokw 1, 0x07, by constructor <;> decide +kernel, by decide +kernel, by rw [if_neg (by decide +kernel)]; unfold Chip.refuses; decide +kernel⟩

theorem meets_taskLoadComplete_nowhere : ∃ (s : State) (k : Slot) (h : HostPort) (im : Image), (s.chip.task k).phase = .loading ∧ (s.chip.task k).owner = some h ∧ (s.chip.task k).img = some im ∧ s.chip.clearing = false ∧ s.chip.logicalIn im = none :=
  ⟨st (up.setTask 2 (job .loading)), 2, .A, img, by decide +kernel⟩

theorem meets_taskLoadComplete_clearing : ∃ (s : State) (k : Slot) (h : HostPort) (im : Image), (s.chip.task k).phase = .loading ∧ (s.chip.task k).owner = some h ∧ (s.chip.task k).img = some im ∧ s.chip.clearing = true :=
  ⟨st ((up.setTask 2 (job .loading)).setFlag (Reg.memAnnexCtrl 3) 1 true), 2, .A, img, by decide +kernel⟩

theorem meets_taskLoadComplete : ∃ (s : State) (k : Slot) (h : HostPort) (im : Image) (l : Nat), (s.chip.task k).phase = .loading ∧ (s.chip.task k).owner = some h ∧ (s.chip.task k).img = some im ∧ s.chip.clearing = false ∧ s.chip.logicalIn im = some l ∧ ((((s.chip.loadTables k im l).placeTask k im).any fun d => decide ((d.task k).gals = [(3, 0)])) = true) :=
  ⟨st ((up.setFlag (Reg.mxIdent 3 1) 8 true).setTask 2 { job .loading with img := some img1 }), 2, .A, img1, 0, by decide +kernel⟩

theorem meets_hostUnload : ∃ (s : State) (h : HostPort) (w : Word), s.chip.TokenAt h w 2 ∧ s.chip.mayAct h (tokSlot w) true = true ∧ (s.chip.task (tokSlot w)).phase ≠ .loading :=
  ⟨tok 2 (run), .A, tokw 2, by constructor <;> decide +kernel, by decide +kernel⟩

theorem meets_hostUnload_refused : ∃ (s : State) (h : HostPort) (w : Word) (reason : Nat), s.chip.TokenAt h w 2 ∧ s.chip.slotRefused h (tokSlot w) true reason :=
  ⟨tok 2 (up), .A, tokw 2, 0x09, by constructor <;> decide +kernel, by unfold Chip.slotRefused; decide +kernel⟩

theorem meets_hostUnload_loading : ∃ (s : State) (h : HostPort) (w : Word) (reason : Nat), s.chip.TokenAt h w 2 ∧ s.chip.slotRefused h (tokSlot w) true reason :=
  ⟨tok 2 (up.setTask 2 (job .loading)), .A, tokw 2, 0x06, by constructor <;> decide +kernel, by unfold Chip.slotRefused; decide +kernel⟩

theorem meets_hostStop : ∃ (s : State) (h : HostPort) (w : Word), s.chip.TokenAt h w 3 ∧ s.chip.mayAct h (tokSlot w) true = true ∧ (s.chip.task (tokSlot w)).phase ≠ .loading :=
  ⟨tok 3 (run), .A, tokw 3, by constructor <;> decide +kernel, by decide +kernel⟩

theorem meets_hostStop_refused : ∃ (s : State) (h : HostPort) (w : Word) (reason : Nat), s.chip.TokenAt h w 3 ∧ s.chip.slotRefused h (tokSlot w) true reason :=
  ⟨tok 3 (up), .A, tokw 3, 0x09, by constructor <;> decide +kernel, by unfold Chip.slotRefused; decide +kernel⟩

theorem meets_hostStop_loading : ∃ (s : State) (h : HostPort) (w : Word) (reason : Nat), s.chip.TokenAt h w 3 ∧ s.chip.slotRefused h (tokSlot w) true reason :=
  ⟨tok 3 (up.setTask 2 (job .loading)), .A, tokw 3, 0x06, by constructor <;> decide +kernel, by unfold Chip.slotRefused; decide +kernel⟩

theorem meets_hostSave : ∃ (s : State) (h : HostPort) (w : Word), s.chip.TokenAt h w 4 ∧ s.chip.mayAct h (tokSlot w) false = true ∧ (s.chip.task (tokSlot w)).phase ≠ .loading :=
  ⟨tok 4 (run), .A, tokw 4, by constructor <;> decide +kernel, by decide +kernel⟩

theorem meets_hostSave_refused : ∃ (s : State) (h : HostPort) (w : Word) (reason : Nat), s.chip.TokenAt h w 4 ∧ s.chip.slotRefused h (tokSlot w) false reason :=
  ⟨tok 4 (up), .A, tokw 4, 0x09, by constructor <;> decide +kernel, by unfold Chip.slotRefused; decide +kernel⟩

theorem meets_hostSave_loading : ∃ (s : State) (h : HostPort) (w : Word) (reason : Nat), s.chip.TokenAt h w 4 ∧ s.chip.slotRefused h (tokSlot w) false reason :=
  ⟨tok 4 (up.setTask 2 (job .loading)), .A, tokw 4, 0x06, by constructor <;> decide +kernel, by unfold Chip.slotRefused; decide +kernel⟩

theorem meets_hostRestore : ∃ (s : State) (h : HostPort) (w : Word) (x : Context), s.chip.TokenAt h w 5 ∧ (s.chip.task (tokSlot w)).owner = none ∧ NMap.find s.chip.contexts (s.chip.blockKey h w) = some x ∧ s.chip.restoreReason (tokSlot w) x = 0 :=
  ⟨tok 5 ({ ((up.setFlag Reg.linkIdent 48 true).setFlag (Reg.mxIdent 3 1) 8 true).setFld (Reg.quota 16) 23 0 1 with contexts := [(0x1000, { task := { job .running with img := some { img with xlate := [(0, 0)] } }, cat := [(100, { CatEntry.vacant with state := 1, lkind := 3, owner := 3, loc := 0x40006000000 })], regs := [(Reg.taskPerf 2, 5)], gals := [], full := [], pairs := [], waits := [] })] }), .A, tokw 5, { task := { job .running with img := some { img with xlate := [(0, 0)] } }, cat := [(100, { CatEntry.vacant with state := 1, lkind := 3, owner := 3, loc := 0x40006000000 })], regs := [(Reg.taskPerf 2, 5)], gals := [], full := [], pairs := [], waits := [] }, by constructor <;> decide +kernel, by decide +kernel⟩

theorem meets_hostRestore_refused : ∃ (s : State) (h : HostPort) (w : Word) (x : Context) (reason : Nat), s.chip.TokenAt h w 5 ∧ (s.chip.task (tokSlot w)).owner = none ∧ NMap.find s.chip.contexts (s.chip.blockKey h w) = some x ∧ reason ≠ 0 ∧ s.chip.restoreReason (tokSlot w) x = reason :=
  ⟨tok 5 ({ up with contexts := [(0x1000, { task := { job .running with img := some { img with xlate := [(0, 0)] } }, cat := [(100, { CatEntry.vacant with state := 1, lkind := 3, owner := 3, loc := 0x40006000000 })], regs := [(Reg.taskPerf 2, 5)], gals := [], full := [], pairs := [], waits := [] })] }), .A, tokw 5, { task := { job .running with img := some { img with xlate := [(0, 0)] } }, cat := [(100, { CatEntry.vacant with state := 1, lkind := 3, owner := 3, loc := 0x40006000000 })], regs := [(Reg.taskPerf 2, 5)], gals := [], full := [], pairs := [], waits := [] }, 2, by constructor <;> decide +kernel, by decide +kernel⟩

theorem meets_hostRestore_ownedA : ∃ (s : State) (h : HostPort) (w : Word) (o : HostPort), s.chip.TokenAt h w 5 ∧ (s.chip.task (tokSlot w)).owner = some o :=
  ⟨tok 5 (up.setTask 2 { job .running with owner := some .A }), .A, tokw 5, .A, by constructor <;> decide +kernel, by decide +kernel⟩

theorem meets_hostRestore_ownedB : ∃ (s : State) (h : HostPort) (w : Word) (o : HostPort), s.chip.TokenAt h w 5 ∧ (s.chip.task (tokSlot w)).owner = some o :=
  ⟨tok 5 (up.setTask 2 { job .running with owner := some .B }), .A, tokw 5, .B, by constructor <;> decide +kernel, by decide +kernel⟩

theorem meets_hostNop : ∃ (s : State) (h : HostPort) (w : Word), s.chip.TokenAt h w 6 :=
  ⟨tok 6 (up), .A, tokw 6, by constructor <;> decide +kernel⟩

theorem meets_hostNop_reserved : ∃ (s : State) (h : HostPort) (w : Word), s.chip.up = true ∧ s.chip.putWaits 50 = false ∧ s.chip.putWaits 51 = false ∧ (s.chip.queue (48 + portIx h)).head? = some w ∧ (s.chip.queue (48 + portIx h)).length ≤ 256 ∧ tokBad w = true ∧ (tokOp w = 0 ∨ 6 ≤ tokOp w) :=
  ⟨tok 7 (up), .A, tokw 7, by decide +kernel⟩

theorem meets_hostNop_bit : ∃ (s : State) (h : HostPort) (w : Word), s.chip.up = true ∧ s.chip.putWaits 50 = false ∧ s.chip.putWaits 51 = false ∧ (s.chip.queue (48 + portIx h)).head? = some w ∧ (s.chip.queue (48 + portIx h)).length ≤ 256 ∧ tokBad w = true ∧ tokOp w = 1 :=
  ⟨st (up.setQueue 48 [0x1109021]), .A, 0x1109021, by decide +kernel⟩

theorem meets_completionWrite : ∃ (s : State) (h : HostPort) (l tail : Nat) (tok : Word), (s.chip.host (portIx h)).link = true ∧ s.chip.fld (Reg.hostCqLen (portIx h)) 3 0 = l ∧ 4 ≤ l ∧ l ≤ 12 ∧ s.chip.rdN (Reg.hostCqTail (portIx h)) = tail ∧ tail < 2 ^ 32 ∧ serialDist 32 tail (s.chip.rdN (Reg.hostCqHead (portIx h))) < 2 ^ l ∧ (s.chip.queue (50 + portIx h)).length ≤ 256 ∧ ((s.chip.host (portIx h)).events ++ s.chip.queue (50 + portIx h)).head? = some tok :=
  ⟨st ((((up.modHost 0 fun x => { x with link := true }).setFld (Reg.hostCqLen 0) 3 0 4).setQueue 50 [1]).setFld (Reg.hostCqTail 0) 31 0 15), .A, 4, 15, 1, by decide +kernel⟩

theorem meets_completionWrite_event : ∃ (s : State) (h : HostPort) (l tail : Nat) (tok : Word), (s.chip.host (portIx h)).link = true ∧ s.chip.fld (Reg.hostCqLen (portIx h)) 3 0 = l ∧ 4 ≤ l ∧ l ≤ 12 ∧ s.chip.rdN (Reg.hostCqTail (portIx h)) = tail ∧ tail < 2 ^ 32 ∧ serialDist 32 tail (s.chip.rdN (Reg.hostCqHead (portIx h))) < 2 ^ l ∧ (s.chip.queue (50 + portIx h)).length ≤ 256 ∧ ((s.chip.host (portIx h)).events ++ s.chip.queue (50 + portIx h)).head? = some tok :=
  ⟨st ((((up.modHost 0 fun x => { x with link := true, events := [9] }).setFld (Reg.hostCqLen 0) 3 0 4).setQueue 50 [1]).setFld (Reg.hostCqTail 0) 31 0 15), .A, 4, 15, 9, by decide +kernel⟩

theorem meets_mailboxWrites : ∃ (s : State), (s.chip.up = true ∨ s.chip.boot.phase = .recovery) :=
  ⟨st up, by decide +kernel⟩

theorem meets_mailboxWrites_recovery : ∃ (s : State), (s.chip.up = true ∨ s.chip.boot.phase = .recovery) :=
  ⟨st { mail with boot := { mail.boot with phase := .recovery } }, by decide +kernel⟩

theorem meets_portReset : ∃ (s : State) (h : HostPort) (down : Bool) (i : Instr), (s.chip.up = true ∨ s.chip.boot.phase = .recovery) ∧ ((∃ k, i = .portReset h k ∧ down = decide (k ≠ .flr)) ∨ (i = .linkLoss h ∧ down = true)) :=
  ⟨st up, .A, true, .linkLoss .A, .inl (by decide +kernel), .inr ⟨rfl, rfl⟩⟩

theorem meets_portReset_flr : ∃ (s : State) (h : HostPort) (down : Bool) (i : Instr), (s.chip.up = true ∨ s.chip.boot.phase = .recovery) ∧ ((∃ k, i = .portReset h k ∧ down = decide (k ≠ .flr)) ∨ (i = .linkLoss h ∧ down = true)) :=
  ⟨st up, .A, false, .portReset .A .flr, .inl (by decide +kernel), .inl ⟨_, rfl, rfl⟩⟩

theorem meets_portReset_session : ∃ (s : State) (h : HostPort) (down : Bool) (i : Instr), (s.chip.up = true ∨ s.chip.boot.phase = .recovery) ∧ ((∃ k, i = .portReset h k ∧ down = decide (k ≠ .flr)) ∨ (i = .linkLoss h ∧ down = true)) :=
  ⟨st { mail with boot := { mail.boot with phase := .recovery, stageOwner := some (.host .A), stageOpen := true } }, .A, true, .linkLoss .A, .inr (by decide +kernel), .inr ⟨rfl, rfl⟩⟩

theorem meets_apertureAccess_down : ∃ (s : State) (h : HostPort) (off n : Nat), s.chip.up = true ∧ (s.chip.host (portIx h)).link = false :=
  ⟨st up, .A, 0, 8, by decide +kernel⟩

theorem meets_apertureAccess_stops : ∃ (s : State) (h : HostPort) (off n a : Nat), s.chip.up = true ∧ a = s.chip.apertureAddr (portIx h) off ∧ (s.chip.host (portIx h)).link = true ∧ 0 < n ∧ off + n ≤ 2 ^ 36 ∧ s.chip.apertureRange a n = false :=
  ⟨st (up.modHost 0 fun x => { x with link := true }), .A, 0xF0F0E0000, 8, 0xF0F0E0000, by decide +kernel⟩

theorem meets_apertureAccess : ∃ (s : State) (h : HostPort) (off n a : Nat), s.chip.up = true ∧ a = s.chip.apertureAddr (portIx h) off ∧ (s.chip.host (portIx h)).link = true ∧ 0 < n ∧ off + n ≤ 2 ^ 36 ∧ s.chip.apertureRange a n = true :=
  ⟨st ((up.modHost 0 fun x => { x with link := true }).setFld (Reg.hostAperture 0) 43 36 64), .A, 0x6000000, 64, 0x40006000000, by decide +kernel⟩

theorem meets_pcieCompletionError : ∃ (s : State) (h : HostPort) (k : Option Slot) (dst len : Nat), s.chip.up = true :=
  ⟨st run, .A, some 2, 0x40006000000, 8, by decide +kernel⟩

theorem meets_pcieLinkUp : ∃ (s : State) (h : HostPort) (speed : Fin 7) (width : Nat) (flit : Bool), (s.chip.up = true ∨ s.chip.boot.phase = .recovery) ∧ 1 ≤ speed.val ∧ width ∈ [1, 2, 4, 8] :=
  ⟨st up, .A, 5, 8, true, .inl (by decide +kernel), by decide +kernel⟩

theorem meets_registerWrite_size : ∃ (s : State) (w : Writer) (a : Nat) (size : Nat), s.chip.up = true ∧ a < 0x10000000 ∧ (size ≠ 8 ∨ a % 8 ≠ 0) :=
  ⟨st up, .host .A, 4, 8, by decide +kernel⟩

theorem meets_registerWrite_none : ∃ (s : State) (w : Writer) (a : Nat), s.chip.up = true ∧ a < 0x10000000 ∧ a % 8 = 0 ∧ regDefAt a = none ∧ s.chip.mayWrite w a = true :=
  ⟨st up, .host .A, 0xFFFFFF8, by decide +kernel⟩

theorem meets_registerWrite_irq : ∃ (s : State) (w : Writer) (a : Nat), s.chip.up = true ∧ a < 0x10000000 ∧ s.chip.mayWrite w a = true ∧ a = Reg.irqMask :=
  ⟨st up, .host .A, Reg.irqMask, by decide +kernel⟩

theorem meets_registerWrite_wing : ∃ (s : State) (w : Writer) (a : Nat) (n : Nat), s.chip.up = true ∧ a < 0x10000000 ∧ n < 16 ∧ s.chip.mayWrite w a = true ∧ a = Reg.wingMask n :=
  ⟨st up, .host .A, Reg.wingMask 15, 15, by decide +kernel⟩

theorem meets_registerWrite_gal : ∃ (s : State) (w : Writer) (a : Nat) (n g : Nat), s.chip.up = true ∧ a < 0x10000000 ∧ n < 16 ∧ g < 300 ∧ s.chip.mayWrite w a = true ∧ a = Reg.galMask n g :=
  ⟨st up, .host .A, Reg.galMask 15 299, 15, 299, by decide +kernel⟩

theorem meets_registerWrite_flags0 : ∃ (s : State) (w : Writer) (a : Nat) (n g x : Nat) (j : Fin 18), s.chip.up = true ∧ a < 0x10000000 ∧ n < 16 ∧ g < 300 ∧ x < 2 ∧ (clearedByOne n g x)[j].1 = a ∧ s.chip.mayWrite w a = true :=
  ⟨st up, .host .A, (clearedByOne 15 299 1)[0].1, 15, 299, 1, 0, by decide +kernel⟩

theorem meets_registerWrite_flags17 : ∃ (s : State) (w : Writer) (a : Nat) (n g x : Nat) (j : Fin 18), s.chip.up = true ∧ a < 0x10000000 ∧ n < 16 ∧ g < 300 ∧ x < 2 ∧ (clearedByOne n g x)[j].1 = a ∧ s.chip.mayWrite w a = true :=
  ⟨st up, .host .A, (clearedByOne 15 299 1)[17].1, 15, 299, 1, 17, by decide +kernel⟩

theorem meets_registerWrite_priv : ∃ (s : State) (w : Writer) (a : Nat) (h : HostPort), s.chip.up = true ∧ a < 0x10000000 ∧ a % 8 = 0 ∧ w = .host h ∧ s.chip.mayWrite w a = false :=
  ⟨st up, .host .B, Reg.irqMask, .B, by decide +kernel⟩

theorem meets_accessionRecovery : ∃ (s : State) (samples : List (BitVec 8)) (puf : Option (List Byte)) (hang : Option Nat) (u : BringUp), s.chip.mayAccede ∧ (s.chip.strapSeen samples 1 = true ∨ ∀ k ∈ s.chip.boot.bankOrder, (s.chip.boot.spoil u).bankOk k = false) :=
  ⟨State.reset, [2, 0xFF], none, none, noTrouble, ⟨.inl rfl, rfl⟩, .inl (by decide +kernel)⟩

theorem meets_accessionIdle : ∃ (s : State) (samples : List (BitVec 8)) (puf : Option (List Byte)) (hang : Option Nat) (u : BringUp), (s.chip.boot.phase = .up ∨ s.chip.boot.phase = .recovery ∨ s.chip.boot.wdog = true) :=
  ⟨st up, [], none, none, noTrouble, .inl (by decide +kernel)⟩

theorem meets_accessionIdle_hung : ∃ (s : State) (samples : List (BitVec 8)) (puf : Option (List Byte)) (hang : Option Nat) (u : BringUp), (s.chip.boot.phase = .up ∨ s.chip.boot.phase = .recovery ∨ s.chip.boot.wdog = true) :=
  ⟨st { up with boot := { up.boot with phase := .starting, wdog := true } }, [], none, none, noTrouble, .inr (.inr (by decide +kernel))⟩

theorem meets_accWdogExpiry : ∃ (s : State), s.chip.boot.wdog = true :=
  ⟨st { Chip.reset with boot := { Boot.reset with wdog := true } }, by decide +kernel⟩

theorem meets_retainedSaveDone : ∃ (s : State) (r : Retained), s.chip.boot.saving = some r :=
  ⟨st { up with boot := { up.boot with saving := some keptNone } }, keptNone, by decide +kernel⟩

theorem meets_downNotice : ∃ (s : State) (w : Writer) (v : Word), s.chip.up = true ∧ s.chip.mayWrite w Reg.pwrCtrl = true :=
  ⟨st up, .host .A, 1, by decide +kernel⟩

theorem meets_stageOpen : ∃ (s : State) (src : MboxSrc), s.chip.Serves src true true :=
  ⟨st mail, (.host .A), serves_primary (by decide +kernel) (by decide +kernel) (by decide +kernel)⟩

theorem meets_stageOpen_open : ∃ (s : State) (src : MboxSrc), s.chip.Serves src true true :=
  ⟨st { mail with boot := { mail.boot with stageOpen := true } }, (.host .A), serves_primary (by decide +kernel) (by decide +kernel) (by decide +kernel)⟩

theorem meets_stageCommit : ∃ (s : State) (src : MboxSrc), s.chip.Serves src true true :=
  ⟨st mail, (.host .A), serves_primary (by decide +kernel) (by decide +kernel) (by decide +kernel)⟩

theorem meets_stageCommit_open : ∃ (s : State) (src : MboxSrc), s.chip.Serves src true true :=
  ⟨st { mail with boot := { mail.boot with stageOpen := true } }, (.host .A), serves_primary (by decide +kernel) (by decide +kernel) (by decide +kernel)⟩

theorem meets_stageAbort : ∃ (s : State) (src : MboxSrc), s.chip.Serves src true true :=
  ⟨st mail, (.host .A), serves_primary (by decide +kernel) (by decide +kernel) (by decide +kernel)⟩

theorem meets_stageAbort_open : ∃ (s : State) (src : MboxSrc), s.chip.Serves src true true :=
  ⟨st { mail with boot := { mail.boot with stageOpen := true } }, (.host .A), serves_primary (by decide +kernel) (by decide +kernel) (by decide +kernel)⟩

theorem meets_stageCommit_recovery : ∃ (s : State) (src : MboxSrc), s.chip.Serves src true true :=
  ⟨st { mail with boot := { mail.boot with phase := .recovery, stageOpen := true } }, .uart, ⟨.inr (by decide +kernel), fun h => absurd h (by decide +kernel), fun _ => rfl, fun h e => nomatch e⟩⟩

theorem meets_stageCommit_taken : ∃ (s : State) (src : MboxSrc), s.chip.Serves src true true :=
  ⟨st { mail with boot := { mail.boot with phase := .recovery, stageOpen := true, stageOwner := some (.host .B) } }, (.host .A), ⟨.inr (by decide +kernel), fun h => absurd h (by decide +kernel), fun _ => rfl, fun h e => by cases e; decide +kernel⟩⟩

theorem meets_stageEraseDone : ∃ (s : State) (src : MboxSrc) (k : Nat), s.chip.boot.erasing = some (src, k) :=
  ⟨st { up with boot := { up.boot with erasing := some (.host .A, 1) } }, .host .A, 1, by decide +kernel⟩

theorem meets_stageData : ∃ (s : State) (src : MboxSrc) (off : Nat) (data : List Byte), s.chip.Serves src true true :=
  ⟨st { mail with boot := { mail.boot with stageOpen := true } }, (.host .A), 0, [1], serves_primary (by decide +kernel) (by decide +kernel) (by decide +kernel)⟩

theorem meets_stageData_offset : ∃ (s : State) (src : MboxSrc) (off : Nat) (data : List Byte), s.chip.Serves src true true :=
  ⟨st { mail with boot := { mail.boot with stageOpen := true } }, (.host .A), 1, [1], serves_primary (by decide +kernel) (by decide +kernel) (by decide +kernel)⟩

theorem meets_stageData_closed : ∃ (s : State) (src : MboxSrc) (off : Nat) (data : List Byte), s.chip.Serves src true true :=
  ⟨st mail, (.host .A), 0, [1], serves_primary (by decide +kernel) (by decide +kernel) (by decide +kernel)⟩

theorem meets_profileWrite : ∃ (s : State) (src : MboxSrc) (k : Fin 16) (off : Nat) (data : List Byte) (part : Nat), s.chip.Serves src true true :=
  ⟨st mail, (.host .A), 15, 0xFFFF, [1], 0, serves_primary (by decide +kernel) (by decide +kernel) (by decide +kernel)⟩

theorem meets_profileWrite_past : ∃ (s : State) (src : MboxSrc) (k : Fin 16) (off : Nat) (data : List Byte) (part : Nat), s.chip.Serves src true true :=
  ⟨st mail, (.host .A), 15, 0xFFFF, [1, 2], 1, serves_primary (by decide +kernel) (by decide +kernel) (by decide +kernel)⟩

theorem meets_mboxRefused : ∃ (s : State) (i : Instr) (src : MboxSrc) (changes inRecovery : Bool), mboxRow i = some (src, changes, inRecovery) ∧ s.chip.up = true ∧ s.chip.flag (Reg.hostMbox 1) 0 = true ∧ changes = true ∧ src ≠ .host s.chip.primary :=
  ⟨st (up.setFlag (Reg.hostMbox 1) 0 true), .stageOpen (.host .B), .host .B, true, true, rfl, by decide +kernel⟩

theorem meets_mboxRefused_recovery : ∃ (s : State) (i : Instr) (src : MboxSrc) (changes inRecovery : Bool), mboxRow i = some (src, changes, inRecovery) ∧ s.chip.boot.phase = .recovery ∧ s.chip.flag (Reg.hostMbox 0) 0 = true ∧ inRecovery = false :=
  ⟨st { mail with boot := { mail.boot with phase := .recovery } }, .attest (.host .A) [], .host .A, false, false, rfl, by decide +kernel⟩

theorem meets_mboxRefused_go : ∃ (s : State) (i : Instr) (src : MboxSrc) (changes inRecovery : Bool) (h : HostPort), mboxRow i = some (src, changes, inRecovery) ∧ src = .host h ∧ s.chip.flag (Reg.hostMbox (portIx h)) 0 = false :=
  ⟨st up, .getCert (.host .A), .host .A, false, true, .A, rfl, by decide +kernel⟩

theorem meets_uartFrame_bad : ∃ (s : State) (bytes : List Byte), (s.chip.up = true ∨ s.chip.boot.phase = .recovery) ∧ frameMessage bytes = none :=
  ⟨st up, [1], by decide +kernel⟩

theorem meets_uartFrame_code : ∃ (s : State) (bytes : List Byte) (m : List Byte), (s.chip.up = true ∨ s.chip.boot.phase = .recovery) ∧ frameMessage bytes = some m ∧ bits (ofLeBytes (m.take 8)) 31 16 ∉ [0x0100, 0x0101, 0x0102, 0x0103, 0x0104, 0x0110, 0x0200, 0x0201] :=
  ⟨st up, uartFrameOf (leBytes 8 (0x9999 * 2 ^ 16)), leBytes 8 (0x9999 * 2 ^ 16), by decide +kernel⟩

theorem meets_uartFrame : ∃ (s : State) (bytes : List Byte) (m : List Byte) (i : Instr), (s.chip.up = true ∨ s.chip.boot.phase = .recovery) ∧ frameMessage bytes = some m ∧ uartCommand m = some i :=
  ⟨st up, uartFrameOf (leBytes 8 (0x0104 * 2 ^ 16)), leBytes 8 (0x0104 * 2 ^ 16), .stageStatus .uart, by decide +kernel, by decide +kernel, rfl⟩

theorem meets_uartFrame_off : ∃ (s : State) (bytes : List Byte), s.chip.up = false ∧ s.chip.boot.phase ≠ .recovery :=
  ⟨State.reset, [1], by decide +kernel⟩

theorem meets_turnstileOff_0 : ∃ (s : State) (i : Instr), s.ts.powered = false ∧ ((∃ vs vv opens, i = .turnstileSample vs vv opens) ∨ i = .turnstileReading ∨ (∃ d, i = .smbusPointerWrite d) ∨ (∃ n last, i = .smbusRead n last) ∨ i = .smbusReadTimeout) :=
  ⟨State.reset, .turnstileSample [] [] 0, by decide +kernel, .inl ⟨_, _, _, rfl⟩⟩

theorem meets_turnstileOff_1 : ∃ (s : State) (i : Instr), s.ts.powered = false ∧ ((∃ vs vv opens, i = .turnstileSample vs vv opens) ∨ i = .turnstileReading ∨ (∃ d, i = .smbusPointerWrite d) ∨ (∃ n last, i = .smbusRead n last) ∨ i = .smbusReadTimeout) :=
  ⟨State.reset, .turnstileReading, by decide +kernel, .inr (.inl rfl)⟩

theorem meets_turnstileOff_2 : ∃ (s : State) (i : Instr), s.ts.powered = false ∧ ((∃ vs vv opens, i = .turnstileSample vs vv opens) ∨ i = .turnstileReading ∨ (∃ d, i = .smbusPointerWrite d) ∨ (∃ n last, i = .smbusRead n last) ∨ i = .smbusReadTimeout) :=
  ⟨State.reset, .smbusPointerWrite [], by decide +kernel, .inr (.inr (.inl ⟨_, rfl⟩))⟩

theorem meets_turnstileOff_3 : ∃ (s : State) (i : Instr), s.ts.powered = false ∧ ((∃ vs vv opens, i = .turnstileSample vs vv opens) ∨ i = .turnstileReading ∨ (∃ d, i = .smbusPointerWrite d) ∨ (∃ n last, i = .smbusRead n last) ∨ i = .smbusReadTimeout) :=
  ⟨State.reset, .smbusRead 4 true, by decide +kernel, .inr (.inr (.inr (.inl ⟨_, _, rfl⟩)))⟩

theorem meets_turnstileOff_4 : ∃ (s : State) (i : Instr), s.ts.powered = false ∧ ((∃ vs vv opens, i = .turnstileSample vs vv opens) ∨ i = .turnstileReading ∨ (∃ d, i = .smbusPointerWrite d) ∨ (∃ n last, i = .smbusRead n last) ∨ i = .smbusReadTimeout) :=
  ⟨State.reset, .smbusReadTimeout, by decide +kernel, .inr (.inr (.inr (.inr rfl)))⟩

theorem meets_turnstileReading : ∃ (s : State), s.ts.powered = true :=
  ⟨{ State.reset with ts := meter }, by decide +kernel⟩

theorem meets_turnstileReading_held : ∃ (s : State), s.ts.powered = true :=
  ⟨{ State.reset with ts := { meter with reading := some 1 } }, by decide +kernel⟩

theorem meets_smbusPointerWrite : ∃ (s : State) (data : List Byte), s.ts.powered = true :=
  ⟨{ State.reset with ts := meter }, [0, 0, 1], by decide +kernel⟩

theorem meets_smbusPointerWrite_short : ∃ (s : State) (data : List Byte), s.ts.powered = true :=
  ⟨{ State.reset with ts := meter }, [0, 1], by decide +kernel⟩

theorem meets_smbusRead : ∃ (s : State) (len : Nat) (last : Bool), s.ts.powered = true :=
  ⟨{ State.reset with ts := meter }, 4, true, by decide +kernel⟩

theorem meets_smbusRead_on : ∃ (s : State) (len : Nat) (last : Bool), s.ts.powered = true :=
  ⟨{ State.reset with ts := meter }, 4, false, by decide +kernel⟩

theorem meets_smbusReadTimeout : ∃ (s : State), s.ts.powered = true :=
  ⟨{ State.reset with ts := { meter with reading := some 0, held := some [1] } }, by decide +kernel⟩

theorem meets_turnstilePowerUp : ∃ (s : State), s.ts.powered = false :=
  ⟨{ State.reset with ts := { meter with powered := false, copy0 := some { seq := 4, total := [1, 2, 3, 4], secs := 240 }, copy1 := some { seq := 5, total := [2, 3, 4, 5], secs := 300 } } }, by decide +kernel⟩

theorem meets_turnstilePowerLoss : ∃ (s : State), s.ts.powered = true :=
  ⟨{ State.reset with ts := { meter with copy0 := some { seq := 4, total := [1, 2, 3, 4], secs := 240 }, copy1 := some { seq := 5, total := [2, 3, 4, 5], secs := 300 } } }, by decide +kernel⟩

theorem meets_rowRefused : ∃ (s : State) (i : Instr) (h : HostPort) (a : Nat), writesRow i = some (.host h, a) ∧ s.chip.up = true ∧ s.chip.mayWrite (.host h) a = false :=
  ⟨st up, .downNotice (.host .B) 1, .B, Reg.pwrCtrl, rfl, by decide +kernel⟩

theorem meets_rowRefused_closed : ∃ (s : State) (i : Instr) (w : Writer) (a : Nat), writesRow i = some (w, a) ∧ s.chip.up = false ∧ (¬ (0x7000 ≤ a ∧ a < 0x7100)) :=
  ⟨State.reset, .periodWrite .pendun 4, .pendun, Reg.tickPeriod, rfl, by decide +kernel⟩

theorem meets_quotaWrite : ∃ (s : State) (w : Writer) (k q : Nat), s.chip.up = true ∧ k < 16 ∧ q < 8 ∧ s.chip.mayWrite w (Reg.quota (8 * k + q)) = true :=
  ⟨st up, .host .A, 15, 7, by decide +kernel⟩

theorem meets_quotaWrite_closed : ∃ (s : State) (r : AllocReq), s.chip.quotaOf r.task r.qclass = 0 ∧ 0 < r.blocks ∧ s.chip.quotaOf r.task r.qclass < s.chip.quotaUse r.task r.qclass + r.blocks :=
  ⟨st run, { task := 2, qclass := 0, blocks := 1, kind := 3, owner := 3, askWing := 3, askGal := 7, askThread := 4 }, by decide +kernel⟩

theorem meets_primaryRule : ∃ (s : State) (h : HostPort), s.chip.up = true ∧ h = s.chip.primary :=
  ⟨st up, .A, by decide +kernel⟩

theorem meets_primaryRule_other : ∃ (s : State) (h : HostPort), s.chip.up = true ∧ h ≠ s.chip.primary ∧ (s.chip.host (portIx s.chip.primary)).link = false :=
  ⟨st up, .B, by decide +kernel⟩

/-! ### Accession of a bank that passes

Which keys the boot ROM trusts and which signatures verify are opaque (log 9), so that no bank can be shown to pass by itself. Where erased
flash is a trusted key and every signature is accepted, the bank built here passes and its profile is in order. -/

/-- A component row of a manifest: one erased byte at a place of its own. -/
def comp (k : Nat) : List Byte :=
  leBytes 2 k ++ [0, 0] ++ leBytes 4 (8192 + 4096 * k) ++ leBytes 4 1 ++ List.replicate 20 0 ++ shake256 32 [0xFF]

/-- A profile entry that sets bits of one register. -/
def entry (a v mask : Nat) : List Byte := leBytes 8 (regSpaceBase + a) ++ leBytes 8 v ++ leBytes 8 mask

/-- A profile that sets the five required fields and nothing else. -/
def profile : List Byte :=
  [1, 0, 0, 0] ++ leBytes 4 4 ++ List.replicate 24 0 ++ entry Reg.regCtrl 0x20000000 0xFFFE0000000 ++
    entry Reg.censusBase 0x1000000000 0xFFFFFFFFFC0 ++ entry Reg.censusShape 1 0xFFFFFFF ++ entry Reg.censusScale 0x2000000000 0xFFFFFFFFF80

/-- Bytes that stand in flash from an address on. -/
def flashRun : Nat → List Byte → NMap Byte
  | _, [] => []
  | a, x :: xs => (a, x) :: flashRun (a + 1) xs

/-- The component rows of the manifest. -/
def rows : List Byte := (List.range 7).flatMap fun i => comp (i + 1)

/-- Flash with a manifest in bank 0 and the bytes given as profile 0. -/
def flash (p : List Byte) : Boot :=
  { Boot.reset with flash := flashRun (profileBase 0) p ++ flashRun (bankBase 0) [1, 7] ++ flashRun (bankBase 0 + 1984) rows }

/-- A part held in reset with that flash. -/
def part (p : List Byte) : Chip := { Chip.reset with boot := flash p }

theorem flashRun_keys (a : Nat) (l : List Byte) : ∀ e ∈ flashRun a l, a ≤ e.1 ∧ e.1 < a + l.length := by
  induction l generalizing a with
  | nil => exact fun e h => nomatch h
  | cons x xs ih =>
    intro e he
    rcases List.mem_cons.mp he with rfl | he
    · exact ⟨Nat.le_refl _, by simp⟩
    · have := ih _ e he
      rw [List.length_cons]
      omega

theorem find_append {α : Type} (m l : NMap α) (k : Nat) (h : ∀ e ∈ m, e.1 ≠ k) : NMap.find (m ++ l) k = NMap.find l k := by
  induction m with
  | nil => rfl
  | cons e t ih =>
    rw [List.cons_append, NMap.find, if_neg (h e (List.mem_cons_self ..))]
    exact ih fun x hx => h x (List.mem_cons_of_mem _ hx)

theorem find_flashRun (a : Nat) (l : List Byte) (r : NMap Byte) (i : Nat) (h : i < l.length) : NMap.find (flashRun a l ++ r) (a + i) = some l[i] := by
  induction l generalizing a i with
  | nil => exact absurd h (Nat.not_lt_zero _)
  | cons x xs ih =>
    cases i with
    | zero => simp only [flashRun, List.cons_append, NMap.find, Nat.add_zero, if_true, List.getElem_cons_zero]
    | succ i =>
      rw [flashRun, List.cons_append, NMap.find, if_neg (by omega), show a + (i + 1) = a + 1 + i by omega, ih _ _ (Nat.lt_of_succ_lt_succ h)]
      rfl

/-- What a run of bytes in flash reads as. -/
theorem read_flashRun (b : Boot) (m r : NMap Byte) (a : Nat) (l : List Byte) (hb : b.flash = m ++ (flashRun a l ++ r)) (hm : ∀ e ∈ m, e.1 < a ∨ a + l.length ≤ e.1)
    (x i n : Nat) (hx : x = a + i) (h : i + n ≤ l.length) : b.flashBytes x n = (l.drop i).take n := by
  subst hx
  refine List.ext_getElem (by simp [Boot.flashBytes]; omega) fun k h1 h2 => ?_
  simp only [Boot.flashBytes, List.length_map, List.length_range] at h1
  simp only [Boot.flashBytes, List.getElem_map, List.getElem_range, List.getElem_take, List.getElem_drop, Boot.flashByte, NMap.get, hb]
  rw [find_append m _ _ (fun e he => by have := hm e he; omega), Nat.add_assoc, find_flashRun a l r (i + k) (by omega)]
  rfl

/-- Flash in which nothing stands reads erased. -/
theorem flashBytes_erased (b : Boot) (a n : Nat) (h : ∀ e ∈ b.flash, e.1 < a ∨ a + n ≤ e.1) : b.flashBytes a n = List.replicate n 0xFF := by
  unfold Boot.flashBytes
  refine List.eq_replicate_iff.mpr ⟨by simp, fun x hx => ?_⟩
  obtain ⟨k, hk, rfl⟩ := List.mem_map.mp hx
  have hk := List.mem_range.mp hk
  have := find_append b.flash [] (a + k) fun e he => by have := h e he; omega
  rw [List.append_nil] at this
  unfold Boot.flashByte NMap.get
  rw [this]
  rfl

theorem flash_keys (p : List Byte) : ∀ e ∈ (flash p).flash, (profileBase 0 ≤ e.1 ∧ e.1 < profileBase 0 + p.length) ∨
    (bankBase 0 ≤ e.1 ∧ e.1 < bankBase 0 + 2) ∨ (bankBase 0 + 1984 ≤ e.1 ∧ e.1 < bankBase 0 + 1984 + 448) := by
  intro e he
  have hl : rows.length = 448 := by decide +kernel
  rcases List.mem_append.mp he with he | he
  · rcases List.mem_append.mp he with he | he
    · exact .inl (flashRun_keys _ _ e he)
    · exact .inr (.inl (flashRun_keys _ _ e he))
  · rw [← hl]
    exact .inr (.inr (flashRun_keys _ _ e he))

/-- A bank of seven components that passes each part of its check. -/
theorem bankOk_of (b : Boot) (k : Nat) (h0 : b.flashNum (bankBase k) 1 = 1) (h1 : b.flashNum (bankBase k + 1) 1 = 7)
    (hk : shake256 32 (b.flashBytes (bankBase k + 32) 1952) = Config.romKeyDigest 0) (sig : ∀ k m g, Config.mldsaVerify k m g = true)
    (h2 : bit (b.flashNum (bankBase k + 2) 2) b.factory.grade.val = true) (h3 : b.floor ≤ b.svn k) (h4 : componentsOk (b.components k) = true)
    (h5 : ((b.components k).all fun x => decide (shake256 32 (b.flashBytes (bankBase k + x.offset) x.length) = x.digest)) = true) :
    b.bankOk k = true := by
  unfold Boot.bankOk
  simp only [h0, h1, hk, sig, h2, decide_eq_true h3, h4, h5]
  decide

/-- The components of that bank. -/
def parts : List Component := (List.range 7).map fun i => ⟨i + 1, 8192 + 4096 * (i + 1), 1, shake256 32 [0xFF]⟩

theorem bases : profileBase 0 = 0x60000 ∧ bankBase 0 = 0xA00000 := by decide

/-- What the component rows read as. -/
theorem read_rows (p : List Byte) (hp : p.length ≤ 4096) (x i n : Nat) (hx : x = bankBase 0 + 1984 + i) (h : i + n ≤ 448) :
    (flash p).flashBytes x n = (rows.drop i).take n := by
  have hl : rows.length = 448 := by decide +kernel
  refine read_flashRun (flash p) (flashRun (profileBase 0) p ++ flashRun (bankBase 0) [1, 7]) [] (bankBase 0 + 1984) rows (by simp only [flash, List.append_nil]) ?_ x i n hx
    (by omega)
  intro e he
  have := bases
  rcases List.mem_append.mp he with he | he
  · have := flashRun_keys _ _ e he
    omega
  · have := flashRun_keys _ _ e he
    simp only [List.length_cons, List.length_nil] at this
    omega

/-- The head of the manifest: VER and the number of components. -/
theorem read_head (p : List Byte) (hp : p.length ≤ 4096) (i n : Nat) (h : i + n ≤ 2) :
    (flash p).flashBytes (bankBase 0 + i) n = (([1, 7] : List Byte).drop i).take n := by
  refine read_flashRun (flash p) (flashRun (profileBase 0) p) (flashRun (bankBase 0 + 1984) rows) (bankBase 0) [1, 7] (by simp only [flash, List.append_assoc]) ?_ _ i n rfl h
  intro e he
  have := bases
  have := flashRun_keys _ _ e he
  omega

/-- Elsewhere in the bank flash is erased. -/
theorem read_erased (p : List Byte) (hp : p.length ≤ 4096) (x n : Nat) (h : (bankBase 0 + 2 ≤ x ∧ x + n ≤ bankBase 0 + 1984) ∨ bankBase 0 + 1984 + 448 ≤ x) :
    (flash p).flashBytes x n = List.replicate n 0xFF := by
  refine flashBytes_erased _ _ _ fun e he => ?_
  have := flash_keys p e he
  have := bases
  omega

theorem bank_components (p : List Byte) (hp : p.length ≤ 4096) : (flash p).components 0 = parts := by
  unfold Boot.components parts
  rw [Boot.flashNum, read_head p hp 1 1 (by omega)]
  refine List.map_congr_left fun i hi => ?_
  have hi : i < 7 := List.mem_range.mp hi
  simp only [Boot.flashNum]
  rw [read_rows p hp (bankBase 0 + 1984 + 64 * i) (64 * i) 2 rfl (by omega),
    read_rows p hp (bankBase 0 + 1984 + 64 * i + 4) (64 * i + 4) 4 (Nat.add_assoc ..) (by omega),
    read_rows p hp (bankBase 0 + 1984 + 64 * i + 8) (64 * i + 8) 4 (Nat.add_assoc ..) (by omega),
    read_rows p hp (bankBase 0 + 1984 + 64 * i + 32) (64 * i + 32) 32 (Nat.add_assoc ..) (by omega)]
  have : ∀ i < 7, (⟨ofLeBytes ((rows.drop (64 * i)).take 2), ofLeBytes ((rows.drop (64 * i + 4)).take 4), ofLeBytes ((rows.drop (64 * i + 8)).take 4),
      (rows.drop (64 * i + 32)).take 32⟩ : Component) = ⟨i + 1, 8192 + 4096 * (i + 1), 1, shake256 32 [0xFF]⟩ := by decide +kernel
  exact this i hi

/-- The bank passes. -/
theorem bank_ok (p : List Byte) (hp : p.length ≤ 4096) (rom : Config.romKeyDigest 0 = shake256 32 (List.replicate 1952 0xFF))
    (sig : ∀ k m g, Config.mldsaVerify k m g = true) : (flash p).bankOk 0 = true := by
  have hc := bank_components p hp
  refine bankOk_of _ 0 ?_ ?_ ?_ sig ?_ ?_ (by rw [hc]; decide +kernel) ?_
  · rw [Boot.flashNum, show bankBase 0 = bankBase 0 + 0 from rfl, read_head p hp 0 1 (by omega)]
    decide
  · rw [Boot.flashNum, read_head p hp 1 1 (by omega)]
    decide
  · rw [read_erased p hp _ _ (.inl (by omega)), rom]
  · rw [Boot.flashNum, read_erased p hp _ _ (.inl (by omega))]
    exact (by decide : bit (ofLeBytes (List.replicate 2 0xFF)) Factory.reset.grade.val = true)
  · exact Nat.zero_le _
  · rw [hc]
    refine List.all_eq_true.mpr fun x hx => ?_
    obtain ⟨i, hi, rfl⟩ := List.mem_map.mp hx
    have := bases
    refine decide_eq_true ?_
    rw [read_erased p hp _ _ (.inr (by show _ ≤ bankBase 0 + (8192 + 4096 * (i + 1)); omega))]
    rfl

/-- The registers of the required fields, the straps and the annexes. -/
def kept (a : Nat) : Prop := a = 0x2000 ∨ a = 0x1200 ∨ a = 0x1208 ∨ a = 0x1210 ∨ a = 0x7000 ∨ ∃ n < 16, a = wingReg n 0x1408 ∨ a = wingReg n 0x1410

/-- The start-up state is b, and those registers stand at reset. -/
def Kept (b : Boot) (d : Chip) : Prop := d.boot = b ∧ ∀ a, kept a → d.rd a = regReset a

theorem kept_wr {b : Boot} {d : Chip} (h : Kept b d) (r : Nat) (v : Word) (hr : ¬ kept r) : Kept b (d.wr r v) := by
  refine ⟨h.1, fun a ha => ?_⟩
  rw [← h.2 a ha]
  exact NMap.get_set_ne _ _ _ (fun e => hr (e ▸ ha))

theorem reset_values : regReset 0x2000 = 0x1000000000000 ∧ regReset 0x1200 = 0 ∧ regReset 0x1208 = 0 ∧ regReset 0x1210 = 0 ∧
    regReset 0x7000 = 0 ∧ ∀ n < 16, regReset (wingReg n 0x1410) = 0 := by decide +kernel

theorem Kept.strap {b : Boot} {d : Chip} (k : Kept b d) : d.rd Reg.bootStrap = 0 :=
  (k.2 _ (.inr (.inr (.inr (.inr (.inl rfl)))))).trans reset_values.2.2.2.2.1

theorem Kept.fields {b : Boot} {x : Chip} (k : Kept b x) :
    x.rd Reg.regCtrl = 0x1000000000000 ∧ x.rd Reg.censusBase = 0 ∧ x.rd Reg.censusShape = 0 ∧ x.rd Reg.censusScale = 0 :=
  ⟨(k.2 _ (.inl rfl)).trans reset_values.1, (k.2 _ (.inr (.inl rfl))).trans reset_values.2.1,
    (k.2 _ (.inr (.inr (.inl rfl)))).trans reset_values.2.2.1, (k.2 _ (.inr (.inr (.inr (.inl rfl))))).trans reset_values.2.2.2.1⟩

theorem Kept.annex {b : Boot} {x : Chip} (k : Kept b x) (n : Nat) (hn : n < 16) : x.rd (Reg.memAnnexSize n) = 0 :=
  (k.2 _ (.inr (.inr (.inr (.inr (.inr ⟨n, hn, .inr rfl⟩)))))).trans (reset_values.2.2.2.2.2 n hn)

theorem kept_wing (n o : Nat) (hn : n < 16) (ho : o < 0x100000) (h1 : o ≠ 0x1408) (h2 : o ≠ 0x1410) : ¬ kept (wingReg n o) := by
  unfold kept wingReg
  rintro (h | h | h | h | h | ⟨m, hm, h | h⟩) <;> omega

theorem kept_gal (n g o : Nat) (hn : n < 16) (hg : g < 300) (ho : o < 0x1000) : ¬ kept (galReg n g o) := by
  unfold kept galReg wingReg
  rintro (h | h | h | h | h | ⟨m, hm, h | h⟩) <;> omega

theorem kept_low (r : Nat) (h : r < 0x1000000) (h1 : r ≠ 0x2000 ∧ r ≠ 0x1200 ∧ r ≠ 0x1208 ∧ r ≠ 0x1210 ∧ r ≠ 0x7000) : ¬ kept r := by
  unfold kept wingReg
  rintro (h | h | h | h | h | ⟨m, hm, h | h⟩) <;> omega

theorem foldl_inv {α β : Type} (P : α → Prop) (f : α → β → α) (l : List β) (x : α) (h : P x) (hs : ∀ d, ∀ y ∈ l, P d → P (f d y)) :
    P (l.foldl f x) := by
  induction l generalizing x with
  | nil => exact h
  | cons y ys ih =>
    exact ih _ (hs x y (List.mem_cons_self ..) h) fun d z hz hd => hs d z (List.mem_cons_of_mem _ hz) hd

/-- The shipped settings touch none of those registers. -/
theorem kept_shipped {b : Boot} {d : Chip} (h : Kept b d) : Kept b d.shipped := by
  unfold Chip.shipped
  simp only [Chip.setFld, Chip.setFlag, Chip.wrMask]
  refine foldl_inv _ _ _ _ ?_ ?_
  · refine kept_wr (kept_wr h _ _ ?_) _ _ ?_ <;> exact kept_low _ (by decide) (by decide)
  · intro e n hn he
    have hn := List.mem_range.mp hn
    refine foldl_inv _ _ _ _ ?_ ?_
    · refine foldl_inv _ _ _ _ ?_ ?_
      · repeat' refine kept_wr ?_ _ _ (kept_wing _ _ hn (by omega) (by omega) (by omega))
        split
        · refine foldl_inv _ _ _ _ ?_ ?_
          · repeat' refine kept_wr ?_ _ _ (kept_wing _ _ hn (by omega) (by omega) (by omega))
            exact he
          · intro e k hk he
            have hk := List.mem_range.mp hk
            exact kept_wr he _ _ (kept_wing _ _ hn (by omega) (by omega) (by omega))
        · exact he
      · intro e k hk he
        have hk := List.mem_range.mp hk
        exact kept_wr he _ _ (kept_wing _ _ hn (by omega) (by omega) (by omega))
    · intro e g hg he
      have hg := List.mem_range.mp hg
      exact kept_wr he _ _ (kept_gal _ _ _ hn hg (by omega))

/-- One entry of a profile that names one register. -/
theorem apply_entry (c : Chip) (b : Boot) (base fuel k r : Nat) (v m : Word) (hb : c.boot = b)
    (hp : profileRegs (w64 (b.flashNum (base + 32 + 24 * k) 8)) = some [r]) (hv : w64 (b.flashNum (base + 32 + 24 * k + 8) 8) = v)
    (hm : w64 (b.flashNum (base + 32 + 24 * k + 16) 8) = m) (he : entryOk r m v = true) :
    c.applyEntries base (fuel + 1) k = (c.wrMask r m v).applyEntries base fuel (k + 1) := by
  subst hb
  rw [Chip.applyEntries]
  simp only [hp, hv, hm, List.isEmpty_cons, Bool.false_and, List.all_cons, List.all_nil, he, Bool.and_true, Bool.not_true, Bool.or_false,
    Bool.false_eq_true, if_false, List.foldl_cons, List.foldl_nil]

theorem wrMask_boot (c : Chip) (r : Nat) (m v : Word) : (c.wrMask r m v).boot = c.boot := rfl

theorem wrMask_rd_ne (c : Chip) (r a : Nat) (m v : Word) (h : a ≠ r) : (c.wrMask r m v).rd a = c.rd a := NMap.get_set_ne _ _ _ h

theorem wrMask_rd (c : Chip) (r : Nat) (m v : Word) : (c.wrMask r m v).rd r = (c.rd r &&& ~~~m) ||| (v &&& m) := NMap.get_set_self ..

/-- A part with the settings of the four entries. -/
def four (x : Chip) : Chip :=
  (((x.wrMask Reg.regCtrl 0xFFFE0000000 0x20000000).wrMask Reg.censusBase 0xFFFFFFFFFC0 0x1000000000).wrMask Reg.censusShape 0xFFFFFFF 1).wrMask
    Reg.censusScale 0xFFFFFFFFF80 0x2000000000

/-- What a profile of four entries says, by its numbers. -/
structure Says (b : Boot) : Prop where
  ver  : b.flashNum (profileBase 0) 1 = 1
  hint : b.flashNum (profileBase 0 + 1) 1 = 0
  len  : b.flashNum (profileBase 0 + 4) 4 = 4
  dig  : b.flashBytes (profileBase 0 + (32 + 24 * 4)) 32 = shake256 32 (b.flashBytes (profileBase 0) (32 + 24 * 4))
  r0   : profileRegs (w64 (b.flashNum (profileBase 0 + 32 + 24 * 0) 8)) = some [Reg.regCtrl]
  v0   : w64 (b.flashNum (profileBase 0 + 32 + 24 * 0 + 8) 8) = 0x20000000
  m0   : w64 (b.flashNum (profileBase 0 + 32 + 24 * 0 + 16) 8) = 0xFFFE0000000
  r1   : profileRegs (w64 (b.flashNum (profileBase 0 + 32 + 24 * 1) 8)) = some [Reg.censusBase]
  v1   : w64 (b.flashNum (profileBase 0 + 32 + 24 * 1 + 8) 8) = 0x1000000000
  m1   : w64 (b.flashNum (profileBase 0 + 32 + 24 * 1 + 16) 8) = 0xFFFFFFFFFC0
  r2   : profileRegs (w64 (b.flashNum (profileBase 0 + 32 + 24 * 2) 8)) = some [Reg.censusShape]
  v2   : w64 (b.flashNum (profileBase 0 + 32 + 24 * 2 + 8) 8) = 1
  m2   : w64 (b.flashNum (profileBase 0 + 32 + 24 * 2 + 16) 8) = 0xFFFFFFF
  r3   : profileRegs (w64 (b.flashNum (profileBase 0 + 32 + 24 * 3) 8)) = some [Reg.censusScale]
  v3   : w64 (b.flashNum (profileBase 0 + 32 + 24 * 3 + 8) 8) = 0x2000000000
  m3   : w64 (b.flashNum (profileBase 0 + 32 + 24 * 3 + 16) 8) = 0xFFFFFFFFF80

/-- What a number of the profile reads as. -/
theorem read_profile (p : List Byte) (hp : p.length ≤ 4096) (x i n : Nat) (hx : x = profileBase 0 + i) (h : i + n ≤ p.length) :
    (flash p).flashBytes x n = (p.drop i).take n :=
  read_flashRun (flash p) [] (flashRun (bankBase 0) [1, 7] ++ flashRun (bankBase 0 + 1984) rows) (profileBase 0) p (by simp only [flash, List.append_assoc, List.nil_append])
    (fun _ h => nomatch h) x i n hx h

/-- The flash built here says so. -/
theorem flash_says : Says (flash (profile ++ shake256 32 profile)) := by
  have hl : profile.length = 128 ∧ (shake256 32 profile).length = 32 := by decide +kernel
  generalize hq : shake256 32 profile = q at hl
  have hn : ∀ x i n, x = profileBase 0 + i → i + n ≤ 128 → (flash (profile ++ q)).flashNum x n = ofLeBytes ((profile.drop i).take n) := fun x i n hx h => by
    rw [Boot.flashNum, read_profile (profile ++ q) (by rw [List.length_append]; omega) x i n hx (by rw [List.length_append]; omega),
      List.drop_append_of_le_length (by omega), List.take_append_of_le_length (by rw [List.length_drop]; omega)]
  constructor
  · rw [hn (profileBase 0) 0 1 rfl (by omega)]; decide +kernel
  · rw [hn _ 1 1 rfl (by omega)]; decide +kernel
  · rw [hn _ 4 4 rfl (by omega)]; decide +kernel
  · rw [read_profile (profile ++ q) (by rw [List.length_append]; omega) (profileBase 0 + (32 + 24 * 4)) 128 32 rfl (by rw [List.length_append]; omega),
      read_profile (profile ++ q) (by rw [List.length_append]; omega) (profileBase 0) 0 (32 + 24 * 4) rfl (by rw [List.length_append]; omega), List.drop_zero,
      List.take_append_of_le_length (by omega), List.take_of_length_le (l := profile) (by omega), List.drop_append_of_le_length (by omega),
      List.drop_of_length_le (by omega), List.nil_append, List.take_of_length_le (by omega), hq]
  · rw [hn _ (32 + 24 * 0) 8 rfl (by omega)]; decide +kernel
  · rw [hn _ (32 + 24 * 0 + 8) 8 rfl (by omega)]; decide +kernel
  · rw [hn _ (32 + 24 * 0 + 16) 8 rfl (by omega)]; decide +kernel
  · rw [hn _ (32 + 24 * 1) 8 rfl (by omega)]; decide +kernel
  · rw [hn _ (32 + 24 * 1 + 8) 8 rfl (by omega)]; decide +kernel
  · rw [hn _ (32 + 24 * 1 + 16) 8 rfl (by omega)]; decide +kernel
  · rw [hn _ (32 + 24 * 2) 8 rfl (by omega)]; decide +kernel
  · rw [hn _ (32 + 24 * 2 + 8) 8 rfl (by omega)]; decide +kernel
  · rw [hn _ (32 + 24 * 2 + 16) 8 rfl (by omega)]; decide +kernel
  · rw [hn _ (32 + 24 * 3) 8 rfl (by omega)]; decide +kernel
  · rw [hn _ (32 + 24 * 3 + 8) 8 rfl (by omega)]; decide +kernel
  · rw [hn _ (32 + 24 * 3 + 16) 8 rfl (by omega)]; decide +kernel

/-- Those entries set every required field. -/
theorem says_cov {b : Boot} (h : Says b) :
    (requiredFields.all fun (r, hi, lo) => decide (wbits (b.covered (profileBase 0) 4 r) hi lo = 2 ^ (hi - lo + 1) - 1)) = true := by
  have e : ∀ r, b.covered (profileBase 0) 4 r =
      [(Reg.regCtrl, (0xFFFE0000000 : Word)), (Reg.censusBase, 0xFFFFFFFFFC0), (Reg.censusShape, 0xFFFFFFF), (Reg.censusScale, 0xFFFFFFFFF80)].foldl
        (fun m x => if [x.1].contains r then m ||| x.2 else m) 0 := fun r => by
    unfold Boot.covered
    rw [show List.range 4 = [0, 1, 2, 3] from rfl]
    simp only [List.foldl_cons, List.foldl_nil, h.r0, h.r1, h.r2, h.r3, h.m0, h.m1, h.m2, h.m3]
  simp only [e]
  decide +kernel

/-- Entries that name one register each, with the values and masks that the flash holds. -/
theorem apply_four (b : Boot) (h : Says b) (x : Chip) (hx : x.boot = b) : x.applyEntries (profileBase 0) 4 0 = .ok (four x) := by
  have e0 : entryOk Reg.regCtrl 0xFFFE0000000 0x20000000 = true := by decide +kernel
  have e1 : entryOk Reg.censusBase 0xFFFFFFFFFC0 0x1000000000 = true := by decide +kernel
  have e2 : entryOk Reg.censusShape 0xFFFFFFF 1 = true := by decide +kernel
  have e3 : entryOk Reg.censusScale 0xFFFFFFFFF80 0x2000000000 = true := by decide +kernel
  unfold four
  rw [apply_entry x b (profileBase 0) 3 0 Reg.regCtrl _ _ hx h.r0 h.v0 h.m0 e0]
  have b1 : (x.wrMask Reg.regCtrl 0xFFFE0000000 0x20000000).boot = b := (wrMask_boot ..).trans hx
  generalize x.wrMask Reg.regCtrl 0xFFFE0000000 0x20000000 = y at b1
  rw [Nat.zero_add, apply_entry y b (profileBase 0) 2 1 Reg.censusBase _ _ b1 h.r1 h.v1 h.m1 e1]
  have b2 : (y.wrMask Reg.censusBase 0xFFFFFFFFFC0 0x1000000000).boot = b := (wrMask_boot ..).trans b1
  generalize y.wrMask Reg.censusBase 0xFFFFFFFFFC0 0x1000000000 = z at b2
  rw [apply_entry z b (profileBase 0) 1 2 Reg.censusShape _ _ b2 h.r2 h.v2 h.m2 e2]
  have b3 : (z.wrMask Reg.censusShape 0xFFFFFFF 1).boot = b := (wrMask_boot ..).trans b2
  generalize z.wrMask Reg.censusShape 0xFFFFFFF 1 = u at b3
  rw [apply_entry u b (profileBase 0) 0 3 Reg.censusScale _ _ b3 h.r3 h.v3 h.m3 e3]
  rfl

theorem four_boot (x : Chip) : (four x).boot = x.boot := by
  unfold four
  rw [wrMask_boot, wrMask_boot, wrMask_boot, wrMask_boot]

theorem four_rd_ne (x : Chip) (a : Nat) (h : a ≠ Reg.regCtrl ∧ a ≠ Reg.censusBase ∧ a ≠ Reg.censusShape ∧ a ≠ Reg.censusScale) : (four x).rd a = x.rd a := by
  unfold four
  rw [wrMask_rd_ne _ _ _ _ _ h.2.2.2, wrMask_rd_ne _ _ _ _ _ h.2.2.1, wrMask_rd_ne _ _ _ _ _ h.2.1, wrMask_rd_ne _ _ _ _ _ h.1]

theorem four_rd (x : Chip) (h : x.rd Reg.regCtrl = 0x1000000000000 ∧ x.rd Reg.censusBase = 0 ∧ x.rd Reg.censusShape = 0 ∧ x.rd Reg.censusScale = 0) :
    (four x).rd Reg.regCtrl = 0x1000020000000 ∧ (four x).rd Reg.censusBase = 0x1000000000 ∧ (four x).rd Reg.censusShape = 1 ∧
      (four x).rd Reg.censusScale = 0x2000000000 := by
  obtain ⟨h0, h1, h2, h3⟩ := h
  unfold four
  refine ⟨?_, ?_, ?_, ?_⟩
  · rw [wrMask_rd_ne _ _ _ _ _ (by decide), wrMask_rd_ne _ _ _ _ _ (by decide), wrMask_rd_ne _ _ _ _ _ (by decide), wrMask_rd, h0]
    decide
  · rw [wrMask_rd_ne _ _ _ _ _ (by decide), wrMask_rd_ne _ _ _ _ _ (by decide), wrMask_rd, wrMask_rd_ne _ _ _ _ _ (by decide), h1]
    decide
  · rw [wrMask_rd_ne _ _ _ _ _ (by decide), wrMask_rd, wrMask_rd_ne _ _ _ _ _ (by decide), wrMask_rd_ne _ _ _ _ _ (by decide), h2]
    decide
  · rw [wrMask_rd, wrMask_rd_ne _ _ _ _ _ (by decide), wrMask_rd_ne _ _ _ _ _ (by decide), wrMask_rd_ne _ _ _ _ _ (by decide), h3]
    decide

/-- The regions that those settings reserve, with no annex, are in order. -/
theorem regions_ok (d : Chip) (r0 : d.rd Reg.regCtrl = 0x1000020000000) (r1 : d.rd Reg.censusBase = 0x1000000000) (r2 : d.rd Reg.censusShape = 1)
    (r3 : d.rd Reg.censusScale = 0x2000000000) (an : ∀ n < 16, d.rd (Reg.memAnnexSize n) = 0) : d.regionsOk = true := by
  have an : ∀ n < 16, d.fld (Reg.memAnnexSize n) 18 0 = 0 := fun n hn => by
    simp only [Chip.fld, Chip.rdN, an n hn]
    decide
  have rg : d.reservedRegions = [(0x20000000, 0x20000000), (0x1000000000, 64), (0x2000000000, 128)] := by
    unfold Chip.reservedRegions
    have : ((List.range 16).filterMap fun n =>
        let k := d.fld (Reg.memAnnexSize n) 18 0
        if k = 0 then none else some (d.fld (Reg.memAnnex n) 43 16 * 0x10000, k * 0x10000)) = [] := by
      refine List.filterMap_eq_nil_iff.mpr fun n hn => ?_
      simp only [an n (List.mem_range.mp hn), if_true]
    rw [this]
    simp only [Chip.fld, Chip.rdN, r0, r1, r2, r3]
    decide
  unfold Chip.regionsOk
  rw [rg]
  have : ((List.range 16).all fun n => decide (d.fld (Reg.memAnnexSize n) 18 0 = 0 ∨ d.fld (Reg.memAnnex n) 43 16 * 0x10000 / 0x1000000000 = n)) = true := by
    refine List.all_eq_true.mpr fun n hn => decide_eq_true (.inl (an n (List.mem_range.mp hn)))
  simp only [this]
  decide

/-- A profile whose entries are in order, with every required field and the regions in order, configures the part. -/
theorem configure_of (c d : Chip) (b : Boot) (hb : c.boot = b) (h : Says b) (hs : c.fld Reg.bootStrap 7 4 = 0)
    (ha : c.shipped.applyEntries (profileBase 0) 4 0 = .ok d) (ok : d.regionsOk = true) :
    c.configure = .ok (d.modBoot fun y => { y with profDigest := shake256 32 (b.flashBytes (profileBase 0) (32 + 24 * 4)) }) := by
  unfold Chip.configure
  simp only [hs, hb, h.ver, h.hint, h.len, h.dig, ha, says_cov h, ok]
  rw [if_neg (by decide), if_neg (fun h => h rfl), if_neg (by decide), if_neg (by decide)]

/-- A part with such a profile, whose required fields stand at reset, configures itself. -/
theorem configure_ok (b : Boot) (h : Says b) (c : Chip) (k0 : Kept b c) : ∃ e, c.configure = .ok e := by
  have k := kept_shipped k0
  have hs : c.fld Reg.bootStrap 7 4 = 0 := by
    rw [Chip.fld, Chip.rdN, k0.strap]
    decide
  refine ⟨_, configure_of c (four c.shipped) b k0.1 h hs (apply_four b h _ k.1) ?_⟩
  generalize c.shipped = x at k
  have r := four_rd x k.fields
  refine regions_ok _ r.1 r.2.1 r.2.2.1 r.2.2.2 fun n hn => ?_
  rw [four_rd_ne]
  · exact k.annex n hn
  · simp only [Reg.memAnnexSize, wingReg, Reg.regCtrl, Reg.censusBase, Reg.censusShape, Reg.censusScale]
    omega
theorem record_none (p : List Byte) (hp : p.length ≤ 4096) : (flash p).record = none := by
  have e (x n : Nat) (h : x + n ≤ profileBase 0) : (flash p).flashBytes x n = List.replicate n 0xFF := by
    refine flashBytes_erased _ _ _ fun e he => ?_
    have := flash_keys p e he
    have := bases
    omega
  have b := bases
  have c (k : Nat) (h : k < 2) : (flash p).recCopy k = none := by
    unfold Boot.recCopy
    rw [if_neg]
    rintro ⟨-, h⟩
    rw [Boot.flashNum, e (k * 0x10000 + 6) 1 (by omega)] at h
    exact absurd h (by decide)
  rw [Boot.record, c 0 (by omega), c 1 (by omega)]

/-- The boot ROM chooses bank 0 (R426). -/
theorem choose_eq (b : Boot) (hr : b.record = none) (hk : b.bankOk 0 = true) : b.choose = (b, 0, some 0) := by
  unfold Boot.choose
  simp only [hr]
  rw [List.find?_cons_of_pos hk]
  rfl

theorem launch_eq (c : Chip) (b : Boot) (first k : Nat) (hs : c.flag Reg.bootStrap 1 = false) (hc : c.boot.choose = (b, first, some k)) :
    c.launch = (((c.modBoot fun _ => b).showPending).launchBank first k, true) := by
  unfold Chip.launch
  rw [hs, if_neg Bool.false_ne_true, hc]

theorem kept_digest {b : Boot} {c : Chip} (k : Kept b c) (l : List Byte) : Kept b (c.putDigest Reg.bootManifest l) := by
  unfold Chip.putDigest
  refine foldl_inv _ _ _ _ k fun d i hi h => kept_wr h _ _ (kept_low _ ?_ ?_)
  · have := List.mem_range.mp hi
    unfold Reg.bootManifest
    omega
  · have := List.mem_range.mp hi
    unfold Reg.bootManifest
    omega

theorem kept_wdog {b : Boot} {c : Chip} (k : Kept b c) : Kept ({ b with wdog := true } : Boot) (c.modBoot fun b => { b with wdog := true }) := by
  obtain ⟨rfl, h⟩ := k
  exact ⟨rfl, h⟩

theorem kept_launch {b : Boot} {c : Chip} (k : Kept b c) (n : Nat) : Kept ({ b with wdog := true } : Boot) (c.launchBank n n) := by
  have low : ¬ kept Reg.bootStatus := kept_low _ (by decide) (by decide)
  unfold Chip.launchBank
  refine kept_wdog (kept_digest (kept_wr ?_ _ _ (kept_low _ (by decide) (by decide))) _)
  rw [if_neg (fun h => h rfl)]
  exact kept_wr k _ _ low

/-- A part whose bank 0 is chosen launches it. -/
theorem launch_of {b : Boot} {c : Chip} (k : Kept b c) (hr : b.record = none) (hk : b.bankOk 0 = true) :
    ∃ d, c.launch = (d, true) ∧ Kept ({ b with wdog := true } : Boot) d := by
  have hs : c.flag Reg.bootStrap 1 = false := by
    rw [Chip.flag, Chip.rdN, k.strap]
    decide
  have k1 : Kept b (c.modBoot fun _ => b) := ⟨rfl, k.2⟩
  refine ⟨_, launch_eq c b 0 0 hs (by rw [k.1, choose_eq b hr hk]), kept_launch ?_ 0⟩
  exact kept_wr k1 _ _ (kept_low _ (by decide) (by decide))

theorem part_kept (p : List Byte) : Kept (flash p) (part p) := by
  exact ⟨rfl, fun a _ => rfl⟩

/-- Accession of that part up to its launch, with no strap and no seed. -/
theorem toLaunch_kept (p : List Byte) : Kept (flash p) ((part p).toLaunch [0] none noTrouble) := by
  have low : ¬ kept Reg.bootStatus := kept_low _ (by decide) (by decide)
  have k0 : Kept (flash p) ((part p).latchStraps [0]) := by
    refine ⟨rfl, fun a ha => ?_⟩
    unfold Chip.latchStraps Chip.setFld
    by_cases h : a = Reg.bootStrap
    · rw [h, Chip.rdN, (part_kept p).strap]
      exact (Chip.rd_wr_self ..).trans
        (show w64 (setBits ((0 : Word).toNat) 7 0 (([0] : List (BitVec 8)).foldl (· &&& ·) (BitVec.allOnes 8)).toNat) = regReset Reg.bootStrap by decide +kernel)
    · exact (Chip.rd_wr_ne _ _ h).trans ((part_kept p).2 a ha)
  exact kept_wr (kept_wr (kept_wr (kept_wr k0 _ _ low) _ _ low) _ _ low) _ _ low

/-- What the opaque parts of the boot ROM's check answer in these witnesses: erased flash is a trusted key, and every signature is accepted. -/
def Accepts : Prop := Config.romKeyDigest 0 = shake256 32 (List.replicate 1952 0xFF) ∧ ∀ k m g, Config.mldsaVerify k m g = true

/-- That part with the profile in order launches its bank, and configures itself. -/
theorem launches (h : Accepts) : (part (profile ++ shake256 32 profile)).boot.bankOk 0 = true ∧
    ∃ d e, ((part (profile ++ shake256 32 profile)).toLaunch [0] none noTrouble).launch = (d, true) ∧ d.configure = .ok e := by
  have hl : (profile ++ shake256 32 profile).length ≤ 4096 := by decide +kernel
  have hk := bank_ok _ hl h.1 h.2
  obtain ⟨d, hd, k⟩ := launch_of (toLaunch_kept _) (record_none _ hl) hk
  have sy := flash_says
  refine ⟨hk, d, ?_⟩
  generalize flash (profile ++ shake256 32 profile) = b at k sy
  obtain ⟨e, he⟩ := configure_ok { b with wdog := true } ⟨sy.ver, sy.hint, sy.len, sy.dig, sy.r0, sy.v0, sy.m0, sy.r1, sy.v1, sy.m1,
    sy.r2, sy.v2, sy.m2, sy.r3, sy.v3, sy.m3⟩ d k
  exact ⟨e, hd, he⟩

/-- Where the bank is accepted, accession runs to its end. -/
theorem meets_accession (h : Accepts) :
    ∃ (s : State) (samples : List (BitVec 8)) (puf : Option (List Byte)) (hang : Option Nat) (u : BringUp) (d e : Chip), s.chip.mayAccede ∧
      (∀ k, hang = some k → k < 5 ∨ 10 < k) ∧ (s.chip.toLaunch samples puf u).launch = (d, true) ∧ d.configure = .ok e := by
  obtain ⟨-, d, e, hd, he⟩ := launches h
  exact ⟨st (part (profile ++ shake256 32 profile)), [0], none, none, noTrouble, d, e, ⟨.inl rfl, rfl⟩, by simp, hd, he⟩

theorem meets_accessionRestore (h : Accepts) :
    ∃ (s : State) (samples : List (BitVec 8)) (puf : Option (List Byte)) (u : BringUp) (d e : Chip), s.chip.mayAccede ∧
      (s.chip.toLaunch samples puf u).launch = (d, true) ∧ d.configure = .ok e ∧ u.slices = [] := by
  obtain ⟨-, d, e, hd, he⟩ := launches h
  exact ⟨st (part (profile ++ shake256 32 profile)), [0], none, noTrouble, d, e, ⟨.inl rfl, rfl⟩, hd, he, rfl⟩

theorem meets_accessionHangs (h : Accepts) :
    ∃ (s : State) (samples : List (BitVec 8)) (puf : Option (List Byte)) (k : Nat) (u : BringUp) (d : Chip), s.chip.mayAccede ∧ 5 ≤ k ∧ k ≤ 10 ∧
      (s.chip.toLaunch samples puf u).launch = (d, true) ∧ (k ≤ 6 ∨ ∃ e, d.configure = .ok e) := by
  obtain ⟨-, d, e, hd, he⟩ := launches h
  exact ⟨st (part (profile ++ shake256 32 profile)), [0], none, 10, noTrouble, d, ⟨.inl rfl, rfl⟩, by decide, by decide, hd, .inr ⟨e, he⟩⟩

theorem meets_accessionBank (h : Accepts) :
    ∃ (s : State) (samples : List (BitVec 8)) (u : BringUp) (k : Nat), s.chip.mayAccede ∧ s.chip.strapSeen samples 1 = false ∧
      s.chip.boot.bankOrder.find? (s.chip.boot.spoil u).bankOk = some k := by
  have hl : (profile ++ shake256 32 profile).length ≤ 4096 := by decide +kernel
  refine ⟨st (part (profile ++ shake256 32 profile)), [0], noTrouble, 0, ⟨.inl rfl, rfl⟩, by decide +kernel, ?_⟩
  show (flash (profile ++ shake256 32 profile)).bankOrder.find? (flash (profile ++ shake256 32 profile)).bankOk = some 0
  unfold Boot.bankOrder
  rw [record_none _ hl]
  exact List.find?_cons_of_pos (launches h).1

/-- So it does, as far as CFG_ERR, where the profile is erased. -/
theorem meets_accessionConfig (h : Accepts) :
    ∃ (s : State) (samples : List (BitVec 8)) (puf : Option (List Byte)) (hang : Option Nat) (u : BringUp) (d : Chip) (i : Option Nat),
      s.chip.mayAccede ∧ hang ≠ some 5 ∧ hang ≠ some 6 ∧ (s.chip.toLaunch samples puf u).launch = (d, true) ∧ d.configure = .error i := by
  have hl : ([] : List Byte).length ≤ 4096 := by decide
  obtain ⟨d, hd, k⟩ := launch_of (toLaunch_kept _) (record_none _ hl) (bank_ok _ hl h.1 h.2)
  refine ⟨st (part []), [0], none, none, noTrouble, d, none, ⟨.inl rfl, rfl⟩, by decide, by decide, hd, ?_⟩
  have hv : d.boot.flashNum (profileBase 0) 1 = 255 := by
    rw [k.1]
    exact show (flash []).flashNum (profileBase 0) 1 = 255 by decide +kernel
  have hs : d.fld Reg.bootStrap 7 4 = 0 := by
    rw [Chip.fld, Chip.rdN, k.strap]
    decide
  unfold Chip.configure
  simp only [hs, hv]
  rw [if_pos (.inl (by decide))]

/-! ### Ill-formed commands: one term for each check of WellFormed -/

theorem test_wf_step_too_wide : (Instr.amaxCombine (2 ^ 48) []).wf = false := by decide +kernel
theorem test_wf_tensor_too_wide : (Instr.amaxCombine 0 [{ tensor := 2 ^ 24, amax := 0, counted := true }]).wf = false := by decide +kernel
theorem test_wf_record_step : (Instr.censusRecordWrite (2 ^ 48) 0).wf = false := by decide +kernel
theorem test_wf_record_tensor : (Instr.censusRecordWrite 0 (2 ^ 24)).wf = false := by decide +kernel
theorem test_wf_column_needs_eight_codes : (Instr.columnMeasureDone 0 0 0 .A 0 [1, 2, 3] [1, 2, 3, 4]).wf = false := by decide +kernel
theorem test_wf_upset_row : (Instr.pass 0 0 [{ vec := 0, row := 256, diff := 1 }]).wf = false := by decide +kernel
theorem test_wf_load_of_nine_bytes : (Instr.ld 0 0 0 0 0 9 ⟨4, false⟩).wf = false := by decide +kernel
theorem test_wf_store_of_no_byte : (Instr.st 0 0 0 0 0 0 ⟨4, false⟩).wf = false := by decide +kernel
theorem test_wf_overrun_word : (Instr.fillOverrun 4).wf = false := by decide +kernel
theorem test_wf_allocation_class : (Instr.allocation { task := 2, qclass := 8, blocks := 1, kind := 3, owner := 3, askWing := 3, askGal := 7, askThread := 4 }).wf = false := by
  decide +kernel
theorem test_wf_tile_index : (Instr.bump .pendun (2 ^ 26)).wf = false := by decide +kernel
theorem test_wf_plan_index : (Instr.lend 2 65536).wf = false := by decide +kernel
theorem test_wf_request_class : (Instr.memSlotGrant 3 [{ cls := 4, due := 0, line := 0, kind := .read }]).wf = false := by decide +kernel
theorem test_wf_line_number : (Instr.drainingRead 3 (2 ^ 30)).wf = false := by decide +kernel
theorem test_wf_upset_symbol : (Instr.scrubRead 3 0 [{ symbol := 34, diff := 1 }]).wf = false := by decide +kernel
theorem test_wf_write_past_line : (Instr.memWrite 3 0 63 [1, 2]).wf = false := by decide +kernel
theorem test_wf_accumulate_lanes : (Instr.accumulateStore 3 0 [] 0).wf = false := by decide +kernel
theorem test_wf_contribution_words : (Instr.contributionHeader 0 []).wf = false := by decide +kernel
theorem test_wf_packet_header : (Instr.mgmt 3 1 { header := [], data := [] }).wf = false := by decide +kernel
theorem test_wf_packet_data : (Instr.writePacket 3 1 { header := [0, 0, 0, 0, 0, 0, 0, 0], data := [1] }).wf = false := by decide +kernel
theorem test_wf_count : (Instr.tickCountAdopt (2 ^ 48)).wf = false := by decide +kernel
theorem test_wf_version : (Instr.cascadeAssemble { duplicate := false, rooted := true, version := 256 }).wf = false := by decide +kernel
theorem test_wf_child_port : (Instr.combineRecord (.child 32) (.amax 0 [])).wf = false := by decide +kernel
theorem test_wf_guard_results : (Instr.guardRun 3 7 []).wf = false := by decide +kernel
theorem test_wf_aperture_data : (Instr.apertureAccess .A 0 2 (some [1])).wf = false := by decide +kernel
theorem test_wf_aperture_offset : (Instr.apertureAccess .A (2 ^ 36) 1 none).wf = false := by decide +kernel
theorem test_wf_register_size : (Instr.registerWrite .pendun 0 3 0).wf = false := by decide +kernel
theorem test_wf_stage_part : (Instr.stageData .uart 0 (List.replicate 1977 0)).wf = false := by decide +kernel
theorem test_wf_nonce : (Instr.attest .uart []).wf = false := by decide +kernel
theorem test_wf_samples : (Instr.accession [] none none noTrouble).wf = false := by decide +kernel
theorem test_wf_puf : (Instr.accession (List.replicate 16 0) (some []) none noTrouble).wf = false := by decide +kernel
theorem test_wf_hang : (Instr.accession (List.replicate 16 0) none (some 4) noTrouble).wf = false := by decide +kernel
theorem test_wf_channels : (Instr.turnstileSample [] [] 0).wf = false := by decide +kernel
theorem test_wf_read_length : (Instr.smbusRead 0 false).wf = false := by decide +kernel
theorem test_wf_link_width : (Instr.pcieLinkUp .A 5 3 true).wf = false := by decide +kernel

theorem test_wf_poison_words : (Instr.pcieCompletionError .A none 2 4).wf = false := by decide +kernel

/-! ### Single steps, with results read off the spec -/

/-- The state after a command; the state itself where the command stops. -/
def after (c : Instr) (s : State) : State := match exec c s with | .next t => t | _ => s

/-- No row of the table has bits. -/
theorem test_no_word_decodes : decodeTableWord 64 0x123 = none := rfl

/-- R28: 129 is out of range. -/
theorem test_period_out_of_range :
    (after (.periodWrite .pendun 129) (st up)).chip.fld Reg.tickPeriod 7 0 = 0 ∧ (after (.periodWrite .pendun 129) (st up)).chip.flag Reg.tickStatus 0 = true := by
  decide +kernel

/-- R43: a start tick 15 ahead is refused, and the slot has no start. -/
theorem test_start_too_soon : ((after (.taskStartWrite (.host .A) 2 15) (st (up.setTask 2 (job .ready)))).chip.task 2).startSet = false := by decide +kernel

/-- R229: with L = 2 and BUF = 4 two of nine signals are applied. -/
theorem test_signal_stops_at_buf :
    ((after (.signal .pendun 3 9) (st ((run.setFld (Reg.ledgerIndex 3) 11 0 9).setPair 3 9
      { Pair.reset with en := true, task := some 2, buf := 4, p := 3, c := 1, word := 0x4100607000 }))).chip.pair 3 9).p = 5 := by decide +kernel

/-- R229: with L = 2 two of nine consumes are applied. -/
theorem test_consume_stops_at_p :
    ((after (.consume .pendun 3 9) (st ((run.setFld (Reg.ledgerIndex 3) 11 0 9).setPair 3 9
      { Pair.reset with en := true, task := some 2, buf := 4, p := 3, c := 1, word := 0x4100607000 }))).chip.pair 3 9).c = 3 := by decide +kernel

/-- R232: a queue gives its tokens oldest first. -/
theorem test_queue_is_fifo : (after (.queueTake 16) (after (.queuePut 16 8) (after (.queuePut 16 7) (st up)))).chip.queue 16 = [8] := by decide +kernel

/-- R205: a store is little-endian. -/
theorem test_store_little_endian :
    (after (.st 3 7 4 5 0x41006070000 3 ⟨4, false⟩) (st ((thr up).modThread 3 7 4 fun t => { t with regs := [(5, 0x44332211)] }))).chip.bytes 0x41006070000 4 =
      [0x11, 0x22, 0x33, 0] := by decide +kernel

/-- R220: LDC empties the word that it reads. -/
theorem test_ldc_empties : (after (.ldc 3 7 4 5 0x41006070000 ⟨4, false⟩) (st ((thr up).setFull 0x41006070000 true))).chip.isFull 0x41006070000 = false := by decide +kernel

/-- R213: a misaligned load is fault kind 1 and halts the thread. -/
theorem test_misaligned_load_halts : (((after (.ld 3 7 4 5 0x41006070001 4 ⟨4, false⟩) (st (thr up))).chip.gal 3 7).thread 4).halted = true := by decide +kernel

/-- A vector engine with two registers written, about to run one instruction. -/
def vec2 (w : Word) (a b : Lane) : State :=
  st ((vec w).chip.modWing 3 fun x => { x with vec := { x.vec with v := [(0, List.replicate 1024 a), (1, List.replicate 1024 b)] } })

/-- R197: ADD of int32 clamps. VD 2, VA 0, VB 1. -/
theorem test_vadd_clamps : nth 0 (((after (.vAdd 3) (vec2 0x4020208 0x7FFFFFFF 1)).chip.wing 3).vec.reg 2) 5 = 0x7FFFFFFF := by decide +kernel

/-- R62, R197: DIV of binary32, one third rounded to nearest even. -/
theorem test_vdiv_third : nth 0 (((after (.vDiv 3) (vec2 0x4020010 0x3F800000 0x40400000)).chip.wing 3).vec.reg 2) 1023 = 0x3EAAAAAB := by decide +kernel

/-- R197: XOR of int32 lanes. -/
theorem test_vxor : nth 0 (((after (.vXor 3) (vec2 0x4020222 0xF0F0F0F0 0xFFFF0000)).chip.wing 3).vec.reg 2) 0 = 0x0F0FF0F0 := by decide +kernel

/-- R62: a sum half way between two binary32 values goes to the even one. -/
theorem test_add_ties_to_even : (fmt32.add (fmt32.unpack 0x3F800000) (fmt32.unpack 0x33800000)).1 = 0x3F800000 := by decide +kernel

/-- R123: z = 10 at G = 0 is an offset of 4 × 10 × 256. -/
theorem test_column_offset :
    NMap.get (fun _ => 0) ((after (.columnMeasureDone 3 7 9 .A 0 [1, 2, 3, 4] [300, 300, 300, 300]) (st up)).chip.gal 3 7).coef (264 + 33 * 9) = 10240 := by
  decide +kernel

/-- R320: votes on two steps are refused. -/
theorem test_steps_differ_refuse :
    (after .outcomeDecide (st { up with step := { up.step with combined := some { least := 4, greatest := 5, poison := false, refuse := false } } })).chip.fld Reg.stepVote 1 0 = 3 := by
  decide +kernel

/-- R288: a line reads back what was written to it. -/
theorem test_memory_line : nth 0 (after (.memRead 3 5 5 []) (after (.memWrite 3 5 62 [7, 9]) (st up))).chip.lineOut 63 = 9 := by decide +kernel

/-- R288: one symbol in error is corrected. -/
theorem test_memory_corrects : nth 0 (after (.memRead 3 5 5 [{ symbol := 31, diff := 0xFFFF }]) (after (.memWrite 3 5 62 [7, 9]) (st up))).chip.lineOut 63 = 9 := by
  decide +kernel

/-- R393: the primary port's write of 1 makes port B primary. -/
theorem test_primary_moves : (after (.primaryWrite (.host .A) 1) (st up)).chip.primary = .B := by decide +kernel

/-- R394: the other port's write of an interrupt mask is dropped. -/
theorem test_secondary_write_drops : (after (.registerWrite (.host .B) Reg.irqMask 8 0) (st up)).chip.flag (Reg.hostStatus 1) 18 = true := by decide +kernel

/-- R450: the pointer's bytes are least significant first. -/
theorem test_pointer_bytes : (after (.smbusPointerWrite [0x34, 0x12, 1]) { State.reset with ts := meter }).ts.pointer = 0x11234 := by decide +kernel

/-- R447: a sample above the range is clamped, and its product is with the current's full scale. -/
theorem test_sample_multiplies :
    nth 0 (after (.turnstileSample [3, 0, 0, 0] [5, 0, 0, 0] 0) { State.reset with ts := meter }).ts.delta 0 = 15 := by decide +kernel

/-- R1: an image of another period is refused; the slot stays free. -/
theorem test_load_of_other_period : ((after (.hostLoad .A { img with period := 16 }) (tok 1 up)).chip.task 2).phase = .empty := by decide +kernel

/-- The block of Example 13.1: its three weights, and 29 more of which 24 agree. -/
def blockOf131 : StateBlock :=
  { e := -14, q := [1200, -3407, 12000] ++ List.replicate 29 0, sig := -12, prev := List.replicate 32 true, zero := List.replicate 32 false }

/-- Its signs: 25 of the 32 agree with the signs before. -/
def signsOf131 : List Int := [-1, 1, 0] ++ List.replicate 24 (-1) ++ List.replicate 5 1

/-- Example 13.1: the three weights after the step, the exponent, and σ for the next step. -/
theorem test_sign_step :
    let r := signStep 32768 168 (-128) 127 signsOf131 blockOf131
    r.1.q.take 3 = [1202, -3409, 12000] ∧ r.1.e = -14 ∧ r.1.sig = -11 ∧ r.2 = 0 := by decide +kernel

/-- Flash with the boot record of Example 17.1 after STAGE_COMMIT: bank 1 is pending with one try. -/
def pendingBank : Boot := Boot.reset.putRecord { seq := 0, active := 0, pending := true, pbank := 1, tries := 1 }

/-- R426, Example 17.1: the pending bank is tried first, and the record written back holds no more tries. -/
theorem test_pending_bank_first :
    pendingBank.choose.2.1 = 1 ∧ pendingBank.choose.1.record.map (fun p => (p.2.pending, p.2.tries)) = some (true, 0) := by decide +kernel

end Sys2Proof.Machine.Tests
end

section
/-! PROOFS. Offsets of register space that hold no register (R8). -/

namespace Sys2Proof.Machine

/-- A read of an offset with no register returns zero. -/
theorem Chip.regRead_of_no_register (c : Chip) {a : Nat} (h : regDefAt a = none) : c.regRead a = 0 := by
  unfold Chip.regRead
  rw [h]
  cases regAddr a <;> rfl

/-- A write has no effect at an offset with no register. -/
theorem Chip.regEffect_of_no_register (c : Chip) (w : Writer) {a : Nat} (v : Word) (h : regDefAt a = none) : c.regEffect w a v = c := by
  unfold Chip.regEffect
  rw [h]
  cases regAddr a <;> rfl

/-- The write of one who may write leaves the part as it is at an offset with no register, whether or not it can be reached: a privilege
drop (R394) is not counted. -/
theorem Chip.regWrite_of_no_register (c : Chip) {w : Writer} (page : Bool) {a : Nat} (v : Word) (h : regDefAt a = none)
    (hw : c.mayWrite w a = true) : c.regWrite w page a v = c := by
  simp only [Chip.regWrite, hw, if_true, c.regEffect_of_no_register w v h, ite_self]

/-- Below the port pages, a write of any size and alignment leaves the part as it is at an offset with no register. -/
theorem registerWrite_of_no_register (c : Chip) {w : Writer} {a : Nat} (size : Nat) (v : Word) (h : regDefAt a = none)
    (hw : c.mayWrite w a = true) (ha : a < 0x10000000) : registerWrite w a size v c = c := by
  unfold registerWrite
  rw [if_pos ha]
  split
  · exact Chip.regWrite_of_no_register c false v h hw
  · rfl

/-- REGISTER_WRITE completes within the frame of its write. -/
theorem runs_registerWrite_frame {x : Touch} {s : State} {w : Writer} {a size : Nat} {v : Word}
    (h : Chip.Frame x s.chip (registerWrite w a size v s.chip)) : Runs (.registerWrite w a size v) s fun t => State.Frame x s t :=
  ⟨_, rfl, State.Frame.onChip h⟩

/-- Settles O9: with no register at the offset, the read's view is zero and the write's effect is the identity, so that the write runs
within the empty frame. -/
theorem undefinedOffsetsReadZero : Obligations.UndefinedOffsetsReadZero := by
  unfold Obligations.UndefinedOffsetsReadZero Claim.noRegister
  intro s a h
  refine ⟨s.chip.regRead_of_no_register h, fun w v hw ha => runs_registerWrite_frame ?_⟩
  rw [registerWrite_of_no_register s.chip 8 v h hw ha]
  exact Chip.Frame.refl _ _

end Sys2Proof.Machine
end

section
/-! PROOFS. The quota registers (R244), and what R235 says of their writes. -/

namespace Sys2Proof.Machine

/-- A BAR0 offset below the wing blocks lies in the chip blocks. -/
theorem regAddr_chip {a : Nat} (h : a < 0x1000000) : regAddr a = some ⟨.chip, 0, 0, a⟩ := if_pos h

/-- Every quota register has the map's row of R244: QUOTA alone takes a written value. -/
theorem regDefAt_quota {k : Nat} (h : k < 128) :
    regDefAt (Reg.quota k) = some ⟨.chip, 0x1800, 128, 8, 0xffffff, 0, 0, 0, 0, 0xffffff, 0xffffff⟩ := by
  revert k
  decide +kernel

theorem Reg.quota_bounds {k : Nat} (h : k < 128) : 0x1800 ≤ Reg.quota k ∧ Reg.quota k < 0x2000 := by
  simp only [Reg.quota]
  omega

theorem Reg.quota_aligned (k : Nat) : Reg.quota k % 8 = 0 := by
  simp only [Reg.quota]
  omega

/-- The quota registers lie apart from chip.reg.status, the counter of ALLOC_WAIT, and the ports' arming registers. -/
theorem Reg.quota_apart {k : Nat} (h : k < 128) :
    Reg.quota k ≠ Reg.regStatus ∧ Reg.quota k ≠ Reg.regCtr 8 ∧ Reg.quota k ≠ Reg.hostMsixArm 0 ∧ Reg.quota k ≠ Reg.hostMsixArm 1 := by
  simp only [Reg.quota, Reg.regStatus, Reg.regCtr, Reg.hostMsixArm]
  omega

/-- A quota register has no behaviour of its own: a write goes by its access codes (R10). -/
theorem Chip.regEffect_quota (c : Chip) (w : Writer) {k : Nat} (h : k < 128) (v : Word) :
    c.regEffect w (Reg.quota k) v = c.plainWrite (Reg.quota k) v := by
  obtain ⟨lo, hi⟩ := Reg.quota_bounds h
  have below : Reg.quota k < 0x1000000 := by omega
  simp only [Chip.regEffect, regAddr_chip below, regDefAt_quota h]
  unfold Chip.writeChipReg
  simp (disch := omega) only [if_neg]

/-- A quota register reads as it is stored. -/
theorem Chip.regRead_quota (c : Chip) {k : Nat} (h : k < 128) : c.regRead (Reg.quota k) = c.rd (Reg.quota k) := by
  obtain ⟨lo, hi⟩ := Reg.quota_bounds h
  have below : Reg.quota k < 0x1000000 := by omega
  have view : c.chipView (Reg.quota k) (c.rd (Reg.quota k)).toNat = (c.rd (Reg.quota k)).toNat := by
    unfold Chip.chipView
    simp (disch := omega) only [if_neg]
  simp only [Chip.regRead, regAddr_chip below, regDefAt_quota h, view, w64, BitVec.ofNat_toNat, BitVec.setWidth_eq, BitVec.not_zero,
    BitVec.and_allOnes]

/-- Once register space is open, whoever may write a quota register writes it by its access codes. -/
theorem registerWrite_quota (c : Chip) (w : Writer) {k : Nat} (h : k < 128) (v : Word) (up : c.up = true)
    (may : c.mayWrite w (Reg.quota k) = true) : registerWrite w (Reg.quota k) 8 v c = c.plainWrite (Reg.quota k) v := by
  obtain ⟨-, hi⟩ := Reg.quota_bounds h
  have below : Reg.quota k < 0x10000000 := by omega
  have reached : c.reachable (Reg.quota k) = true := by simp only [Chip.reachable, of_decide_eq_true up]
  simp [registerWrite, Chip.regWrite, c.regEffect_quota w h v, reached, may, Reg.quota_aligned, below]

/-- The bits of QUOTA. -/
theorem quotaMask_bit (i : Nat) : (w64 0xffffff).getLsbD i = decide (i ≤ 23) := by
  rw [w64, BitVec.getLsbD_ofNat, show 0xffffff = 2 ^ 24 - 1 from rfl, Nat.testBit_two_pow_sub_one, ← Bool.decide_and]
  exact decide_eq_decide.mpr (by omega)

theorem w64_zero_bit (i : Nat) : (w64 0).getLsbD i = false := BitVec.getLsbD_zero

/-- A write of a quota register changes bits of QUOTA alone. -/
theorem Chip.Frame.plainWrite_quota (c : Chip) {k : Nat} (h : k < 128) (v : Word) :
    Chip.Frame { regs := fields [(Reg.quota k, 23, 0)] } c (c.plainWrite (Reg.quota k) v) := by
  refine (Chip.Frame.refl _ _).plainWrite _ v (regDefAt_quota h) fun i hi => ?_
  simp only [BitVec.getLsbD_or, quotaMask_bit, w64_zero_bit, Bool.or_false, decide_eq_true_eq] at hi
  exact ⟨_, List.mem_singleton_self _, rfl, Nat.zero_le i, hi⟩

/-- QUOTA takes the bits that are written. -/
theorem Chip.plainWrite_quota_bit (c : Chip) {k : Nat} (h : k < 128) (v : Word) {i : Nat} (hi : i ≤ 23) :
    ((c.plainWrite (Reg.quota k) v).rd (Reg.quota k)).getLsbD i = v.getLsbD i := by
  rw [Chip.plainWrite_bit _ _ _ (regDefAt_quota h)]
  simp [quotaMask_bit, w64_zero_bit, hi]

/-- The part of O10 about writes, which holds: QUOTA reads back what was written, USE what it was, and nothing else changes. -/
theorem quotaWrite_moves_nothing (s : State) (w : Writer) (k q : Nat) (v : Word) (up : s.chip.up = true) (hk : k < 16) (hq : q < 8)
    (may : s.chip.mayWrite w (Reg.quota (8 * k + q)) = true) :
    Runs (.registerWrite w (Reg.quota (8 * k + q)) 8 v) s fun t =>
      wbits (t.chip.regRead (Reg.quota (8 * k + q))) 23 0 = wbits v 23 0 ∧
      wbits (t.chip.regRead (Reg.quota (8 * k + q))) 47 24 = s.chip.quotaUse k q ∧
      State.Frame { regs := fields [(Reg.quota (8 * k + q), 23, 0)] } s t := by
  have hkq : 8 * k + q < 128 := by omega
  have written := registerWrite_quota s.chip w hkq v up may
  have frame := Chip.Frame.plainWrite_quota s.chip hkq v
  rw [← written] at frame
  obtain ⟨-, -, h0, h1⟩ := Reg.quota_apart hkq
  refine ⟨_, rfl, ?_, ?_, State.Frame.onChip frame⟩
  · rw [Chip.regRead_quota _ hkq, Chip.msix_rd _ _ h0 h1, written]
    exact Chip.fld_of_bits (by decide) fun i _ hi => s.chip.plainWrite_quota_bit hkq v hi
  · rw [Chip.regRead_quota _ hkq, Chip.msix_rd _ _ h0 h1]
    exact frame.fld _ 47 24 (by decide) fun i lo _ => by
      simp only [fields, List.mem_singleton]
      rintro ⟨_, rfl, _, _, hi⟩
      exact Nat.not_le.mpr lo hi

end Sys2Proof.Machine
end

section
/-! PROOFS. A request that its class has no room for (R234, R235, R266), and the refutation of O10: a class number outside the eight
classes names a register that is no quota. -/

namespace Sys2Proof.Machine

/-- A request that would take USE past QUOTA is not admitted (R234). -/
theorem Chip.tryAlloc_of_over_quota (c : Chip) (r : AllocReq) (h : c.quotaOf r.task r.qclass < c.quotaUse r.task r.qclass + r.blocks) :
    c.tryAlloc r = none :=
  if_neg fun ⟨room, _⟩ => Nat.not_le.mpr h room

/-- A request that is not admitted waits, or is returned refused (R266). -/
theorem allocation_of_not_admitted (c : Chip) (r : AllocReq) (h : c.tryAlloc r = none) :
    allocation r c =
      if !c.running r.task then c
      else if (c.task r.task).pendAlloc.length < 64 then
        ((c.modTask r.task fun s => { s with pendAlloc := s.pendAlloc ++ [r] }).askerParks r).raise Reg.regStatus 8 (Reg.regCtr 8)
      else c.refuseAlloc r := by
  simp only [allocation, h]

/-- A request that is not admitted touches the thread that asks, the task's list, and ALLOC_WAIT with its counter. -/
theorem Chip.Frame.allocation_not_admitted {x : Touch} (c : Chip) (r : AllocReq) (h : c.tryAlloc r = none)
    (list : x.tasks r.task) (asker : x.gals (galKey r.askWing r.askGal))
    (status : x.regs Reg.regStatus 8) (counter : ∀ i ≤ 47, x.regs (Reg.regCtr 8) i) : Chip.Frame x c (allocation r c) := by
  have start := Chip.Frame.refl x c
  rw [allocation_of_not_admitted c r h]
  split
  · exact start
  · split
    · exact ((start.modTask _ _ list).modThread _ _ _ _ asker).raise _ _ _ status counter
    · exact start.modThread _ _ _ _ asker

/-- The part of O10 about allocations, which holds of the eight classes that R234 gives a task: a request that would pass the quota moves
nothing. A quota of 0 with a block asked is one such case. -/
theorem allocation_over_quota_moves_nothing (s : State) (r : AllocReq) (hq : r.qclass < 8)
    (h : s.chip.quotaOf r.task r.qclass < s.chip.quotaUse r.task r.qclass + r.blocks) :
    Runs (.allocation r) s fun t =>
      t.chip.quotaUse r.task r.qclass = s.chip.quotaUse r.task r.qclass ∧ ∀ i, t.chip.cate i = s.chip.cate i := by
  obtain ⟨hs, hc, h0, h1⟩ := Reg.quota_apart (k := 8 * r.task.val + r.qclass) (by have := r.task.isLt; omega)
  have frame : Chip.Frame { regs := fun a _ => a = Reg.regStatus ∨ a = Reg.regCtr 8, gals := always, tasks := always } s.chip
      (allocation r s.chip) :=
    .allocation_not_admitted s.chip r (s.chip.tryAlloc_of_over_quota r h) trivial trivial (.inl rfl) fun _ _ => .inr rfl
  refine ⟨_, rfl, ?_, fun i => ?_⟩
  · exact frame.msix.fld _ 47 24 (by decide) fun _ _ _ => not_or.mpr ⟨not_or.mpr ⟨hs, hc⟩, not_or.mpr ⟨h0, h1⟩⟩
  · exact frame.msix.cat i (not_or.mpr ⟨id, id⟩)

/-- Refutes O10: its second part takes any class number, and class 271 of slot 0 names the counter of ALLOC_WAIT. With that counter all
ones, the class's QUOTA and USE both read 0xFFFFFF, so a request of one block waits; the wait counts, the counter wraps to 0 and USE reads 0. -/
theorem not_quotaWriteMovesNothing : ¬ Obligations.QuotaWriteMovesNothing := by
  unfold Obligations.QuotaWriteMovesNothing Claim.quotaWrite
  rintro ⟨-, overQuota, -⟩
  obtain ⟨t, runs, useStands, -⟩ := overQuota
    { State.reset with chip := { Chip.reset with
        tasks := [(0, { TaskSt.reset with phase := .running })]
        regs := [(Reg.regCtr 8, 0xFFFFFFFFFFFF)] } }
    { task := 0, qclass := 271, blocks := 1, kind := 3, owner := 0, askWing := 0, askGal := 0, askThread := 0 }
    (by decide +kernel)
  cases runs
  revert useStands
  decide +kernel

end Sys2Proof.Machine
end

section
/-! PROOFS. A register write by one who may write, and a write of chip.reg.op (R277), as any row that writes them uses them. -/

namespace Sys2Proof.Machine

/-- Once register space is open, the write of one who may write has its effect. -/
theorem Chip.regWrite_of_up (c : Chip) {w : Writer} (page : Bool) {a : Nat} (v : Word) (up : c.up = true) (may : c.mayWrite w a = true) :
    c.regWrite w page a v = c.regEffect w a v := by
  have reached : c.reachable a = true := by simp only [Chip.reachable, of_decide_eq_true up]
  simp [Chip.regWrite, reached, may]

/-- A write of chip.reg.op acts by its INDEX and OP fields (R277). -/
theorem Chip.regEffect_regOp (c : Chip) (w : Writer) (v : Word) : c.regEffect w Reg.regOp v = c.regOp (wbits v 25 0) (wbits v 35 32) := by
  have row : regDefAt Reg.regOp = some ⟨.chip, 0x2008, 1, 0, 0, 0, 0, 0xf03ffffff, 0, 0, 0⟩ := by decide +kernel
  simp only [Chip.regEffect, regAddr_chip (show Reg.regOp < 0x1000000 by decide), row]
  rfl

theorem opWord_toNat {i code : Nat} (h : code < 16) : (opWord i code).toNat = i % 2 ^ 26 + code * 2 ^ 32 :=
  toNat_w64 (by omega)

/-- INDEX of the word that a row writes to chip.reg.op. -/
theorem opWord_index {i code : Nat} (hi : i < 2 ^ 26) (h : code < 16) : wbits (opWord i code) 25 0 = i := by
  simp only [wbits, bits, opWord_toNat h, Nat.shiftRight_eq_div_pow]
  omega

/-- OP of the word that a row writes to chip.reg.op. -/
theorem opWord_code {i code : Nat} (h : code < 16) : wbits (opWord i code) 35 32 = code := by
  simp only [wbits, bits, opWord_toNat h, Nat.shiftRight_eq_div_pow]
  omega

end Sys2Proof.Machine
end

section
/-! PROOFS. The registers chip.reg.view (R278): their place in the map, what they take and show, and what a READ leaves in them. -/

namespace Sys2Proof.Machine

/-- Every view register has the map's row of R278, in which no bit takes a written value and the reset is 0. -/
theorem regDefAt_regView {k : Nat} (h : k < 4) : regDefAt (Reg.regView k) = some ⟨.chip, 0x2010, 4, 8, 0, 0, 0, 0, 0, 0, 0⟩ := by
  revert k
  decide +kernel

theorem Reg.regView_bounds {k : Nat} (h : k < 4) : 0x2010 ≤ Reg.regView k ∧ Reg.regView k < 0x2030 := by
  simp only [Reg.regView]
  omega

theorem Reg.regView_aligned (k : Nat) : Reg.regView k % 8 = 0 := by
  simp only [Reg.regView]
  omega

theorem Reg.regView_ne {j k : Nat} (h : j ≠ k) : Reg.regView j ≠ Reg.regView k := by
  simp only [Reg.regView]
  omega

theorem regReset_regView {k : Nat} (h : k < 4) : regReset (Reg.regView k) = 0 := by
  simp [regReset, regDefAt_regView h]

/-- A view register has no behaviour of its own: a write goes by its access codes (R10). -/
theorem Chip.regEffect_regView (c : Chip) (w : Writer) {k : Nat} (h : k < 4) (v : Word) :
    c.regEffect w (Reg.regView k) v = c.plainWrite (Reg.regView k) v := by
  obtain ⟨lo, hi⟩ := Reg.regView_bounds h
  have below : Reg.regView k < 0x1000000 := by omega
  simp only [Chip.regEffect, regAddr_chip below, regDefAt_regView h]
  unfold Chip.writeChipReg
  simp (disch := omega) only [if_neg]

/-- A view register reads as it is stored. -/
theorem Chip.regRead_regView (c : Chip) {k : Nat} (h : k < 4) : c.regRead (Reg.regView k) = c.rd (Reg.regView k) := by
  obtain ⟨lo, hi⟩ := Reg.regView_bounds h
  have below : Reg.regView k < 0x1000000 := by omega
  have view : c.chipView (Reg.regView k) (c.rd (Reg.regView k)).toNat = (c.rd (Reg.regView k)).toNat := by
    unfold Chip.chipView
    simp (disch := omega) only [if_neg]
  simp only [Chip.regRead, regAddr_chip below, regDefAt_regView h, view, w64, BitVec.ofNat_toNat, BitVec.setWidth_eq, BitVec.not_zero,
    BitVec.and_allOnes]

/-- No bit of a view register has an access code that takes a write. -/
theorem Chip.Frame.plainWrite_regView (c : Chip) {k : Nat} (h : k < 4) (v : Word) : Chip.Frame {} c (c.plainWrite (Reg.regView k) v) :=
  (Chip.Frame.refl _ _).plainWrite _ v (regDefAt_regView h) fun i hi => by simp [w64] at hi

/-- A write of a view register changes nothing, whoever may make it. -/
theorem Chip.Frame.registerWrite_regView (c : Chip) {w : Writer} {k : Nat} (h : k < 4) (v : Word) (up : c.up = true)
    (may : c.mayWrite w (Reg.regView k) = true) : Chip.Frame {} c (registerWrite w (Reg.regView k) 8 v c) := by
  obtain ⟨-, hi⟩ := Reg.regView_bounds h
  unfold registerWrite
  rw [if_pos (by omega), if_pos ⟨rfl, Reg.regView_aligned k⟩, c.regWrite_of_up false v up may, c.regEffect_regView w h]
  exact .plainWrite_regView c h v

/-- After the first `n` view registers were filled in turn, each of them holds its own word. -/
theorem Chip.rd_fill_regView (c : Chip) (word : Nat → Word) {n k : Nat} (h : k < n) :
    ((List.range n).foldl (fun d j => d.wr (Reg.regView j) (word j)) c).rd (Reg.regView k) = word k := by
  induction n with
  | zero => exact absurd h (Nat.not_lt_zero k)
  | succ n ih =>
    rw [List.range_succ, List.foldl_concat]
    rcases Nat.lt_succ_iff_lt_or_eq.mp h with lt | rfl
    · rw [Chip.rd_wr_ne _ _ (Reg.regView_ne lt.ne), ih lt]
    · exact Chip.rd_wr_self _ _ _

/-- READ fills the view registers with the entry's words (R277). -/
theorem Chip.regOp_read_regView (c : Chip) (i : Nat) {k : Nat} (h : k < 4) : (c.regOp i 6).rd (Reg.regView k) = (c.cate i).word k := by
  rw [Chip.regOp, if_pos rfl]
  exact c.rd_fill_regView (c.cate i).word h

/-- CATALOGUE_READ by one who may write chip.reg.op is a READ of that entry, and then the MSI-X messages. -/
theorem exec_catalogueRead {s : State} {w : Writer} {i : Nat} (up : s.chip.up = true) (may : s.chip.mayWrite w Reg.regOp = true)
    (hi : i < 2 ^ 26) : exec (.catalogueRead w i) s = .next { s with chip := (s.chip.regOp i 6).msix } := by
  calc exec (.catalogueRead w i) s = .next { s with chip := (s.chip.regWrite w false Reg.regOp (opWord i 6)).msix } := rfl
    _ = .next { s with chip := (s.chip.regOp i 6).msix } := by
      rw [s.chip.regWrite_of_up false _ up may, Chip.regEffect_regOp, opWord_index hi (by decide), opWord_code (by decide)]

/-- After CATALOGUE_READ, a view register reads its word of the entry. -/
theorem runs_catalogueRead_regView {s : State} {w : Writer} {i k : Nat} (up : s.chip.up = true) (may : s.chip.mayWrite w Reg.regOp = true)
    (hi : i < 2 ^ 26) (hk : k < 4) :
    Runs (.catalogueRead w i) s fun t => t.chip.regRead (Reg.regView k) = (s.chip.cate i).word k := by
  obtain ⟨-, below⟩ := Reg.regView_bounds hk
  have apart (h : HostPort) : Reg.regView k ≠ Reg.hostMsixArm (portIx h) := by
    cases h <;> simp only [Reg.hostMsixArm, portIx] <;> omega
  refine ⟨_, exec_catalogueRead up may hi, ?_⟩
  calc (s.chip.regOp i 6).msix.regRead (Reg.regView k)
      = (s.chip.regOp i 6).msix.rd (Reg.regView k) := Chip.regRead_regView _ hk
    _ = (s.chip.regOp i 6).rd (Reg.regView k) := Chip.msix_rd _ _ (apart .A) (apart .B)
    _ = (s.chip.cate i).word k := s.chip.regOp_read_regView i hk

/-- Settles O11: the place and the reset are the map's row, a READ fills the four registers that then read as stored, and no access code
of the row takes a write. -/
theorem entryViewRegisters : Obligations.EntryViewRegisters := by
  unfold Obligations.EntryViewRegisters Claim.regView
  intro k hk
  refine ⟨rfl, regReset_regView hk, fun s w i up may hi => ?_, fun s w v up may => ?_⟩
  · exact runs_catalogueRead_regView up may (by omega) hk
  · exact runs_registerWrite_frame (.registerWrite_regView s.chip hk v up may)

end Sys2Proof.Machine
end

section
/-! PROOFS. The sender's pick of the next packet (R345, R346): a search in the order of rank, first among the starved buffers, and the
counts of buffers passed over that a pick leaves. -/

namespace Sys2Proof.Machine

/-- The model's list access with a default is the library's. -/
theorem nth_eq_getD {α : Type} (d : α) (l : List α) (i : Nat) : nth d l i = l.getD i d := by
  induction l generalizing i with
  | nil => rfl
  | cons a l ih =>
    cases i with
    | zero => rfl
    | succ i => exact (ih i).trans List.getD_cons_succ.symm

theorem nth_map_zipIdx {α β : Type} (d : α) (e : β) (f : α × Nat → β) {l : List α} {i : Nat} (h : i < l.length) :
    nth e (l.zipIdx.map f) i = f (nth d l i, i) := by
  simp [nth_eq_getD, h]

/-- The first match in a list sorted by `r` stands before every other match. -/
theorem rel_of_find?_eq_some {α : Type} {r : α → α → Prop} (refl : ∀ a, r a a) {l : List α} (sorted : l.Pairwise r) {p : α → Bool}
    {a b : α} (found : l.find? p = some b) (mem : a ∈ l) (ha : p a = true) : r b a := by
  obtain ⟨-, before, after, rfl, none_before⟩ := List.find?_eq_some_iff_append.mp found
  obtain ⟨-, from_b, -⟩ := List.pairwise_append.mp sorted
  rcases List.mem_append.mp mem with early | late
  · exact absurd (none_before a early) (by simp [ha])
  · rcases List.mem_cons.mp late with rfl | later
    · exact refl _
    · exact List.rel_of_pairwise_cons from_b later

/-- The order of picks lists the seven buffers. -/
theorem mem_pickOrder {b : Nat} : b ∈ pickOrder ↔ b < 7 := by
  simp only [pickOrder, List.mem_cons, List.not_mem_nil, or_false]
  omega

/-- The order of picks is by rank. -/
theorem pickOrder_sorted : pickOrder.Pairwise fun a b => pickRank a ≤ pickRank b := by decide

/-- A buffer that is ready and was passed over 64 times (R346). -/
def PortSt.starved (x : PortSt) (b : Nat) : Bool := x.ready b && decide (64 ≤ nth 0 x.passed b)

theorem PortSt.starved_iff {x : PortSt} {b : Nat} : x.starved b = true ↔ x.ready b = true ∧ 64 ≤ nth 0 x.passed b := by
  simp [PortSt.starved]

/-- The pick is the first starved buffer, or else the first that is ready. -/
theorem PortSt.pick_eq_or (x : PortSt) : x.pick = (pickOrder.find? x.starved).or (pickOrder.find? x.ready) := by
  unfold PortSt.pick PortSt.starved
  split
  next b found => rw [found, Option.some_or]
  next none_found => rw [none_found, Option.none_or]

/-- Nothing is picked only when no buffer is ready. -/
theorem PortSt.ready_eq_false_of_pick {x : PortSt} (h : x.pick = none) {b : Nat} (hb : b < 7) : x.ready b = false := by
  obtain ⟨-, none_ready⟩ := Option.or_eq_none_iff.mp (x.pick_eq_or ▸ h)
  simpa using List.find?_eq_none.mp none_ready b (mem_pickOrder.mpr hb)

/-- The two ways to be picked: first of the starved, or first of the ready with none starved. -/
theorem PortSt.pick_cases {x : PortSt} {b : Nat} (h : x.pick = some b) :
    pickOrder.find? x.starved = some b ∨ ((∀ q < 7, x.starved q = false) ∧ pickOrder.find? x.ready = some b) := by
  rcases Option.or_eq_some_iff.mp (x.pick_eq_or ▸ h) with starved | ⟨none_starved, ready⟩
  · exact .inl starved
  · exact .inr ⟨fun q hq => by simpa using List.find?_eq_none.mp none_starved q (mem_pickOrder.mpr hq), ready⟩

theorem PortSt.pick_lt {x : PortSt} {b : Nat} (h : x.pick = some b) : b < 7 := by
  rcases x.pick_cases h with found | ⟨-, found⟩ <;> exact mem_pickOrder.mp (List.mem_of_find?_eq_some found)

theorem PortSt.ready_of_pick {x : PortSt} {b : Nat} (h : x.pick = some b) : x.ready b = true := by
  rcases x.pick_cases h with found | ⟨-, found⟩
  · exact (PortSt.starved_iff.mp (List.find?_some found)).1
  · exact List.find?_some found

/-- While some buffer is starved, the one picked is starved. -/
theorem PortSt.passed_of_pick {x : PortSt} {b q : Nat} (h : x.pick = some b) (hq : q < 7) (starved : x.starved q = true) :
    64 ≤ nth 0 x.passed b := by
  rcases x.pick_cases h with found | ⟨none_starved, -⟩
  · exact (PortSt.starved_iff.mp (List.find?_some found)).2
  · exact absurd (none_starved q hq) (by simp [starved])

/-- With no buffer starved, the one picked is first in rank of those ready. -/
theorem PortSt.pickRank_le_of_pick {x : PortSt} {b q : Nat} (h : x.pick = some b)
    (fresh : ∀ k < 7, x.ready k = true → nth 0 x.passed k < 64) (hq : q < 7) (ready : x.ready q = true) : pickRank b ≤ pickRank q := by
  rcases x.pick_cases h with found | ⟨-, found⟩
  · obtain ⟨ready_b, starved_b⟩ := PortSt.starved_iff.mp (List.find?_some found)
    exact absurd (fresh b (x.pick_lt h) ready_b) starved_b.not_gt
  · exact rel_of_find?_eq_some (r := fun a b => pickRank a ≤ pickRank b) (fun _ => le_rfl) pickOrder_sorted found (mem_pickOrder.mpr hq) ready

/-- A ready buffer has a first packet, and the credits for its header unit and its data units (R345). -/
theorem PortSt.ready_iff {x : PortSt} {b : Nat} :
    x.ready b = true ↔ ∃ q, x.firstOf b = some q ∧ 1 + dataUnits q.pkt ≤ nth 0 x.credits b := by
  unfold PortSt.ready
  cases x.firstOf b <;> simp

/-- The counts after a pick: that of the buffer picked and of those not ready start again, every other is one more. -/
theorem PortSt.passed_fillStream_one {x : PortSt} {b : Nat} (h : x.pick = some b) (ver : Nat) (room : x.stream.length < 1024) {k : Nat}
    (hk : k < x.passed.length) :
    nth 0 (PortSt.fillStream ver 1 x).passed k = if k = b then 0 else if x.ready k then nth 0 x.passed k + 1 else 0 := by
  obtain ⟨p, first, -⟩ := PortSt.ready_iff.mp (x.ready_of_pick h)
  simp only [PortSt.fillStream, if_neg room.not_ge, h, first, nth_map_zipIdx 0 0 _ hk]

/-- Settles O13: readiness, starvation and rank by the search in rank order, the counts by one packet's filling of the stream. -/
theorem packetPickOrder : Obligations.PacketPickOrder := by
  unfold Obligations.PacketPickOrder Claim.pickRule
  intro x
  refine ⟨fun idle b hb => x.ready_eq_false_of_pick idle hb, fun b picked => ⟨x.pick_lt picked, x.ready_of_pick picked, ?_, ?_, ?_⟩⟩
  · rintro ⟨q, hq, ready, passed⟩
    exact x.passed_of_pick picked hq (PortSt.starved_iff.mpr ⟨ready, passed⟩)
  · exact fun fresh q hq ready => x.pickRank_le_of_pick picked fresh hq ready
  · intro ver room seven
    have counts {k : Nat} (hk : k < 7) := x.passed_fillStream_one picked ver room (seven ▸ hk)
    exact ⟨_, rfl, by simp [counts (x.pick_lt picked)], fun q hq other => by simp [counts hq, other]⟩

end Sys2Proof.Machine
end

section
/-! PROOFS. The primary role (R393): what a write of chip.host.cfg does to it from either port, and how it passes when the primary's link
stays down. -/

namespace Sys2Proof.Machine

/-- PRIMARY and FAILOVER of chip.host.cfg are rw and FAILOVER_EV is w1c; PRIMARY and FAILOVER are loaded from configuration flash (R408). -/
theorem regDefAt_hostCfg :
    regDefAt Reg.hostCfg = some ⟨.chip, 0x6200, 1, 0, 0xffff0001, 0x100000000, 0, 0, 0, 0xffff0001, 0xffff0001⟩ := by decide +kernel

/-- The MSI-X messages that follow a command leave chip.host.cfg as it is. -/
theorem Chip.msix_rd_hostCfg (c : Chip) : c.msix.rd Reg.hostCfg = c.rd Reg.hostCfg :=
  c.msix_rd _ (by decide) (by decide)

theorem Chip.msix_flag_hostCfg (c : Chip) (i : Nat) : c.msix.flag Reg.hostCfg i = c.flag Reg.hostCfg i := by
  rw [Chip.flag_eq, c.msix_rd_hostCfg, Chip.flag_eq]

/-- The role is read from PRIMARY alone. -/
theorem Chip.primary_of_flag {c d : Chip} (h : d.flag Reg.hostCfg 0 = c.flag Reg.hostCfg 0) : d.primary = c.primary := by
  rw [Chip.primary, h, Chip.primary]

theorem Chip.msix_primary (c : Chip) : c.msix.primary = c.primary := Chip.primary_of_flag (c.msix_flag_hostCfg 0)

theorem Chip.primary_setPrimary (c : Chip) (h : HostPort) : (c.setPrimary h).primary = h := by
  have named : (c.setPrimary h).flag Reg.hostCfg 0 = decide (h = .B) := by
    unfold Chip.setPrimary
    rw [Chip.flag_setFlag_ne _ _ _ _ (by decide), Chip.flag_setFlag_ne _ _ _ _ (by decide), Chip.flag_setFlag_self _ _ _ _ (by decide)]
  cases h <;> simp [Chip.primary, named]

/-- A flag of chip.host.cfg other than PRIMARY that is raised leaves the role where it is. -/
theorem Chip.primary_raise_hostCfg (c : Chip) {i : Nat} (h : i < 64) (ne : 0 ≠ i) :
    (c.raise Reg.hostCfg i Reg.hostCfgCtr).primary = c.primary := by
  apply Chip.primary_of_flag
  rw [Chip.raise, Chip.countBy, Chip.flag_setFld_ne _ _ _ _ _ (by decide), Chip.flag_setFlag_other _ _ _ _ _ h ne]

/-! ### A write of chip.host.cfg -/

/-- Of the ports, the primary alone may write chip.host.cfg: the register lies outside either port's own block and is no start tick (R394). -/
theorem Chip.mayWrite_hostCfg (c : Chip) (h : HostPort) : c.mayWrite (.host h) Reg.hostCfg = decide (h = c.primary) := by
  have outside : secondaryMay (portIx h) Reg.hostCfg = false := by cases h <;> decide
  simp only [Chip.mayWrite, outside, Bool.or_false]

theorem Chip.regEffect_hostCfg (c : Chip) (w : Writer) (v : Word) : c.regEffect w Reg.hostCfg v = c.writeHostCfg v := by
  simp only [Chip.regEffect, regAddr_chip (show Reg.hostCfg < 0x1000000 by decide), regDefAt_hostCfg]
  rfl

/-- The role goes to the port that the written PRIMARY names. -/
theorem Chip.primary_writeHostCfg (c : Chip) (v : Word) : (c.writeHostCfg v).primary = if v.getLsbD 0 then .B else .A := by
  have taken : (c.plainWrite Reg.hostCfg v).flag Reg.hostCfg 0 = v.getLsbD 0 := by
    rw [Chip.flag_eq, Chip.plainWrite_bit _ _ _ regDefAt_hostCfg]
    simp [w64]
  calc (c.writeHostCfg v).primary = (c.plainWrite Reg.hostCfg v).primary := Chip.primary_setPrimary _ _
    _ = if v.getLsbD 0 then .B else .A := by rw [Chip.primary, taken]

/-- A write by one who may not write is discarded: it leaves the port's PRIV_DROP and no more (R394). -/
theorem Chip.regWrite_of_may_not (c : Chip) {w : Writer} (page : Bool) {a : Nat} (v : Word) (up : c.up = true) (may : c.mayWrite w a = false) :
    c.regWrite w page a v = c.privDrop w := by
  have reached : c.reachable a = true := by simp only [Chip.reachable, of_decide_eq_true up]
  simp [Chip.regWrite, reached, may]

/-- PRIV_DROP and its counter lie in the port's own block, not in chip.host.cfg. -/
theorem Chip.rd_privDrop_hostCfg (c : Chip) (w : Writer) : (c.privDrop w).rd Reg.hostCfg = c.rd Reg.hostCfg := by
  cases w with
  | pendun => rfl
  | host h => cases h <;> exact Chip.rd_raise_ne _ _ (by decide) (by decide)

/-- PRIMARY_WRITE by the primary gives the role to the port that it names. -/
theorem runs_primaryWrite_primary {s : State} {h : HostPort} (v : Word) (up : s.chip.up = true) (first : h = s.chip.primary) :
    Runs (.primaryWrite (.host h) v) s fun t => t.chip.primary = if v.getLsbD 0 then .B else .A := by
  have may : s.chip.mayWrite (.host h) Reg.hostCfg = true := by rw [Chip.mayWrite_hostCfg, decide_eq_true first]
  refine ⟨_, rfl, ?_⟩
  calc (s.chip.regWrite (.host h) false Reg.hostCfg v).msix.primary
      = (s.chip.regWrite (.host h) false Reg.hostCfg v).primary := Chip.msix_primary _
    _ = (s.chip.writeHostCfg v).primary := by rw [s.chip.regWrite_of_up false v up may, Chip.regEffect_hostCfg]
    _ = if v.getLsbD 0 then .B else .A := s.chip.primary_writeHostCfg v

/-- PRIMARY_WRITE by the other port leaves chip.host.cfg as it is. -/
theorem runs_primaryWrite_other {s : State} {h : HostPort} (v : Word) (up : s.chip.up = true) (other : h ≠ s.chip.primary) :
    Runs (.primaryWrite (.host h) v) s fun t => t.chip.rd Reg.hostCfg = s.chip.rd Reg.hostCfg := by
  have may : s.chip.mayWrite (.host h) Reg.hostCfg = false := by rw [Chip.mayWrite_hostCfg, decide_eq_false other]
  refine ⟨_, rfl, ?_⟩
  calc (s.chip.regWrite (.host h) false Reg.hostCfg v).msix.rd Reg.hostCfg
      = (s.chip.regWrite (.host h) false Reg.hostCfg v).rd Reg.hostCfg := Chip.msix_rd_hostCfg _
    _ = (s.chip.privDrop (.host h)).rd Reg.hostCfg := by rw [s.chip.regWrite_of_may_not false v up may]
    _ = s.chip.rd Reg.hostCfg := s.chip.rd_privDrop_hostCfg (.host h)

/-! ### Failover -/

/-- With FAILOVER 0 the role never passes. -/
theorem failover_of_disabled {c : Chip} (off : c.fld Reg.hostCfg 31 16 = 0) : failover c = c := by
  simp [failover, off]

/-- With FAILOVER not 0, the primary's link down passes the role and raises FAILOVER_EV. -/
theorem failover_of_link_down {c : Chip} (up : c.up = true) (on : c.fld Reg.hostCfg 31 16 ≠ 0) (down : (c.host (portIx c.primary)).link = false) :
    failover c = (c.setPrimary (otherPort c.primary)).raise Reg.hostCfg 32 Reg.hostCfgCtr := by
  simp [failover, up, on, down]

/-- FAILOVER with the primary's link down: nothing where FAILOVER is 0, and else the other port is primary with FAILOVER_EV set. -/
theorem runs_failover {s : State} (up : s.chip.up = true) (down : (s.chip.host (portIx s.chip.primary)).link = false) :
    Runs .failover s fun t =>
      if s.chip.fld Reg.hostCfg 31 16 = 0 then State.Frame {} s t
      else t.chip.primary = otherPort s.chip.primary ∧ t.chip.flag Reg.hostCfg 32 = true := by
  refine ⟨_, rfl, ?_⟩
  split
  case isTrue off =>
    refine State.Frame.onChip ?_
    rw [failover_of_disabled off]
    exact Chip.Frame.refl _ _
  case isFalse on =>
    rw [failover_of_link_down up on down, Chip.msix_primary, Chip.msix_flag_hostCfg]
    exact ⟨by rw [Chip.primary_raise_hostCfg _ (by decide) (by decide), Chip.primary_setPrimary],
      Chip.flag_raise_self _ _ (by decide) (by decide)⟩

/-- Settles O12: the register map loads PRIMARY from configuration flash, a port's write of chip.host.cfg takes effect only from the
primary, and failover has its two cases by FAILOVER. -/
theorem primaryRole : Obligations.PrimaryRole := by
  unfold Obligations.PrimaryRole Claim.primaryRule
  refine ⟨fun _ => rfl, ⟨_, regDefAt_hostCfg, by decide⟩, fun s h v up => ⟨runs_primaryWrite_primary v up, fun other => ?_⟩,
    fun s => runs_failover⟩
  obtain ⟨t, runs, kept⟩ := runs_primaryWrite_other v up other
  have flags (i : Nat) : t.chip.flag Reg.hostCfg i = s.chip.flag Reg.hostCfg i := by rw [Chip.flag_eq, kept, Chip.flag_eq]
  exact ⟨t, runs, Chip.primary_of_flag (flags 0), fun i _ => flags i⟩

end Sys2Proof.Machine
end
